-- ==== Sys2Proof/Word.lean ====
section
/-! DEFINITION. The word types of the machine and its plainest arithmetic: bytes, little-endian conversion (spec/00 R7), signed
and unsigned readings of a pattern (spec/00 R10, spec/06 R97). -/
namespace Sys2Proof

/-- R7. A byte of memory. -/
abbrev Byte := BitVec 8
/-- R47. The 32-bit lane word. -/
abbrev Word32 := BitVec 32
/-- R97. The scalar register word. -/
abbrev Word64 := BitVec 64

/-- R7. The little-endian value of a list of bytes: the first byte is bits [7:0]. -/
def leValue : List Byte → Nat
  | [] => 0
  | b :: t => b.toNat + 256 * leValue t

/-- R7. The n little-endian bytes of a value. -/
def leBytes : Nat → Nat → List Byte
  | 0, _ => []
  | n + 1, x => BitVec.ofNat 8 x :: leBytes n (x / 256)

/-- R11. Bits [hi:lo] of x, as an unsigned integer. -/
def bits (x hi lo : Nat) : Nat := x / 2 ^ lo % 2 ^ (hi + 1 - lo)

/-- R11. The signed value of the low n bits of x. -/
def sextNat (n x : Nat) : Int :=
  let y := x % 2 ^ n
  if y < 2 ^ (n - 1) then (y : Int) else (y : Int) - (2 : Int) ^ n

/-- R97. wrap(y): y modulo 2^64. -/
def wrap64 (y : Int) : Word64 := BitVec.ofInt 64 y

/-- R10. Truncation of an integer to n bits, as an unsigned value. -/
def wrapNat (n : Nat) (y : Int) : Nat := (y % (2 : Int) ^ n).toNat

/-- R11. Replaces bits [lo + len - 1 : lo] of x by the low len bits of v. -/
def setBits (x lo len v : Nat) : Nat :=
  x % 2 ^ lo + (v % 2 ^ len) * 2 ^ lo + x / 2 ^ (lo + len) * 2 ^ (lo + len)

/-- Bit i of x. -/
def bitAt (x i : Nat) : Bool := x / 2 ^ i % 2 == 1

end Sys2Proof
end

