-- ==== Sys2Proof/Config.lean ====
section
/-! DEFINITION. What the implementation, the environment or nobody fixes: free values, each an opaque constant applied to a plain
counter of the state or to the operands it depends on (assumption log 3). Nothing can be proved about a value of them. -/
namespace Sys2Proof.Config

/-- A free choice or a free delay: the n-th that the machine draws. -/
opaque draw : Nat → Nat

/-- A free 64-bit value: the n-th that the machine draws. -/
opaque freeWord : Nat → BitVec 64

/-- R363, R364. Soft errors: how many copies of the n-th voted or compared value differ (0 none, 1 one copy, otherwise all). -/
opaque upset : Nat → Nat

/-- R283, R366. Errors of DRAM: what the n-th access meets (0 none, 1 corrected, 2 uncorrectable). -/
opaque dramError : Nat → Nat

/-- R317, R347. The pseudo-channel (256 x die + 2 x channel + PC) that holds a physical address. -/
opaque homePc : Nat → Nat

/-- R283. The bank and row (16 rows counted from the bank) of a physical address in its pseudo-channel. -/
opaque homeRow : Nat → Nat

/-- R277. The pseudo-channel of a 2 MiB frame (by its number) that is laid out bank-striped on one, if it is.
(Assumption log 61: DESIGN CHOICE.) -/
opaque striped : Nat → Option Nat

/-- R301. How many 2 KiB rows of a pseudo-channel the 64 KiB frame at a physical address holds: a pseudo-channel and a frame number. -/
opaque rowsOf : Nat → Nat → Nat

/-- R368, R376, R377. SHAKE256 with an output of n bytes: named, not defined, by the spec. -/
opaque shake256 : List (BitVec 8) → Nat → List (BitVec 8)

/-- R376. Whether a firmware image carries a valid ML-DSA-65 signature under a public key. -/
opaque mldsaVerify : List (BitVec 8) → List (BitVec 8) → Bool

/-- R376. The public key that comes with a firmware image. -/
opaque imageKey : List (BitVec 8) → List (BitVec 8)

/-- R376. The digest fused at manufacture. -/
opaque fusedDigest : List (BitVec 8)

/-- R376. The boot ROM's check of a firmware image: its key has the fused digest, and its signature is valid under that key. -/
def verifies (image : List (BitVec 8)) : Bool := decide (shake256 (imageKey image) 32 = fusedDigest) && mldsaVerify (imageKey image) image

/-- R377. The ML-DSA-65 signature of the module's identity key: 3,309 bytes. -/
opaque mldsaSign : List (BitVec 8) → Vector (BitVec 8) 3309

/-- R377. The module's public identity key: 1,952 bytes. -/
opaque identityKey : Vector (BitVec 8) 1952

/-- R376. The firmware image in the module at power-on. -/
opaque bootImage : List (BitVec 8)

/-- R381. The inlet air in degrees Celsius in a core cycle. -/
opaque inletAir : Nat → Int

/-- R381. The power that the module would draw without cycle skips, in watts: the n-th look at it. -/
opaque power : Nat → Nat

/-- R337, R343. The message that a message flit's payload completes, if it does: its destination as SEND's xb names it, and its bytes.
(Assumption log 63: DEDUCED.) -/
opaque flitMessage : List (BitVec 8) → Option (BitVec 64 × List (BitVec 8))

/-- R337, R340. The access of another module that a memory flit's payload asks for, if it is not the answer to one of this module's: the physical
address and, for a write, its bytes.
(Assumption log 63: DEDUCED.) -/
opaque flitAccess : List (BitVec 8) → Option (Nat × Option (List (BitVec 8)))

/-- R338. The group of a device link.
(Assumption log 65: DEDUCED.) -/
opaque linkGroup : Nat → Nat

/-- R338. Whether a device link leads to a module.
(Assumption log 65: DEDUCED.) -/
opaque linkLeads : Nat → Nat → Bool

/-- R338, R340. The core cycles that a flit takes over a device link.
(Assumption log 65: DEDUCED.) -/
opaque linkFlight : Nat → Nat

end Sys2Proof.Config
end

