-- ==== Sys2Proof/Syntax.lean ====
section
/-! DEFINITION. The syntax of the machine's steps: operand types and the one inductive Instr, one constructor per
row of spec/opcode_table.json. Slot instructions hold the fields that their encodings hold (spec/05 R84 to R90 and the
chapters each docstring names); the steps that no core fetches (events, host commands) hold the part or the body they name. -/
namespace Sys2Proof

/-- R84, R85. A C-slot predicate or a V-slot lane predicate, with its negate bit. -/
structure Guard where
  p : Fin 8
  neg : Bool
  deriving DecidableEq, Repr

/-- R87. The two scalar slots. -/
inductive Lane2 | a | b
  deriving DecidableEq, Repr

/-- R234. The header of a host command: TAG, DIE, QUEUE, VER, and every reserved bit read as one number. -/
structure HostHdr where
  tag : Nat
  die : Nat
  queue : Nat
  ver : Nat
  reserved : Nat
  deriving DecidableEq, Repr

/-- R271. The operations of a host atomic. -/
inductive HostAtomOp | fetchAdd | compareSwap | swap
  deriving DecidableEq, Repr

/-- R342. Delivery modes of an Ultra Ethernet packet. -/
inductive UeMode | rod | rud | rudi | uud
  deriving DecidableEq, Repr

/-- R337. The types of a flit. -/
inductive FlitType | idle | memory | message | alignment | ack
  deriving DecidableEq, Repr

/-- R337. A device-link flit as it arrives: header fields, payload, and whether its CRC-64 holds. -/
structure Flit where
  type : FlitType
  credits : Nat
  seq : Nat
  ackSeq : Nat
  payload : List (BitVec 8)
  crcOk : Bool
  deriving DecidableEq, Repr

/-- One step of the machine: a slot instruction of a bundle, an event of a part, or a host command.
(Assumption log 93: DEDUCED.) -/
inductive Instr where
  /-- R86. No operation; reads no predicate. -/
  | nop
  /-- R221. Branch by a signed line displacement. -/
  | br (g : Guard) (disp : BitVec 18)
  /-- R221. Branch to the line address in xa. -/
  | brx (g : Guard) (xa : Fin 32)
  /-- R221. Branch and link in x31. -/
  | call (g : Guard) (disp : BitVec 18)
  /-- R221. Branch to the line address in x31. -/
  | ret (g : Guard)
  /-- R222. Start a hardware loop. -/
  | loop (g : Guard) (lvl : Fin 8) (disp : BitVec 15)
  /-- R222. Leave hardware loops. -/
  | lbrk (g : Guard) (lvl : Fin 8) (disp : BitVec 15)
  /-- R249, R254. Take cnt + 1 from semaphore sm. -/
  | waits (g : Guard) (sm : Fin 16) (cnt : Fin 8)
  /-- R250, R254. Add cnt + 1 to semaphore sm. -/
  | sigs (g : Guard) (sm : Fin 16) (cnt : Fin 8)
  /-- R190. Wait for chunks of a card. -/
  | waitc (g : Guard) (xm xc : Fin 32)
  /-- R245, R254. Arrive on a barrier entry. -/
  | arrive (g : Guard) (bk : Fin 16)
  /-- R247, R254. Wait for a barrier phase. -/
  | bwait (g : Guard) (bk : Fin 16)
  /-- R251, R254. Fence at a scope. -/
  | fence (g : Guard) (scope : Fin 8)
  /-- R252, R254. Acquire a synchronisation variable. -/
  | acq (g : Guard) (xa : Fin 32) (scope : Fin 8)
  /-- R252, R254. Release a synchronisation variable. -/
  | rel (g : Guard) (xa : Fin 32) (scope : Fin 8)
  /-- R218. Wait until the banks of a mask are owned. -/
  | bankacq (g : Guard) (xa : Fin 32)
  /-- R218. Release the banks of a mask. -/
  | bankrel (g : Guard) (xa : Fin 32)
  /-- R230, R231. Launch a child. -/
  | launch (g : Guard) (xd xa : Fin 32)
  /-- R230, R232. Cancel a launch. -/
  | cancel (g : Guard) (xd xa : Fin 32)
  /-- R205, R206. Take a message or sleep. -/
  | sleep (g : Guard)
  /-- R206. Arm a handler class. -/
  | armh (g : Guard) (xa : Fin 32) (k : Fin 8)
  /-- R206. Give up the issue port. -/
  | yield (g : Guard)
  /-- R206. Software trap. -/
  | trap (g : Guard) (n : BitVec 8)
  /-- R206. Return from the trap handler. -/
  | rett (g : Guard)
  /-- R206. Read a control register. -/
  | csrr (g : Guard) (csr : BitVec 10) (xd : Fin 32)
  /-- R206. Write a control register that has no row of its own. -/
  | csrw (g : Guard) (csr : BitVec 10) (xa : Fin 32)
  /-- R139. -/
  | csrwMemdef (g : Guard) (xa : Fin 32)
  /-- R113. -/
  | csrwClm (g : Guard) (xa : Fin 32)
  /-- R40. -/
  | csrwFramelen (g : Guard) (xa : Fin 32)
  /-- R31, R40. -/
  | csrwDetmode (g : Guard) (xa : Fin 32)
  /-- R315. -/
  | csrwStepref (g : Guard) (xa : Fin 32)
  /-- R209. -/
  | csrwTrappc (g : Guard) (xa : Fin 32)
  /-- R209. -/
  | csrwHarm (g : Guard) (k : Fin 8) (xa : Fin 32)
  /-- R222, R26. LCn (isIdx false) or LIn of level n. -/
  | csrwLoopCount (g : Guard) (isIdx : Bool) (lvl : Fin 8) (xa : Fin 32)
  /-- R169. -/
  | csrwMslot (g : Guard) (n : Fin 16) (xa : Fin 32)
  /-- R275. -/
  | csrwXlroot (g : Guard) (xa : Fin 32)
  /-- R223. Load stencil-table entries. -/
  | stenld (g : Guard) (xn xa : Fin 32)
  /-- R41. Start a schedule frame. -/
  | frame (g : Guard) (xa : Fin 32) (len : BitVec 8)
  /-- R206, R371. Breakpoint. -/
  | brk (g : Guard) (tag : BitVec 8)
  /-- R207. End the tile task. -/
  | endTask (g : Guard)
  /-- R206. Emit a trace event. -/
  | sevt (g : Guard) (ev : BitVec 8)
  /-- R98. -/
  | add (sl : Lane2) (xd xa xb : Fin 32)
  /-- R98. -/
  | sub (sl : Lane2) (xd xa xb : Fin 32)
  /-- R98. -/
  | and (sl : Lane2) (xd xa xb : Fin 32)
  /-- R98. -/
  | or (sl : Lane2) (xd xa xb : Fin 32)
  /-- R98. -/
  | xor (sl : Lane2) (xd xa xb : Fin 32)
  /-- R98. -/
  | shl (sl : Lane2) (xd xa xb : Fin 32)
  /-- R98. -/
  | shr (sl : Lane2) (xd xa xb : Fin 32)
  /-- R98. -/
  | sra (sl : Lane2) (xd xa xb : Fin 32)
  /-- R98. -/
  | mul (sl : Lane2) (xd xa xb : Fin 32)
  /-- R98. -/
  | mulh (sl : Lane2) (xd xa xb : Fin 32)
  /-- R98. -/
  | mulhn (sl : Lane2) (xd xa xb : Fin 32)
  /-- R98. -/
  | min (sl : Lane2) (xd xa xb : Fin 32)
  /-- R98. -/
  | max (sl : Lane2) (xd xa xb : Fin 32)
  /-- R98. -/
  | minn (sl : Lane2) (xd xa xb : Fin 32)
  /-- R98. -/
  | maxn (sl : Lane2) (xd xa xb : Fin 32)
  /-- R103. Compare two registers into a predicate. -/
  | cmp (sl : Lane2) (pd : Fin 8) (xa xb : Fin 32) (cond : Fin 8)
  /-- R104. Select by a predicate. -/
  | sel (sl : Lane2) (xd xa xb : Fin 32) (ps : Fin 8) (inv : Bool)
  /-- R102. Count leading zeros. -/
  | clz (sl : Lane2) (xd xa : Fin 32)
  /-- R102. Count ones. -/
  | popc (sl : Lane2) (xd xa : Fin 32)
  /-- R99. Signed quotient. -/
  | div (sl : Lane2) (xd xa xb : Fin 32)
  /-- R99. Signed remainder. -/
  | rem (sl : Lane2) (xd xa xb : Fin 32)
  /-- R100. -/
  | addi (sl : Lane2) (xd xa : Fin 32) (imm : BitVec 12)
  /-- R100. -/
  | andi (sl : Lane2) (xd xa : Fin 32) (imm : BitVec 12)
  /-- R100. -/
  | ori (sl : Lane2) (xd xa : Fin 32) (imm : BitVec 12)
  /-- R100. -/
  | xori (sl : Lane2) (xd xa : Fin 32) (imm : BitVec 12)
  /-- R100. -/
  | shli (sl : Lane2) (xd xa : Fin 32) (n : Fin 64)
  /-- R100. -/
  | shri (sl : Lane2) (xd xa : Fin 32) (n : Fin 64)
  /-- R100. -/
  | srai (sl : Lane2) (xd xa : Fin 32) (n : Fin 64)
  /-- R103. Compare with an immediate. -/
  | cmpi (sl : Lane2) (pd : Fin 8) (xa : Fin 32) (cond : Fin 8) (imm : BitVec 9)
  /-- R101. Load upper immediate. -/
  | lui (sl : Lane2) (xd : Fin 32) (imm : BitVec 17)
  /-- R105. Predicate logic by truth table. -/
  | plog (sl : Lane2) (pd pa pb : Fin 8) (table : BitVec 4)
  /-- R107. Scalar load. -/
  | ldsD (xd xa : Fin 32) (imm : BitVec 12)
  /-- R107. Scalar load. -/
  | ldsW (xd xa : Fin 32) (imm : BitVec 12)
  /-- R107. Scalar load. -/
  | ldsWn (xd xa : Fin 32) (imm : BitVec 12)
  /-- R107. Scalar load. -/
  | ldsH (xd xa : Fin 32) (imm : BitVec 12)
  /-- R107. Scalar load. -/
  | ldsHn (xd xa : Fin 32) (imm : BitVec 12)
  /-- R107. Scalar load. -/
  | ldsB (xd xa : Fin 32) (imm : BitVec 12)
  /-- R107. Scalar load. -/
  | ldsBn (xd xa : Fin 32) (imm : BitVec 12)
  /-- R107. Scalar store; xd is the data source. -/
  | stsD (xd xa : Fin 32) (imm : BitVec 12)
  /-- R107. Scalar store; xd is the data source. -/
  | stsW (xd xa : Fin 32) (imm : BitVec 12)
  /-- R107. Scalar store; xd is the data source. -/
  | stsH (xd xa : Fin 32) (imm : BitVec 12)
  /-- R107. Scalar store; xd is the data source. -/
  | stsB (xd xa : Fin 32) (imm : BitVec 12)
  /-- R116. No operation; reads no predicate. -/
  | vnop
  /-- R119. -/
  | vadd (g : Guard) (fmt : Fin 8) (vd va vb : Fin 32) (rm : Fin 4) (sat : Bool)
  /-- R119. -/
  | vsub (g : Guard) (fmt : Fin 8) (vd va vb : Fin 32) (rm : Fin 4) (sat : Bool)
  /-- R119. -/
  | vmul (g : Guard) (fmt : Fin 8) (vd va vb : Fin 32) (rm : Fin 4) (sat : Bool)
  /-- R119. -/
  | vfma (g : Guard) (fmt : Fin 8) (vd va vb vc : Fin 32) (rm : Fin 4) (sat : Bool)
  /-- R119. -/
  | vfms (g : Guard) (fmt : Fin 8) (vd va vb vc : Fin 32) (rm : Fin 4) (sat : Bool)
  /-- R119. -/
  | vfnma (g : Guard) (fmt : Fin 8) (vd va vb vc : Fin 32) (rm : Fin 4) (sat : Bool)
  /-- R50, R119. -/
  | vmin (g : Guard) (fmt : Fin 8) (vd va vb : Fin 32)
  /-- R50, R119. -/
  | vmax (g : Guard) (fmt : Fin 8) (vd va vb : Fin 32)
  /-- R119. -/
  | vabs (g : Guard) (fmt : Fin 8) (vd va : Fin 32)
  /-- R119. -/
  | vneg (g : Guard) (fmt : Fin 8) (vd va : Fin 32)
  /-- R121. -/
  | vcmp (g : Guard) (fmt pd : Fin 8) (va vb : Fin 32) (cond : Fin 8) (part : Bool)
  /-- R122. -/
  | vsel (g : Guard) (vd va vb : Fin 32) (ps : Fin 8) (inv : Bool)
  /-- R119. -/
  | vdiv (g : Guard) (fmt : Fin 8) (vd va vb : Fin 32) (rm : Fin 4) (sat : Bool)
  /-- R119, R62. -/
  | vsqrt (g : Guard) (fmt : Fin 8) (vd va : Fin 32) (rm : Fin 4) (sat : Bool)
  /-- R119, R62. -/
  | vrcp (g : Guard) (fmt : Fin 8) (vd va : Fin 32) (rm : Fin 4) (sat : Bool)
  /-- R119, R62. -/
  | vrsq (g : Guard) (fmt : Fin 8) (vd va : Fin 32) (rm : Fin 4) (sat : Bool)
  /-- R119, R62. -/
  | vexp2 (g : Guard) (fmt : Fin 8) (vd va : Fin 32) (rm : Fin 4) (sat : Bool)
  /-- R119, R62. -/
  | vlog2 (g : Guard) (fmt : Fin 8) (vd va : Fin 32) (rm : Fin 4) (sat : Bool)
  /-- R123. Convert; vc is read only when narrowing. -/
  | vcvt (g : Guard) (fmt : Fin 8) (vd va vc : Fin 32) (rm : Fin 4) (sat : Bool) (src : Fin 8) (part : Fin 4)
  /-- R124. Scale by an E8M0 code. -/
  | vscl (g : Guard) (fmt : Fin 8) (vd va vb : Fin 32) (rm : Fin 4) (sat byReg : Bool) (ks : Fin 8)
  /-- R120. -/
  | vrint (g : Guard) (fmt : Fin 8) (vd va : Fin 32) (rm : Fin 4)
  /-- R125. -/
  | viadd (g : Guard) (fmt : Fin 8) (vd va vb : Fin 32) (sat : Bool)
  /-- R125. -/
  | visub (g : Guard) (fmt : Fin 8) (vd va vb : Fin 32) (sat : Bool)
  /-- R125. -/
  | vimul (g : Guard) (fmt : Fin 8) (vd va vb : Fin 32) (sat : Bool)
  /-- R126. -/
  | vand (g : Guard) (vd va vb : Fin 32)
  /-- R126. -/
  | vor (g : Guard) (vd va vb : Fin 32)
  /-- R126. -/
  | vxor (g : Guard) (vd va vb : Fin 32)
  /-- R127. -/
  | vshl (g : Guard) (fmt : Fin 8) (vd va vb : Fin 32) (byImm : Bool) (n : Fin 64)
  /-- R127. -/
  | vshr (g : Guard) (fmt : Fin 8) (vd va vb : Fin 32) (byImm : Bool) (n : Fin 64)
  /-- R127. -/
  | vsra (g : Guard) (fmt : Fin 8) (vd va vb : Fin 32) (byImm : Bool) (n : Fin 64)
  /-- R128. -/
  | vimin (g : Guard) (fmt : Fin 8) (vd va vb : Fin 32)
  /-- R128. -/
  | vimax (g : Guard) (fmt : Fin 8) (vd va vb : Fin 32)
  /-- R128. -/
  | vicmp (g : Guard) (fmt pd : Fin 8) (va vb : Fin 32) (cond : Fin 8) (part : Bool)
  /-- R129. -/
  | vmov (g : Guard) (vd va : Fin 32)
  /-- R129. -/
  | vbcst (g : Guard) (vd va : Fin 32) (n : Fin 16)
  /-- R129. -/
  | vlane (g : Guard) (vd va : Fin 32) (n : Fin 16)
  /-- R129. -/
  | vget (g : Guard) (vd va vb : Fin 32)
  /-- R129. -/
  | viota (g : Guard) (vd : Fin 32) (base : Fin 128)
  /-- R129. -/
  | vshuf (g : Guard) (vd va vb vc : Fin 32)
  /-- R130. -/
  | vxcl (g : Guard) (vd va : Fin 32) (k : Fin 8)
  /-- R131. -/
  | vreda (g : Guard) (fmt : Fin 8) (vd va : Fin 32) (rm : Fin 4) (sat : Bool)
  /-- R131. -/
  | vredx (g : Guard) (fmt : Fin 8) (vd va : Fin 32)
  /-- R132. -/
  | vpack (g : Guard) (fmt : Fin 8) (vd va vb : Fin 32) (part : Fin 4)
  /-- R132. -/
  | vunpk (g : Guard) (fmt : Fin 8) (vd va : Fin 32) (part : Fin 4) (zx : Bool)
  /-- R126. -/
  | vpcnt (g : Guard) (vd va : Fin 32)
  /-- R133. -/
  | vplog (g : Guard) (pd pa pb : Fin 8) (table : BitVec 4)
  /-- R160. No operation. -/
  | mnop
  /-- R161. Start a pattern-book routine. -/
  | mcall (idx : Fin 256)
  /-- R163. -/
  | mpset (n : Fin 8) (xa : Fin 32)
  /-- R164. -/
  | mfeed (n : Fin 4)
  /-- R163. -/
  | moset (n : Fin 4) (xa : Fin 32) (inc : BitVec 12)
  /-- R165. -/
  | mdrain (vd : Fin 32) (tile : Fin 256) (pair : Fin 32) (clr : Bool)
  /-- R166. Clears cnt + 1 tiles. -/
  | mzero (first cnt : Fin 256)
  /-- R167. -/
  | mbook (idx : Fin 256) (xa : Fin 32)
  /-- R168. No operation. -/
  | knop
  /-- R168. -/
  | kld (ks mp j : Fin 8)
  /-- R168. -/
  | kset (ks mp j : Fin 8)
  /-- R168. -/
  | kmov (ks ka : Fin 8)
  /-- R89. No operation. -/
  | dnop
  /-- R144. -/
  | vldS (vd xa : Fin 32) (imm : BitVec 13)
  /-- R144. -/
  | vstS (vs xa : Fin 32) (imm : BitVec 13)
  /-- R144. -/
  | vldG (vd xa ln : Fin 32) (arr : BitVec 8)
  /-- R144. -/
  | vstG (vs xa : Fin 32) (imm : BitVec 13)
  /-- R144. -/
  | vldb (vd xa : Fin 32) (imm : BitVec 13)
  /-- R144. -/
  | vgth (vd xa ln : Fin 32) (arr : BitVec 8)
  /-- R144. -/
  | vsct (vs xa vi : Fin 32)
  /-- R150. -/
  | hpop (vd : Fin 32) (h : Fin 16) (k : Fin 512)
  /-- R150. -/
  | hpush (vs : Fin 32) (h : Fin 16) (k : Fin 512)
  /-- R151. Advances by n + 1. -/
  | hadvr (h : Fin 16) (n : Fin 512)
  /-- R151. Advances by n + 1. -/
  | hadvw (h : Fin 16) (n : Fin 512)
  /-- R149. -/
  | hset (xa : Fin 32) (h lg : Fin 16)
  /-- R152. Prefetches n + 1 sectors. -/
  | pref (n xa : Fin 32) (imm : BitVec 13)
  /-- R89. No operation. -/
  | enop
  /-- R90, R140. -/
  | modp (ord scope : Fin 8) (pol : Fin 4) (ac : Fin 8)
  /-- R182. -/
  | cseq (xa : Fin 32)
  /-- R182. -/
  | job (xa : Fin 32) (q : Fin 16)
  /-- R261. -/
  | taddv (vs xa : Fin 32) (fmt : Fin 8) (imm : BitVec 13)
  /-- R261. -/
  | tmaxv (vs xa : Fin 32) (fmt : Fin 8) (imm : BitVec 13)
  /-- R261. -/
  | tmulv (vs xa : Fin 32) (fmt : Fin 8) (imm : BitVec 13)
  /-- R261, R262. -/
  | texpsv (vs xa : Fin 32) (fmt : Fin 8) (imm : BitVec 13)
  /-- R263. Over n + 1 vectors. -/
  | tscal (xb xa : Fin 32) (fmt : Fin 8) (n : Fin 128)
  /-- R263. Over n + 1 vectors. -/
  | tfill (xb xa : Fin 32) (fmt : Fin 8) (n : Fin 128)
  /-- R263. Over n + 1 vectors. -/
  | tsumr (xb xa : Fin 32) (fmt : Fin 8) (n : Fin 128)
  /-- R263. Over n + 1 vectors. -/
  | tmaxr (xb xa : Fin 32) (fmt : Fin 8) (n : Fin 128)
  /-- R263. Over n + 1 vectors. -/
  | texpn (xb xa : Fin 32) (fmt : Fin 8) (n : Fin 128)
  /-- R266. -/
  | tfaa (xd xa ln : Fin 32) (arr : BitVec 8)
  /-- R266. -/
  | tfaab (xd xa ln : Fin 32) (arr : BitVec 8)
  /-- R266. -/
  | tincw (xd xa ln : Fin 32) (arr : BitVec 8)
  /-- R266. -/
  | tdecw (xd xa ln : Fin 32) (arr : BitVec 8)
  /-- R266. -/
  | tcas (xd xa ln : Fin 32) (arr : BitVec 8)
  /-- R266. -/
  | txchg (xd xa ln : Fin 32) (arr : BitVec 8)
  /-- R267. -/
  | tfence (remote : Bool) (bsel : Fin 4) (imm : BitVec 16)
  /-- R293, R295. -/
  | sku (vs xa : Fin 32) (op : Fin 4) (sen : Bool) (sem : Fin 16)
  /-- R293, R296. -/
  | skr (xb xa xc : Fin 32) (sen : Bool) (sem : Fin 16)
  /-- R309. Step STEPREF + off. -/
  | wldRel (xa xb : Fin 32) (lfmt : Fin 8) (mode : Fin 4) (off : BitVec 8)
  /-- R309. Step in xq. -/
  | wldAbs (xa xb : Fin 32) (lfmt : Fin 8) (mode : Fin 4) (xq : Fin 32)
  /-- R313. -/
  | stepc (xa xb xc : Fin 32) (sen : Bool) (sem : Fin 16)
  /-- R313. -/
  | lwm (xa xb : Fin 32) (id : Fin 64) (drop : Bool)
  /-- R313. -/
  | stepq (xa xb : Fin 32) (sen : Bool) (sem : Fin 16)
  /-- R293, R297. -/
  | coatw (xa xb xc : Fin 32) (sen : Bool) (sem : Fin 16)
  /-- R330. -/
  | ttload (xa xb xc : Fin 32) (sen : Bool) (sem : Fin 16)
  /-- R330. -/
  | ttgo (xa xb xc : Fin 32) (sen : Bool) (sem : Fin 16)
  /-- R330. -/
  | ttstop (xb xc : Fin 32) (sen : Bool) (sem : Fin 16)
  /-- R330. -/
  | chpwr (xb xc : Fin 32) (sen : Bool) (sem : Fin 16)
  /-- R343. -/
  | send (xa xb xc : Fin 32) (sen : Bool) (sem : Fin 16)
  /-- R257. -/
  | bankmode (bank : Fin 32) (mode : Fin 4) (sen : Bool) (sem : Fin 16)
  /-- R27. One issue cycle of a core. -/
  | bundleIssue (core : Nat)
  /-- R29. A blocking condition clears. -/
  | blockClear (core ctx : Nat)
  /-- R30. The run limit switches the RUNNING context out. -/
  | runLimit (core : Nat)
  /-- R32, R33. Fixed-latency results land. -/
  | resultLanding (core ctx : Nat)
  /-- R34 to R36, R43. Loads land, or the core freezes. -/
  | landing (core ctx : Nat)
  /-- R35. A frozen core resumes. -/
  | lateDataReturn (core : Nat)
  /-- R196. The oldest issued bundle retires or traps. -/
  | bundleRetire (core ctx : Nat)
  /-- R82. One word of a stencil line. -/
  | stencilWord (idx : Fin 512) (patch : BitVec 7)
  /-- R201, R202. -/
  | contextSaved (core ctx : Nat)
  /-- R204, R220. -/
  | killDrainComplete (core ctx : Nat)
  /-- R207, R220. -/
  | endDrainComplete (core ctx : Nat)
  /-- R205. -/
  | messageDelivery (core bank : Nat)
  /-- R235, R216. -/
  | dispatchRound (die : Nat)
  /-- R239. -/
  | groupStart (handle : Nat)
  /-- R218, R219. -/
  | bankHandover (core bank : Nat)
  /-- R230 to R232. -/
  | launchDecision (die : Nat)
  /-- R233. -/
  | launchComplete (handle : Nat)
  /-- R169. -/
  | matrixSlotTurn
  /-- R170, R171. -/
  | matrixChunk (core : Nat)
  /-- R173. -/
  | matrixItemComplete (core : Nat)
  /-- R180, R184. -/
  | cardStart (core : Nat)
  /-- R186, R188. Copy q of accepted card number card finishes. -/
  | copyComplete (core card q : Nat)
  /-- R187. -/
  | cardComplete (core card : Nat)
  /-- R259. -/
  | trowelCommandStart (core bank : Nat)
  /-- R259, R261 to R266. -/
  | trowelCommandPerform (core bank : Nat)
  /-- R242, R244. -/
  | barrierArrival (core bank : Nat)
  /-- R258. -/
  | bankAccess (core bank : Nat)
  /-- R257. -/
  | bankmodeSwitchComplete (core bank : Nat)
  /-- R287. -/
  | skimAdmission (region slice : Nat)
  /-- R289, R291, R304, R308, R314. -/
  | coatStart (region slice : Nat)
  /-- R289, R290. -/
  | skimRowVisit (region slice : Nat)
  /-- R305. -/
  | groupVisit (region slice : Nat)
  /-- R289, R302, R307. -/
  | coatComplete (region slice : Nat)
  /-- R304. -/
  | commitFail (region : Nat)
  /-- R311. -/
  | waitTimeout (region slice : Nat)
  /-- R286. -/
  | regionRemoved (region : Nat)
  /-- R318. -/
  | timetableEntry (chan : Nat)
  /-- R317. -/
  | dramAccess (chan pc : Nat)
  /-- R283. bank: 16 x PC + bank. -/
  | spareCopyComplete (chan bank row : Nat)
  /-- R324, R325. -/
  | nbVisit (chan : Nat)
  /-- R319, R331. -/
  | timetableStage (chan : Nat)
  /-- R332. -/
  | tableReplacement (chan : Nat)
  /-- R333. -/
  | defaultTableSwitch (chan : Nat)
  /-- R334. -/
  | channelPowerDown (chan : Nat)
  /-- R334. -/
  | channelWake (chan : Nat)
  /-- R338. -/
  | alignmentFlit (link : Nat)
  /-- R344. -/
  | sendDelivery (msg : Nat)
  /-- R344. -/
  | sendTimeout (msg : Nat)
  /-- R368. -/
  | hashBoundary
  /-- R370. -/
  | traceSample (core : Nat)
  /-- R368. -/
  | hashTreeFormed
  /-- R375. -/
  | checkpointWriteComplete (id : Nat)
  /-- R201. Firmware asks to pre-empt; area is the save area. -/
  | preemptRequest (core ctx area : Nat)
  /-- R203, R199. Firmware restores the image of src onto dst, at pc if it gives one. -/
  | contextRestore (core src dst : Nat) (pc : Option (BitVec 64))
  /-- R204. -/
  | killRequest (core ctx : Nat)
  /-- R271, R279. wide: 64-bit. -/
  | hostAtomic (tag va : Nat) (op : HostAtomOp) (wide : Bool) (a b : Nat)
  /-- R279. -/
  | hostRead (tag va len : Nat)
  /-- R279, R360. -/
  | hostWrite (tag va : Nat) (bytes : List (BitVec 8))
  /-- R335. -/
  | linkEnable (link : Nat)
  /-- R335. -/
  | lanesTrained (link : Nat)
  /-- R335. Training has failed three times. -/
  | trainingFail (link : Nat)
  /-- R336. peer: lowest and highest version of each interface. -/
  | negotiationDone (link : Nat) (peer : List (Nat × Nat))
  /-- R335. lanes: surviving lanes. -/
  | linkDegrade (link lanes : Nat)
  /-- R335. -/
  | linkRestore (link : Nat)
  /-- R335, R341. -/
  | linkDisable (link : Nat)
  /-- R337. -/
  | flitReceive (link : Nat) (flit : Flit)
  /-- R336. -/
  | ueConnectionSetup (port conn : Nat) (peer : List (Nat × Nat))
  /-- R342. -/
  | uePacket (port conn : Nat) (mode : UeMode)
  /-- R214, R234. -/
  | kload (hdr : HostHdr) (image : List (BitVec 8))
  /-- R213, R234. -/
  | kretire (hdr : HostHdr) (handle : Nat)
  /-- R227, R234. -/
  | hostLaunch (hdr : HostHdr) (desc : List (BitVec 8))
  /-- R232, R234. -/
  | hostCancel (hdr : HostHdr) (handle : Nat)
  /-- R234. -/
  | kill (hdr : HostHdr) (handle : Nat)
  /-- R225. -/
  | qpause (hdr : HostHdr)
  /-- R225. -/
  | qresume (hdr : HostHdr)
  /-- R225. -/
  | qdrain (hdr : HostHdr)
  /-- R233. -/
  | qreset (hdr : HostHdr)
  /-- R234. -/
  | qstat (hdr : HostHdr)
  /-- R281. flags: ATTR [6:0], WR [7], small pages [8]. -/
  | pmap (hdr : HostHdr) (va len flags : Nat)
  /-- R280. -/
  | ppin (hdr : HostHdr) (va len : Nat)
  /-- R280. -/
  | punpin (hdr : HostHdr) (va len : Nat)
  /-- R280, R282. -/
  | punmap (hdr : HostHdr) (va len : Nat)
  /-- R281. -/
  | pstat (hdr : HostHdr) (va : Nat)
  /-- R285, R301. ctl: the first 8 bytes; masks: one 256-bit slice mask a die; params: the four 8-byte words of the step parameters. -/
  | rcreate (hdr : HostHdr) (ctl va len : Nat) (masks params : List Nat)
  /-- R285, R286. -/
  | rdestroy (hdr : HostHdr) (region : Nat)
  /-- R285. -/
  | rstat (hdr : HostHdr) (region : Nat)
  /-- R362, R369. -/
  | cpmode (hdr : HostHdr) (pair : Nat) (split : Bool)
  /-- R367, R369. -/
  | qdet (hdr : HostHdr) (flag : Bool)
  /-- R368, R369. cfg: I - 1 in [23:0], enable in [24]. -/
  | hashcfg (hdr : HostHdr) (cfg : Nat)
  /-- R368, R369. -/
  | hashrd (hdr : HostHdr) (n level index : Nat)
  /-- R369. -/
  | trcfg (hdr : HostHdr) (base size period mask : Nat)
  /-- R369, R371. -/
  | dbg (hdr : HostHdr) (core : Nat) (arm : Bool) (bps : List (Option Nat))
  /-- R369. -/
  | hstat (hdr : HostHdr)
  /-- R373, R374. -/
  | cksave (hdr : HostHdr) (id base : Nat)
  /-- R373, R375. -/
  | ckrestore (hdr : HostHdr) (id : Nat)
  /-- R373. -/
  | ckdrop (hdr : HostHdr) (id : Nat)
  /-- R376. -/
  | fwload (hdr : HostHdr) (image : List (BitVec 8))
  /-- R377. -/
  | attest (hdr : HostHdr) (nonce : List (BitVec 8))
  /-- R381. -/
  | plim (hdr : HostHdr) (watts : Nat)
  /-- R8, R376, R378. -/
  | moduleReset
  /-- R378. warm: every sensor reads -10 degrees C or above. -/
  | dwellEnd (warm : Bool)
  /-- R378. -/
  | trainComplete
  /-- R378. -/
  | rampComplete
  /-- R379. -/
  | marginLow (die dom : Nat)
  /-- R381. -/
  | dieOvertemp (die : Nat)
  /-- R375. -/
  | powerLoss
  /-- R372. -/
  | droopFire (die dom : Nat)
  /-- R366. The 64-bit word at addr has no error, a correctable one (false) or an uncorrectable one (true). -/
  | scrub (addr : Nat) (bad : Option Bool)
  /-- R362. -/
  | firmwareReload (die pair : Nat)
  /-- R378. -/
  | channelTrainingFails
  /-- R379. -/
  | marginRestored (die dom : Nat)
  /-- R372. unit: core 0 to 103, die 104, DRAM stack 105. -/
  | ageingIndicatorLow (die unit months : Nat)
  /-- R338. -/
  | timingSourceDesignation (group module : Nat)
  deriving DecidableEq, Repr

end Sys2Proof
end

