-- ==== Sys2Proof/WellFormed.lean ====
section
/-! DEFINITION. Well-formedness: the values an encoding may hold beyond its fields' widths (spec/05 R86 to R90, R95 and the
instruction chapters), and for the steps no core fetches, that the part they name exists (spec/01 R13 to R16). -/
namespace Sys2Proof

/-- R47, R123. Elements a 32-bit lane holds in format number n. -/
def elemCount (n : Nat) : Nat :=
  if n = 0 ∨ n = 3 ∨ n = 4 then 1 else if n = 6 ∨ n = 7 then 4 else 2

/-- R123. How many part numbers VCVT accepts between two formats. -/
def cvtParts (src dst : Nat) : Nat :=
  if elemCount src = elemCount dst then 1
  else if elemCount src < elemCount dst then elemCount dst / elemCount src
  else elemCount src / elemCount dst

/-- R208. Numbers of the control registers that a row of their own writes. -/
def csrHasRow (n : Nat) : Bool :=
  n = 0x010 ∨ n = 0x011 ∨ n = 0x012 ∨ n = 0x013 ∨ n = 0x003 ∨ n = 0x070 ∨ n = 0x080 ∨ (0x030 ≤ n ∧ n ≤ 0x037) ∨
    (0x020 ≤ n ∧ n ≤ 0x025) ∨ (0x028 ≤ n ∧ n ≤ 0x02D) ∨ (0x040 ≤ n ∧ n ≤ 0x04F)

/-- R13, R15. Cores are named 128 x die + core; a die has cores 0 to 103. -/
def coreOk (k : Nat) : Bool := k < 512 ∧ k % 128 < 104

/-- R255. Worker cores have banks 0 to 31, control cores 0 to 7. -/
def bankOk (k b : Nat) : Bool := coreOk k ∧ (if k % 128 < 96 then b < 32 else b < 8)

/-- R335. Links 0 to 5 are die links, 6 to 21 device links. -/
def linkOk (l : Nat) : Bool := l < 22

/-- A step that an encoding or the module can hold. -/
def Instr.wf : Instr → Bool
  | .loop _ lvl _ => !decide (6 ≤ lvl.val)
  | .lbrk _ lvl _ => !decide (6 ≤ lvl.val)
  | .fence _ scope => !decide (5 ≤ scope.val)
  | .acq _ _ scope => !decide (5 ≤ scope.val)
  | .rel _ _ scope => !decide (5 ≤ scope.val)
  | .cmp _ _ _ _ cond => !decide (6 ≤ cond.val)
  | .cmpi _ _ _ cond _ => !decide (6 ≤ cond.val)
  | .vadd _ fmt _ _ _ _ _ => !decide (2 < fmt.val)
  | .vsub _ fmt _ _ _ _ _ => !decide (2 < fmt.val)
  | .vmul _ fmt _ _ _ _ _ => !decide (2 < fmt.val)
  | .vfma _ fmt _ _ _ _ _ _ => !decide (2 < fmt.val)
  | .vfms _ fmt _ _ _ _ _ _ => !decide (2 < fmt.val)
  | .vfnma _ fmt _ _ _ _ _ _ => !decide (2 < fmt.val)
  | .vmin _ fmt _ _ _ => !decide (2 < fmt.val)
  | .vmax _ fmt _ _ _ => !decide (2 < fmt.val)
  | .vabs _ fmt _ _ => !decide (2 < fmt.val)
  | .vneg _ fmt _ _ => !decide (2 < fmt.val)
  | .vcmp _ fmt _ _ _ _ part => !decide (2 < fmt.val) && !decide (fmt.val = 0 ∧ part = true)
  | .vdiv _ fmt _ _ _ _ _ => !decide (2 < fmt.val)
  | .vsqrt _ fmt _ _ _ _ => !decide (2 < fmt.val)
  | .vrcp _ fmt _ _ _ _ => !decide (2 < fmt.val)
  | .vrsq _ fmt _ _ _ _ => !decide (2 < fmt.val)
  | .vexp2 _ fmt _ _ _ _ => !decide (2 < fmt.val)
  | .vlog2 _ fmt _ _ _ _ => !decide (2 < fmt.val)
  | .vcvt _ fmt _ _ vc _ _ src part => !decide (¬ elemCount src.val < elemCount fmt.val ∧ vc.val ≠ 0) && !decide (¬ part.val < cvtParts src.val fmt.val)
  | .vscl _ fmt _ _ vb _ _ byReg ks => !decide (byReg = false ∧ vb.val ≠ 0) && !decide (byReg = true ∧ ks.val ≠ 0) && !decide (2 < fmt.val)
  | .vrint _ fmt _ _ _ => !decide (2 < fmt.val)
  | .viadd _ fmt _ _ _ _ => !decide (fmt.val < 3 ∨ 5 < fmt.val)
  | .visub _ fmt _ _ _ _ => !decide (fmt.val < 3 ∨ 5 < fmt.val)
  | .vimul _ fmt _ _ _ _ => !decide (fmt.val < 3 ∨ 5 < fmt.val)
  | .vshl _ fmt _ _ vb byImm n => !decide (byImm = true ∧ vb.val ≠ 0) && !decide (byImm = false ∧ n.val ≠ 0) && !decide (fmt.val ≠ 3 ∧ fmt.val ≠ 5)
  | .vshr _ fmt _ _ vb byImm n => !decide (byImm = true ∧ vb.val ≠ 0) && !decide (byImm = false ∧ n.val ≠ 0) && !decide (fmt.val ≠ 3 ∧ fmt.val ≠ 5)
  | .vsra _ fmt _ _ vb byImm n => !decide (byImm = true ∧ vb.val ≠ 0) && !decide (byImm = false ∧ n.val ≠ 0) && !decide (fmt.val ≠ 3 ∧ fmt.val ≠ 5)
  | .vimin _ fmt _ _ _ => !decide (fmt.val < 3 ∨ 5 < fmt.val)
  | .vimax _ fmt _ _ _ => !decide (fmt.val < 3 ∨ 5 < fmt.val)
  | .vicmp _ fmt _ _ _ cond part => !decide (fmt.val < 3 ∨ 5 < fmt.val) && !decide (6 ≤ cond.val) && !decide (fmt.val ≠ 5 ∧ part = true)
  | .vreda _ fmt _ _ rm _ => !decide (fmt.val ≠ 0 ∧ fmt.val ≠ 3 ∧ fmt.val ≠ 4) && !decide (fmt.val ≠ 0 ∧ rm.val ≠ 0)
  | .vredx _ fmt _ _ => !decide (fmt.val ≠ 0 ∧ fmt.val ≠ 3 ∧ fmt.val ≠ 4)
  | .vpack _ fmt _ _ _ part => !decide (fmt.val ≠ 5 ∧ fmt.val ≠ 6) && !decide (fmt.val = 5 ∧ 2 ≤ part.val)
  | .vunpk _ fmt _ _ part _ => !decide (fmt.val ≠ 5 ∧ fmt.val ≠ 6) && !decide (fmt.val = 5 ∧ 2 ≤ part.val)
  | .mzero first cnt => !decide (256 < first.val + cnt.val + 1)
  | .vldG _ _ _ arr => !decide (arr.toNat = 0)
  | .vgth _ _ _ arr => !decide (arr.toNat = 0)
  | .hset _ _ lg => !decide (13 ≤ lg.val)
  | .modp ord scope _ _ => !decide (4 ≤ ord.val) && !decide (5 ≤ scope.val)
  | .taddv _ _ fmt _ => !decide (fmt.val ≠ 0 ∧ fmt.val ≠ 3 ∧ fmt.val ≠ 4)
  | .tmaxv _ _ fmt _ => !decide (fmt.val ≠ 0 ∧ fmt.val ≠ 3 ∧ fmt.val ≠ 4)
  | .tmulv _ _ fmt _ => !decide (fmt.val ≠ 0)
  | .texpsv _ _ fmt _ => !decide (fmt.val ≠ 0)
  | .tscal _ _ fmt _ => !decide (fmt.val ≠ 0)
  | .tfill _ _ fmt _ => !decide (fmt.val ≠ 0)
  | .tsumr _ _ fmt _ => !decide (fmt.val ≠ 0 ∧ fmt.val ≠ 3 ∧ fmt.val ≠ 4)
  | .tmaxr _ _ fmt _ => !decide (fmt.val ≠ 0 ∧ fmt.val ≠ 3 ∧ fmt.val ≠ 4)
  | .texpn _ _ fmt _ => !decide (fmt.val ≠ 0)
  | .tfaa _ _ _ arr => !decide (arr.toNat = 0)
  | .tfaab _ _ _ arr => !decide (arr.toNat = 0)
  | .tincw _ _ _ arr => !decide (arr.toNat = 0)
  | .tdecw _ _ _ arr => !decide (arr.toNat = 0)
  | .tcas _ _ _ arr => !decide (arr.toNat = 0)
  | .txchg _ _ _ arr => !decide (arr.toNat = 0)
  | .tfence _ bsel _ => !decide (bsel.val = 3)
  | .sku _ _ op sen sem => !decide (op.val = 3) && !decide (sen = false ∧ sem.val ≠ 0)
  | .skr _ _ _ sen sem => !decide (sen = false ∧ sem.val ≠ 0)
  | .wldRel _ _ lfmt mode _ => !decide (6 ≤ lfmt.val) && !decide (mode.val = 3)
  | .wldAbs _ _ lfmt mode _ => !decide (6 ≤ lfmt.val) && !decide (mode.val = 3)
  | .stepc _ _ _ sen sem => !decide (sen = false ∧ sem.val ≠ 0)
  | .stepq _ _ sen sem => !decide (sen = false ∧ sem.val ≠ 0)
  | .coatw _ _ _ sen sem => !decide (sen = false ∧ sem.val ≠ 0)
  | .ttload _ _ _ sen sem => !decide (sen = false ∧ sem.val ≠ 0)
  | .ttgo _ _ _ sen sem => !decide (sen = false ∧ sem.val ≠ 0)
  | .ttstop _ _ sen sem => !decide (sen = false ∧ sem.val ≠ 0)
  | .chpwr _ _ sen sem => !decide (sen = false ∧ sem.val ≠ 0)
  | .send _ _ _ sen sem => !decide (sen = false ∧ sem.val ≠ 0)
  | .bankmode _ mode sen sem => !decide (mode.val = 3) && !decide (sen = false ∧ sem.val ≠ 0)
  | .csrw _ csr _ => !csrHasRow csr.toNat
  | .csrwLoopCount _ _ lvl _ => decide (lvl.val < 6)
  | .bundleIssue core => coreOk core
  | .blockClear core ctx => coreOk core && decide (ctx < 4)
  | .runLimit core => coreOk core
  | .resultLanding core ctx => coreOk core && decide (ctx < 4)
  | .landing core ctx => coreOk core && decide (ctx < 4)
  | .lateDataReturn core => coreOk core
  | .bundleRetire core ctx => coreOk core && decide (ctx < 4)
  | .contextSaved core ctx => coreOk core && decide (ctx < 4)
  | .killDrainComplete core ctx => coreOk core && decide (ctx < 4)
  | .endDrainComplete core ctx => coreOk core && decide (ctx < 4)
  | .messageDelivery core bank => bankOk core bank
  | .dispatchRound die => decide (die < 4)
  | .bankHandover core bank => bankOk core bank
  | .launchDecision die => decide (die < 4)
  | .matrixChunk core => coreOk core
  | .matrixItemComplete core => coreOk core
  | .cardStart core => coreOk core
  | .copyComplete core _ _ => coreOk core
  | .cardComplete core _ => coreOk core
  | .trowelCommandStart core bank => bankOk core bank
  | .trowelCommandPerform core bank => bankOk core bank
  | .barrierArrival core bank => bankOk core bank
  | .bankAccess core bank => bankOk core bank
  | .bankmodeSwitchComplete core bank => bankOk core bank
  | .skimAdmission region slice => decide (region < 64) && decide (slice < 1024)
  | .coatStart region slice => decide (region < 64) && decide (slice < 1024)
  | .skimRowVisit region slice => decide (region < 64) && decide (slice < 1024)
  | .groupVisit region slice => decide (region < 64) && decide (slice < 1024)
  | .coatComplete region slice => decide (region < 64) && decide (slice < 1024)
  | .commitFail region => decide (region < 64)
  | .waitTimeout region slice => decide (region < 64) && decide (slice < 1024)
  | .regionRemoved region => decide (region < 64)
  | .timetableEntry chan => decide (chan < 512)
  | .dramAccess chan pc => decide (chan < 512) && decide (pc < 2)
  | .spareCopyComplete chan bank _ => decide (chan < 512) && decide (bank < 32)
  | .nbVisit chan => decide (chan < 512)
  | .timetableStage chan => decide (chan < 512)
  | .tableReplacement chan => decide (chan < 512)
  | .defaultTableSwitch chan => decide (chan < 512)
  | .channelPowerDown chan => decide (chan < 512)
  | .channelWake chan => decide (chan < 512)
  | .alignmentFlit link => linkOk link
  | .traceSample core => coreOk core
  | .preemptRequest core ctx _ => coreOk core && decide (ctx < 4)
  | .contextRestore core src dst _ => coreOk core && decide (src < 4) && decide (dst < 4)
  | .killRequest core ctx => coreOk core && decide (ctx < 4)
  | .linkEnable link => linkOk link
  | .lanesTrained link => linkOk link
  | .trainingFail link => linkOk link
  | .negotiationDone link _ => linkOk link
  | .linkDegrade link _ => linkOk link
  | .linkRestore link => linkOk link
  | .linkDisable link => linkOk link
  | .flitReceive link _ => linkOk link
  | .ueConnectionSetup port _ _ => decide (port < 8)
  | .uePacket port _ _ => decide (port < 8)
  | .rdestroy _ region => decide (region < 64)
  | .rstat _ region => decide (region < 64)
  | .cpmode _ pair _ => decide (pair < 4)
  | .dbg _ core _ _ => coreOk core
  | .marginLow die dom => decide (die < 4) && decide (dom < 12)
  | .dieOvertemp die => decide (die < 4)
  | .droopFire die dom => decide (die < 4) && decide (dom < 12)
  | .firmwareReload die pair => decide (die < 4) && decide (pair < 4)
  | .marginRestored die dom => decide (die < 4) && decide (dom < 12)
  | .ageingIndicatorLow die _ _ => decide (die < 4)
  | .nop => true
  | .br _ _ => true
  | .brx _ _ => true
  | .call _ _ => true
  | .ret _ => true
  | .waits _ _ _ => true
  | .sigs _ _ _ => true
  | .waitc _ _ _ => true
  | .arrive _ _ => true
  | .bwait _ _ => true
  | .bankacq _ _ => true
  | .bankrel _ _ => true
  | .launch _ _ _ => true
  | .cancel _ _ _ => true
  | .sleep _ => true
  | .armh _ _ _ => true
  | .yield _ => true
  | .trap _ _ => true
  | .rett _ => true
  | .csrr _ _ _ => true
  | .stenld _ _ _ => true
  | .frame _ _ _ => true
  | .brk _ _ => true
  | .endTask _ => true
  | .sevt _ _ => true
  | .add _ _ _ _ => true
  | .sub _ _ _ _ => true
  | .and _ _ _ _ => true
  | .or _ _ _ _ => true
  | .xor _ _ _ _ => true
  | .shl _ _ _ _ => true
  | .shr _ _ _ _ => true
  | .sra _ _ _ _ => true
  | .mul _ _ _ _ => true
  | .mulh _ _ _ _ => true
  | .mulhn _ _ _ _ => true
  | .min _ _ _ _ => true
  | .max _ _ _ _ => true
  | .minn _ _ _ _ => true
  | .maxn _ _ _ _ => true
  | .sel _ _ _ _ _ _ => true
  | .clz _ _ _ => true
  | .popc _ _ _ => true
  | .div _ _ _ _ => true
  | .rem _ _ _ _ => true
  | .addi _ _ _ _ => true
  | .andi _ _ _ _ => true
  | .ori _ _ _ _ => true
  | .xori _ _ _ _ => true
  | .shli _ _ _ _ => true
  | .shri _ _ _ _ => true
  | .srai _ _ _ _ => true
  | .lui _ _ _ => true
  | .plog _ _ _ _ _ => true
  | .ldsD _ _ _ => true
  | .ldsW _ _ _ => true
  | .ldsWn _ _ _ => true
  | .ldsH _ _ _ => true
  | .ldsHn _ _ _ => true
  | .ldsB _ _ _ => true
  | .ldsBn _ _ _ => true
  | .stsD _ _ _ => true
  | .stsW _ _ _ => true
  | .stsH _ _ _ => true
  | .stsB _ _ _ => true
  | .vnop => true
  | .vsel _ _ _ _ _ _ => true
  | .vand _ _ _ _ => true
  | .vor _ _ _ _ => true
  | .vxor _ _ _ _ => true
  | .vmov _ _ _ => true
  | .vbcst _ _ _ _ => true
  | .vlane _ _ _ _ => true
  | .vget _ _ _ _ => true
  | .viota _ _ _ => true
  | .vshuf _ _ _ _ _ => true
  | .vxcl _ _ _ _ => true
  | .vpcnt _ _ _ => true
  | .vplog _ _ _ _ _ => true
  | .mnop => true
  | .mcall _ => true
  | .mpset _ _ => true
  | .mfeed _ => true
  | .moset _ _ _ => true
  | .mdrain _ _ _ _ => true
  | .mbook _ _ => true
  | .knop => true
  | .kld _ _ _ => true
  | .kset _ _ _ => true
  | .kmov _ _ => true
  | .dnop => true
  | .vldS _ _ _ => true
  | .vstS _ _ _ => true
  | .vstG _ _ _ => true
  | .vldb _ _ _ => true
  | .vsct _ _ _ => true
  | .hpop _ _ _ => true
  | .hpush _ _ _ => true
  | .hadvr _ _ => true
  | .hadvw _ _ => true
  | .pref _ _ _ => true
  | .enop => true
  | .cseq _ => true
  | .job _ _ => true
  | .lwm _ _ _ _ => true
  | .csrwMemdef _ _ => true
  | .csrwClm _ _ => true
  | .csrwFramelen _ _ => true
  | .csrwDetmode _ _ => true
  | .csrwStepref _ _ => true
  | .csrwTrappc _ _ => true
  | .csrwHarm _ _ _ => true
  | .csrwMslot _ _ _ => true
  | .csrwXlroot _ _ => true
  | .stencilWord _ _ => true
  | .groupStart _ => true
  | .launchComplete _ => true
  | .matrixSlotTurn => true
  | .sendDelivery _ => true
  | .sendTimeout _ => true
  | .hashBoundary => true
  | .hashTreeFormed => true
  | .checkpointWriteComplete _ => true
  | .hostAtomic _ _ _ _ _ _ => true
  | .hostRead _ _ _ => true
  | .hostWrite _ _ _ => true
  | .kload _ _ => true
  | .kretire _ _ => true
  | .hostLaunch _ _ => true
  | .hostCancel _ _ => true
  | .kill _ _ => true
  | .qpause _ => true
  | .qresume _ => true
  | .qdrain _ => true
  | .qreset _ => true
  | .qstat _ => true
  | .pmap _ _ _ _ => true
  | .ppin _ _ _ => true
  | .punpin _ _ _ => true
  | .punmap _ _ _ => true
  | .pstat _ _ => true
  | .rcreate _ _ _ _ _ _ => true
  | .qdet _ _ => true
  | .hashcfg _ _ => true
  | .hashrd _ _ _ _ => true
  | .trcfg _ _ _ _ _ => true
  | .hstat _ => true
  | .cksave _ _ _ => true
  | .ckrestore _ _ => true
  | .ckdrop _ _ => true
  | .fwload _ _ => true
  | .attest _ _ => true
  | .plim _ _ => true
  | .moduleReset => true
  | .dwellEnd _ => true
  | .trainComplete => true
  | .rampComplete => true
  | .powerLoss => true
  | .scrub _ _ => true
  | .channelTrainingFails => true
  | .timingSourceDesignation _ _ => true

end Sys2Proof
end

