-- ==== Sys2Proof/Decode.lean ====
section
/-! DEFINITION. The decoder, written from the encoding tables of spec/05 (R80 to R95) and of the instruction chapters, total on
any bits and rejecting by the reasons of R94; then the encoder, from the same tables. Generated from one table of fields written from the spec. -/
namespace Sys2Proof


/-- R94. The reasons of ILLEGAL_BUNDLE. -/
inductive Reason
  | resOp | resField | badValue | critSlot | badLine | notFull | patchUse | slotKind | csr
  deriving DecidableEq, Repr

/-- R94. The REASON code. -/
def Reason.code : Reason → Nat
  | .resOp => 1 | .resField => 2 | .badValue => 3 | .critSlot => 4 | .badLine => 5
  | .notFull => 6 | .patchUse => 7 | .slotKind => 8 | .csr => 9

/-- R83. The eight slots of a bundle. -/
inductive Slot | c | a | b | v | m | k | d | e
  deriving DecidableEq, Repr

/-- R94, R168, R200. The slot code of TRAPSLOT. -/
def Slot.code : Slot → Nat
  | .c => 1 | .a => 2 | .b => 3 | .v => 4 | .m => 5 | .d => 6 | .e => 7 | .k => 8

/-- R83. The lowest bundle bit of a slot. -/
def Slot.low : Slot → Nat
  | .c => 196 | .a => 168 | .b => 140 | .v => 96 | .m => 72 | .k => 60 | .d => 32 | .e => 0

/-- R83. The width of a slot in bits. -/
def Slot.width : Slot → Nat
  | .c => 28 | .a => 28 | .b => 28 | .v => 44 | .m => 24 | .k => 12 | .d => 28 | .e => 32

/-- R84. The opcode field of a slot's word. -/
def Slot.opcode : Slot → Nat → Nat
  | .c, w => bits w 27 22 | .a, w => bits w 27 22 | .b, w => bits w 27 22 | .v, w => bits w 43 37
  | .m, w => bits w 23 19 | .k, w => bits w 11 9 | .d, w => bits w 27 23 | .e, w => bits w 31 26

/-- Some bit of the named ranges of w is set (R85: a reserved field must be zero). -/
def resv (w : Nat) : List (Nat × Nat) → Bool
  | [] => false
  | (hi, lo) :: t => bits w hi lo ≠ 0 || resv w t

/-- A field of 2 bits. -/
def fin4 (x : Nat) : Fin 4 := ⟨x % 4, Nat.mod_lt _ (by decide)⟩
/-- A field of 3 bits. -/
def fin8 (x : Nat) : Fin 8 := ⟨x % 8, Nat.mod_lt _ (by decide)⟩
/-- A field of 4 bits. -/
def fin16 (x : Nat) : Fin 16 := ⟨x % 16, Nat.mod_lt _ (by decide)⟩
/-- A field of 5 bits. -/
def fin32 (x : Nat) : Fin 32 := ⟨x % 32, Nat.mod_lt _ (by decide)⟩
/-- A field of 6 bits. -/
def fin64 (x : Nat) : Fin 64 := ⟨x % 64, Nat.mod_lt _ (by decide)⟩
/-- A field of 7 bits. -/
def fin128 (x : Nat) : Fin 128 := ⟨x % 128, Nat.mod_lt _ (by decide)⟩
/-- A field of 8 bits. -/
def fin256 (x : Nat) : Fin 256 := ⟨x % 256, Nat.mod_lt _ (by decide)⟩
/-- A field of 9 bits. -/
def fin512 (x : Nat) : Fin 512 := ⟨x % 512, Nat.mod_lt _ (by decide)⟩

/-- R84. The predicate and negate bits of a C-slot word. -/
def cguard (w : Nat) : Guard := ⟨fin8 (bits w 21 19), bits w 18 18 == 1⟩
/-- R84. The lane predicate and negate bits of a V-slot word. -/
def vguard (w : Nat) : Guard := ⟨fin8 (bits w 13 11), bits w 10 10 == 1⟩

/-- R206, R208. A CSRW word: the register's own row, or the general one. -/
def decodeCsrw (w : Nat) : Instr :=
  let g := cguard w
  let xa := fin32 (bits w 7 3)
  let n := bits w 17 8
  if n = 0x010 then .csrwMemdef g xa
  else if n = 0x011 then .csrwClm g xa
  else if n = 0x012 then .csrwStepref g xa
  else if n = 0x013 then .csrwFramelen g xa
  else if n = 0x003 then .csrwTrappc g xa
  else if n = 0x070 then .csrwDetmode g xa
  else if n = 0x080 then .csrwXlroot g xa
  else if 0x030 ≤ n ∧ n ≤ 0x037 then .csrwHarm g (fin8 (bits w 10 8)) xa
  else if (0x020 ≤ n ∧ n ≤ 0x025) ∨ (0x028 ≤ n ∧ n ≤ 0x02D) then .csrwLoopCount g (bits w 11 11 == 1) (fin8 (bits w 10 8)) xa
  else if 0x040 ≤ n ∧ n ≤ 0x04F then .csrwMslot g (fin16 (bits w 11 8)) xa
  else .csrw g (BitVec.ofNat 10 n) xa

/-- R86. The C slot. -/
def decodeC (w : Nat) : Except Reason Instr :=
  match bits w 27 22 with
  | 0x00 => if resv w [(21, 0)] then .error .resField else .ok (.nop)
  | 0x01 => .ok (.br (cguard w) (BitVec.ofNat 18 (bits w 17 0)))
  | 0x02 => if resv w [(17, 13), (7, 0)] then .error .resField else .ok (.brx (cguard w) (fin32 (bits w 12 8)))
  | 0x03 => .ok (.call (cguard w) (BitVec.ofNat 18 (bits w 17 0)))
  | 0x04 => if resv w [(17, 0)] then .error .resField else .ok (.ret (cguard w))
  | 0x05 => if 6 ≤ bits w 17 15 then .error .badValue else .ok (.loop (cguard w) (fin8 (bits w 17 15)) (BitVec.ofNat 15 (bits w 14 0)))
  | 0x06 => if 6 ≤ bits w 17 15 then .error .badValue else .ok (.lbrk (cguard w) (fin8 (bits w 17 15)) (BitVec.ofNat 15 (bits w 14 0)))
  | 0x07 => if resv w [(17, 8), (3, 3)] then .error .resField else .ok (.waits (cguard w) (fin16 (bits w 7 4)) (fin8 (bits w 2 0)))
  | 0x08 => if resv w [(17, 8), (3, 3)] then .error .resField else .ok (.sigs (cguard w) (fin16 (bits w 7 4)) (fin8 (bits w 2 0)))
  | 0x09 => if resv w [(7, 0)] then .error .resField else .ok (.waitc (cguard w) (fin32 (bits w 17 13)) (fin32 (bits w 12 8)))
  | 0x0A => if resv w [(17, 4)] then .error .resField else .ok (.arrive (cguard w) (fin16 (bits w 3 0)))
  | 0x0B => if resv w [(17, 4)] then .error .resField else .ok (.bwait (cguard w) (fin16 (bits w 3 0)))
  | 0x0C => if resv w [(17, 3)] then .error .resField else if 5 ≤ bits w 2 0 then .error .badValue else .ok (.fence (cguard w) (fin8 (bits w 2 0)))
  | 0x0D => if resv w [(17, 13), (7, 3)] then .error .resField else if 5 ≤ bits w 2 0 then .error .badValue else .ok (.acq (cguard w) (fin32 (bits w 12 8)) (fin8 (bits w 2 0)))
  | 0x0E => if resv w [(17, 13), (7, 3)] then .error .resField else if 5 ≤ bits w 2 0 then .error .badValue else .ok (.rel (cguard w) (fin32 (bits w 12 8)) (fin8 (bits w 2 0)))
  | 0x0F => if resv w [(17, 13), (7, 0)] then .error .resField else .ok (.bankacq (cguard w) (fin32 (bits w 12 8)))
  | 0x10 => if resv w [(17, 13), (7, 0)] then .error .resField else .ok (.bankrel (cguard w) (fin32 (bits w 12 8)))
  | 0x11 => if resv w [(7, 0)] then .error .resField else .ok (.launch (cguard w) (fin32 (bits w 17 13)) (fin32 (bits w 12 8)))
  | 0x12 => if resv w [(7, 0)] then .error .resField else .ok (.cancel (cguard w) (fin32 (bits w 17 13)) (fin32 (bits w 12 8)))
  | 0x13 => if resv w [(17, 0)] then .error .resField else .ok (.sleep (cguard w))
  | 0x14 => if resv w [(17, 13), (7, 3)] then .error .resField else .ok (.armh (cguard w) (fin32 (bits w 12 8)) (fin8 (bits w 2 0)))
  | 0x15 => if resv w [(17, 0)] then .error .resField else .ok (.yield (cguard w))
  | 0x16 => if resv w [(17, 8)] then .error .resField else .ok (.trap (cguard w) (BitVec.ofNat 8 (bits w 7 0)))
  | 0x17 => if resv w [(17, 0)] then .error .resField else .ok (.rett (cguard w))
  | 0x18 => if resv w [(2, 0)] then .error .resField else .ok (.csrr (cguard w) (BitVec.ofNat 10 (bits w 17 8)) (fin32 (bits w 7 3)))
  | 0x19 => if resv w [(2, 0)] then .error .resField else .ok (decodeCsrw w)
  | 0x1A => if resv w [(7, 0)] then .error .resField else .ok (.stenld (cguard w) (fin32 (bits w 17 13)) (fin32 (bits w 12 8)))
  | 0x1B => if resv w [(17, 13)] then .error .resField else .ok (.frame (cguard w) (fin32 (bits w 12 8)) (BitVec.ofNat 8 (bits w 7 0)))
  | 0x1C => if resv w [(17, 8)] then .error .resField else .ok (.brk (cguard w) (BitVec.ofNat 8 (bits w 7 0)))
  | 0x1D => if resv w [(17, 0)] then .error .resField else .ok (.endTask (cguard w))
  | 0x1E => if resv w [(17, 8)] then .error .resField else .ok (.sevt (cguard w) (BitVec.ofNat 8 (bits w 7 0)))
  | _ => .error .resOp

/-- R87. The A and B slots; an all-zero word is that slot's no-operation (R83). -/
def decodeAB (sl : Lane2) (w : Nat) : Except Reason Instr :=
  match bits w 27 22 with
  | 0x00 => if w ≠ 0 then .error .resField else .ok .nop
  | 0x01 => if resv w [(6, 0)] then .error .resField else .ok (.add sl (fin32 (bits w 21 17)) (fin32 (bits w 16 12)) (fin32 (bits w 11 7)))
  | 0x02 => if resv w [(6, 0)] then .error .resField else .ok (.sub sl (fin32 (bits w 21 17)) (fin32 (bits w 16 12)) (fin32 (bits w 11 7)))
  | 0x03 => if resv w [(6, 0)] then .error .resField else .ok (.and sl (fin32 (bits w 21 17)) (fin32 (bits w 16 12)) (fin32 (bits w 11 7)))
  | 0x04 => if resv w [(6, 0)] then .error .resField else .ok (.or sl (fin32 (bits w 21 17)) (fin32 (bits w 16 12)) (fin32 (bits w 11 7)))
  | 0x05 => if resv w [(6, 0)] then .error .resField else .ok (.xor sl (fin32 (bits w 21 17)) (fin32 (bits w 16 12)) (fin32 (bits w 11 7)))
  | 0x06 => if resv w [(6, 0)] then .error .resField else .ok (.shl sl (fin32 (bits w 21 17)) (fin32 (bits w 16 12)) (fin32 (bits w 11 7)))
  | 0x07 => if resv w [(6, 0)] then .error .resField else .ok (.shr sl (fin32 (bits w 21 17)) (fin32 (bits w 16 12)) (fin32 (bits w 11 7)))
  | 0x08 => if resv w [(6, 0)] then .error .resField else .ok (.sra sl (fin32 (bits w 21 17)) (fin32 (bits w 16 12)) (fin32 (bits w 11 7)))
  | 0x09 => if resv w [(6, 0)] then .error .resField else .ok (.mul sl (fin32 (bits w 21 17)) (fin32 (bits w 16 12)) (fin32 (bits w 11 7)))
  | 0x0A => if resv w [(6, 0)] then .error .resField else .ok (.mulh sl (fin32 (bits w 21 17)) (fin32 (bits w 16 12)) (fin32 (bits w 11 7)))
  | 0x0B => if resv w [(6, 0)] then .error .resField else .ok (.mulhn sl (fin32 (bits w 21 17)) (fin32 (bits w 16 12)) (fin32 (bits w 11 7)))
  | 0x0C => if resv w [(6, 0)] then .error .resField else .ok (.min sl (fin32 (bits w 21 17)) (fin32 (bits w 16 12)) (fin32 (bits w 11 7)))
  | 0x0D => if resv w [(6, 0)] then .error .resField else .ok (.max sl (fin32 (bits w 21 17)) (fin32 (bits w 16 12)) (fin32 (bits w 11 7)))
  | 0x0E => if resv w [(6, 0)] then .error .resField else .ok (.minn sl (fin32 (bits w 21 17)) (fin32 (bits w 16 12)) (fin32 (bits w 11 7)))
  | 0x0F => if resv w [(6, 0)] then .error .resField else .ok (.maxn sl (fin32 (bits w 21 17)) (fin32 (bits w 16 12)) (fin32 (bits w 11 7)))
  | 0x10 => if resv w [(21, 20), (6, 3)] then .error .resField else if 6 ≤ bits w 2 0 then .error .badValue else .ok (.cmp sl (fin8 (bits w 19 17)) (fin32 (bits w 16 12)) (fin32 (bits w 11 7)) (fin8 (bits w 2 0)))
  | 0x11 => if resv w [(6, 4)] then .error .resField else .ok (.sel sl (fin32 (bits w 21 17)) (fin32 (bits w 16 12)) (fin32 (bits w 11 7)) (fin8 (bits w 2 0)) (bits w 3 3 == 1))
  | 0x12 => if resv w [(11, 0)] then .error .resField else .ok (.clz sl (fin32 (bits w 21 17)) (fin32 (bits w 16 12)))
  | 0x13 => if resv w [(11, 0)] then .error .resField else .ok (.popc sl (fin32 (bits w 21 17)) (fin32 (bits w 16 12)))
  | 0x14 => if resv w [(6, 0)] then .error .resField else .ok (.div sl (fin32 (bits w 21 17)) (fin32 (bits w 16 12)) (fin32 (bits w 11 7)))
  | 0x15 => if resv w [(6, 0)] then .error .resField else .ok (.rem sl (fin32 (bits w 21 17)) (fin32 (bits w 16 12)) (fin32 (bits w 11 7)))
  | 0x18 => .ok (.addi sl (fin32 (bits w 21 17)) (fin32 (bits w 16 12)) (BitVec.ofNat 12 (bits w 11 0)))
  | 0x19 => .ok (.andi sl (fin32 (bits w 21 17)) (fin32 (bits w 16 12)) (BitVec.ofNat 12 (bits w 11 0)))
  | 0x1A => .ok (.ori sl (fin32 (bits w 21 17)) (fin32 (bits w 16 12)) (BitVec.ofNat 12 (bits w 11 0)))
  | 0x1B => .ok (.xori sl (fin32 (bits w 21 17)) (fin32 (bits w 16 12)) (BitVec.ofNat 12 (bits w 11 0)))
  | 0x1C => if resv w [(11, 6)] then .error .resField else .ok (.shli sl (fin32 (bits w 21 17)) (fin32 (bits w 16 12)) (fin64 (bits w 5 0)))
  | 0x1D => if resv w [(11, 6)] then .error .resField else .ok (.shri sl (fin32 (bits w 21 17)) (fin32 (bits w 16 12)) (fin64 (bits w 5 0)))
  | 0x1E => if resv w [(11, 6)] then .error .resField else .ok (.srai sl (fin32 (bits w 21 17)) (fin32 (bits w 16 12)) (fin64 (bits w 5 0)))
  | 0x1F => if resv w [(21, 20)] then .error .resField else if 6 ≤ bits w 11 9 then .error .badValue else .ok (.cmpi sl (fin8 (bits w 19 17)) (fin32 (bits w 16 12)) (fin8 (bits w 11 9)) (BitVec.ofNat 9 (bits w 8 0)))
  | 0x20 => .ok (.lui sl (fin32 (bits w 21 17)) (BitVec.ofNat 17 (bits w 16 0)))
  | 0x21 => if resv w [(21, 20), (16, 15), (11, 10), (6, 4)] then .error .resField else .ok (.plog sl (fin8 (bits w 19 17)) (fin8 (bits w 14 12)) (fin8 (bits w 9 7)) (BitVec.ofNat 4 (bits w 3 0)))
  | 0x30 => if sl = .a then .error .slotKind else .ok (.ldsD (fin32 (bits w 21 17)) (fin32 (bits w 16 12)) (BitVec.ofNat 12 (bits w 11 0)))
  | 0x31 => if sl = .a then .error .slotKind else .ok (.ldsW (fin32 (bits w 21 17)) (fin32 (bits w 16 12)) (BitVec.ofNat 12 (bits w 11 0)))
  | 0x32 => if sl = .a then .error .slotKind else .ok (.ldsWn (fin32 (bits w 21 17)) (fin32 (bits w 16 12)) (BitVec.ofNat 12 (bits w 11 0)))
  | 0x33 => if sl = .a then .error .slotKind else .ok (.ldsH (fin32 (bits w 21 17)) (fin32 (bits w 16 12)) (BitVec.ofNat 12 (bits w 11 0)))
  | 0x34 => if sl = .a then .error .slotKind else .ok (.ldsHn (fin32 (bits w 21 17)) (fin32 (bits w 16 12)) (BitVec.ofNat 12 (bits w 11 0)))
  | 0x35 => if sl = .a then .error .slotKind else .ok (.ldsB (fin32 (bits w 21 17)) (fin32 (bits w 16 12)) (BitVec.ofNat 12 (bits w 11 0)))
  | 0x36 => if sl = .a then .error .slotKind else .ok (.ldsBn (fin32 (bits w 21 17)) (fin32 (bits w 16 12)) (BitVec.ofNat 12 (bits w 11 0)))
  | 0x37 => if sl = .a then .error .slotKind else .ok (.stsD (fin32 (bits w 21 17)) (fin32 (bits w 16 12)) (BitVec.ofNat 12 (bits w 11 0)))
  | 0x38 => if sl = .a then .error .slotKind else .ok (.stsW (fin32 (bits w 21 17)) (fin32 (bits w 16 12)) (BitVec.ofNat 12 (bits w 11 0)))
  | 0x39 => if sl = .a then .error .slotKind else .ok (.stsH (fin32 (bits w 21 17)) (fin32 (bits w 16 12)) (BitVec.ofNat 12 (bits w 11 0)))
  | 0x3A => if sl = .a then .error .slotKind else .ok (.stsB (fin32 (bits w 21 17)) (fin32 (bits w 16 12)) (BitVec.ofNat 12 (bits w 11 0)))
  | _ => .error .resOp

/-- R88, R116, R117. The V slot. -/
def decodeV (w : Nat) : Except Reason Instr :=
  match bits w 43 37 with
  | 0x00 => if resv w [(36, 0)] then .error .resField else .ok (.vnop)
  | 0x01 => if resv w [(18, 14), (6, 0)] then .error .resField else if 2 < bits w 36 34 then .error .badValue else .ok (.vadd (vguard w) (fin8 (bits w 36 34)) (fin32 (bits w 33 29)) (fin32 (bits w 28 24)) (fin32 (bits w 23 19)) (fin4 (bits w 9 8)) (bits w 7 7 == 1))
  | 0x02 => if resv w [(18, 14), (6, 0)] then .error .resField else if 2 < bits w 36 34 then .error .badValue else .ok (.vsub (vguard w) (fin8 (bits w 36 34)) (fin32 (bits w 33 29)) (fin32 (bits w 28 24)) (fin32 (bits w 23 19)) (fin4 (bits w 9 8)) (bits w 7 7 == 1))
  | 0x03 => if resv w [(18, 14), (6, 0)] then .error .resField else if 2 < bits w 36 34 then .error .badValue else .ok (.vmul (vguard w) (fin8 (bits w 36 34)) (fin32 (bits w 33 29)) (fin32 (bits w 28 24)) (fin32 (bits w 23 19)) (fin4 (bits w 9 8)) (bits w 7 7 == 1))
  | 0x04 => if resv w [(6, 0)] then .error .resField else if 2 < bits w 36 34 then .error .badValue else .ok (.vfma (vguard w) (fin8 (bits w 36 34)) (fin32 (bits w 33 29)) (fin32 (bits w 28 24)) (fin32 (bits w 23 19)) (fin32 (bits w 18 14)) (fin4 (bits w 9 8)) (bits w 7 7 == 1))
  | 0x05 => if resv w [(6, 0)] then .error .resField else if 2 < bits w 36 34 then .error .badValue else .ok (.vfms (vguard w) (fin8 (bits w 36 34)) (fin32 (bits w 33 29)) (fin32 (bits w 28 24)) (fin32 (bits w 23 19)) (fin32 (bits w 18 14)) (fin4 (bits w 9 8)) (bits w 7 7 == 1))
  | 0x06 => if resv w [(6, 0)] then .error .resField else if 2 < bits w 36 34 then .error .badValue else .ok (.vfnma (vguard w) (fin8 (bits w 36 34)) (fin32 (bits w 33 29)) (fin32 (bits w 28 24)) (fin32 (bits w 23 19)) (fin32 (bits w 18 14)) (fin4 (bits w 9 8)) (bits w 7 7 == 1))
  | 0x07 => if resv w [(18, 14), (6, 0)] then .error .resField else if 2 < bits w 36 34 ∨ bits w 9 8 ≠ 0 ∨ bits w 7 7 ≠ 0 then .error .badValue else .ok (.vmin (vguard w) (fin8 (bits w 36 34)) (fin32 (bits w 33 29)) (fin32 (bits w 28 24)) (fin32 (bits w 23 19)))
  | 0x08 => if resv w [(18, 14), (6, 0)] then .error .resField else if 2 < bits w 36 34 ∨ bits w 9 8 ≠ 0 ∨ bits w 7 7 ≠ 0 then .error .badValue else .ok (.vmax (vguard w) (fin8 (bits w 36 34)) (fin32 (bits w 33 29)) (fin32 (bits w 28 24)) (fin32 (bits w 23 19)))
  | 0x09 => if resv w [(23, 14), (6, 0)] then .error .resField else if 2 < bits w 36 34 ∨ bits w 9 8 ≠ 0 ∨ bits w 7 7 ≠ 0 then .error .badValue else .ok (.vabs (vguard w) (fin8 (bits w 36 34)) (fin32 (bits w 33 29)) (fin32 (bits w 28 24)))
  | 0x0A => if resv w [(23, 14), (6, 0)] then .error .resField else if 2 < bits w 36 34 ∨ bits w 9 8 ≠ 0 ∨ bits w 7 7 ≠ 0 then .error .badValue else .ok (.vneg (vguard w) (fin8 (bits w 36 34)) (fin32 (bits w 33 29)) (fin32 (bits w 28 24)))
  | 0x0B => if resv w [(33, 32), (18, 14), (6, 4)] then .error .resField else if 2 < bits w 36 34 ∨ (bits w 36 34 = 0 ∧ bits w 3 3 = 1) ∨ bits w 9 8 ≠ 0 ∨ bits w 7 7 ≠ 0 then .error .badValue else .ok (.vcmp (vguard w) (fin8 (bits w 36 34)) (fin8 (bits w 31 29)) (fin32 (bits w 28 24)) (fin32 (bits w 23 19)) (fin8 (bits w 2 0)) (bits w 3 3 == 1))
  | 0x0C => if resv w [(18, 17), (6, 1)] then .error .resField else if bits w 36 34 ≠ 0 ∨ bits w 9 8 ≠ 0 ∨ bits w 7 7 ≠ 0 then .error .badValue else .ok (.vsel (vguard w) (fin32 (bits w 33 29)) (fin32 (bits w 28 24)) (fin32 (bits w 23 19)) (fin8 (bits w 16 14)) (bits w 0 0 == 1))
  | 0x0D => if resv w [(18, 14), (6, 0)] then .error .resField else if 2 < bits w 36 34 then .error .badValue else .ok (.vdiv (vguard w) (fin8 (bits w 36 34)) (fin32 (bits w 33 29)) (fin32 (bits w 28 24)) (fin32 (bits w 23 19)) (fin4 (bits w 9 8)) (bits w 7 7 == 1))
  | 0x0E => if resv w [(23, 14), (6, 0)] then .error .resField else if 2 < bits w 36 34 then .error .badValue else .ok (.vsqrt (vguard w) (fin8 (bits w 36 34)) (fin32 (bits w 33 29)) (fin32 (bits w 28 24)) (fin4 (bits w 9 8)) (bits w 7 7 == 1))
  | 0x0F => if resv w [(23, 14), (6, 0)] then .error .resField else if 2 < bits w 36 34 then .error .badValue else .ok (.vrcp (vguard w) (fin8 (bits w 36 34)) (fin32 (bits w 33 29)) (fin32 (bits w 28 24)) (fin4 (bits w 9 8)) (bits w 7 7 == 1))
  | 0x10 => if resv w [(23, 14), (6, 0)] then .error .resField else if 2 < bits w 36 34 then .error .badValue else .ok (.vrsq (vguard w) (fin8 (bits w 36 34)) (fin32 (bits w 33 29)) (fin32 (bits w 28 24)) (fin4 (bits w 9 8)) (bits w 7 7 == 1))
  | 0x11 => if resv w [(23, 14), (6, 0)] then .error .resField else if 2 < bits w 36 34 then .error .badValue else .ok (.vexp2 (vguard w) (fin8 (bits w 36 34)) (fin32 (bits w 33 29)) (fin32 (bits w 28 24)) (fin4 (bits w 9 8)) (bits w 7 7 == 1))
  | 0x12 => if resv w [(23, 14), (6, 0)] then .error .resField else if 2 < bits w 36 34 then .error .badValue else .ok (.vlog2 (vguard w) (fin8 (bits w 36 34)) (fin32 (bits w 33 29)) (fin32 (bits w 28 24)) (fin4 (bits w 9 8)) (bits w 7 7 == 1))
  | 0x13 => if resv w [(23, 19), (6, 5)] then .error .resField else if (¬ elemCount (bits w 2 0) < elemCount (bits w 36 34) ∧ bits w 18 14 ≠ 0) then .error .resField else if ¬ bits w 4 3 < cvtParts (bits w 2 0) (bits w 36 34) then .error .badValue else .ok (.vcvt (vguard w) (fin8 (bits w 36 34)) (fin32 (bits w 33 29)) (fin32 (bits w 28 24)) (fin32 (bits w 18 14)) (fin4 (bits w 9 8)) (bits w 7 7 == 1) (fin8 (bits w 2 0)) (fin4 (bits w 4 3)))
  | 0x14 => if resv w [(18, 14), (6, 4)] then .error .resField else if (bits w 3 3 = 0 ∧ bits w 23 19 ≠ 0) ∨ (bits w 3 3 = 1 ∧ bits w 2 0 ≠ 0) then .error .resField else if 2 < bits w 36 34 then .error .badValue else .ok (.vscl (vguard w) (fin8 (bits w 36 34)) (fin32 (bits w 33 29)) (fin32 (bits w 28 24)) (fin32 (bits w 23 19)) (fin4 (bits w 9 8)) (bits w 7 7 == 1) (bits w 3 3 == 1) (fin8 (bits w 2 0)))
  | 0x15 => if resv w [(23, 14), (6, 0)] then .error .resField else if 2 < bits w 36 34 ∨ bits w 7 7 ≠ 0 then .error .badValue else .ok (.vrint (vguard w) (fin8 (bits w 36 34)) (fin32 (bits w 33 29)) (fin32 (bits w 28 24)) (fin4 (bits w 9 8)))
  | 0x20 => if resv w [(18, 14), (6, 0)] then .error .resField else if (bits w 36 34 < 3 ∨ 5 < bits w 36 34) ∨ bits w 9 8 ≠ 0 then .error .badValue else .ok (.viadd (vguard w) (fin8 (bits w 36 34)) (fin32 (bits w 33 29)) (fin32 (bits w 28 24)) (fin32 (bits w 23 19)) (bits w 7 7 == 1))
  | 0x21 => if resv w [(18, 14), (6, 0)] then .error .resField else if (bits w 36 34 < 3 ∨ 5 < bits w 36 34) ∨ bits w 9 8 ≠ 0 then .error .badValue else .ok (.visub (vguard w) (fin8 (bits w 36 34)) (fin32 (bits w 33 29)) (fin32 (bits w 28 24)) (fin32 (bits w 23 19)) (bits w 7 7 == 1))
  | 0x22 => if resv w [(18, 14), (6, 0)] then .error .resField else if (bits w 36 34 < 3 ∨ 5 < bits w 36 34) ∨ bits w 9 8 ≠ 0 then .error .badValue else .ok (.vimul (vguard w) (fin8 (bits w 36 34)) (fin32 (bits w 33 29)) (fin32 (bits w 28 24)) (fin32 (bits w 23 19)) (bits w 7 7 == 1))
  | 0x23 => if resv w [(18, 14), (6, 0)] then .error .resField else if bits w 36 34 ≠ 0 ∨ bits w 9 8 ≠ 0 ∨ bits w 7 7 ≠ 0 then .error .badValue else .ok (.vand (vguard w) (fin32 (bits w 33 29)) (fin32 (bits w 28 24)) (fin32 (bits w 23 19)))
  | 0x24 => if resv w [(18, 14), (6, 0)] then .error .resField else if bits w 36 34 ≠ 0 ∨ bits w 9 8 ≠ 0 ∨ bits w 7 7 ≠ 0 then .error .badValue else .ok (.vor (vguard w) (fin32 (bits w 33 29)) (fin32 (bits w 28 24)) (fin32 (bits w 23 19)))
  | 0x25 => if resv w [(18, 14), (6, 0)] then .error .resField else if bits w 36 34 ≠ 0 ∨ bits w 9 8 ≠ 0 ∨ bits w 7 7 ≠ 0 then .error .badValue else .ok (.vxor (vguard w) (fin32 (bits w 33 29)) (fin32 (bits w 28 24)) (fin32 (bits w 23 19)))
  | 0x26 => if resv w [(18, 14)] then .error .resField else if (bits w 6 6 = 1 ∧ bits w 23 19 ≠ 0) ∨ (bits w 6 6 = 0 ∧ bits w 5 0 ≠ 0) then .error .resField else if (bits w 36 34 ≠ 3 ∧ bits w 36 34 ≠ 5) ∨ bits w 9 8 ≠ 0 ∨ bits w 7 7 ≠ 0 then .error .badValue else .ok (.vshl (vguard w) (fin8 (bits w 36 34)) (fin32 (bits w 33 29)) (fin32 (bits w 28 24)) (fin32 (bits w 23 19)) (bits w 6 6 == 1) (fin64 (bits w 5 0)))
  | 0x27 => if resv w [(18, 14)] then .error .resField else if (bits w 6 6 = 1 ∧ bits w 23 19 ≠ 0) ∨ (bits w 6 6 = 0 ∧ bits w 5 0 ≠ 0) then .error .resField else if (bits w 36 34 ≠ 3 ∧ bits w 36 34 ≠ 5) ∨ bits w 9 8 ≠ 0 ∨ bits w 7 7 ≠ 0 then .error .badValue else .ok (.vshr (vguard w) (fin8 (bits w 36 34)) (fin32 (bits w 33 29)) (fin32 (bits w 28 24)) (fin32 (bits w 23 19)) (bits w 6 6 == 1) (fin64 (bits w 5 0)))
  | 0x28 => if resv w [(18, 14)] then .error .resField else if (bits w 6 6 = 1 ∧ bits w 23 19 ≠ 0) ∨ (bits w 6 6 = 0 ∧ bits w 5 0 ≠ 0) then .error .resField else if (bits w 36 34 ≠ 3 ∧ bits w 36 34 ≠ 5) ∨ bits w 9 8 ≠ 0 ∨ bits w 7 7 ≠ 0 then .error .badValue else .ok (.vsra (vguard w) (fin8 (bits w 36 34)) (fin32 (bits w 33 29)) (fin32 (bits w 28 24)) (fin32 (bits w 23 19)) (bits w 6 6 == 1) (fin64 (bits w 5 0)))
  | 0x29 => if resv w [(18, 14), (6, 0)] then .error .resField else if (bits w 36 34 < 3 ∨ 5 < bits w 36 34) ∨ bits w 9 8 ≠ 0 ∨ bits w 7 7 ≠ 0 then .error .badValue else .ok (.vimin (vguard w) (fin8 (bits w 36 34)) (fin32 (bits w 33 29)) (fin32 (bits w 28 24)) (fin32 (bits w 23 19)))
  | 0x2A => if resv w [(18, 14), (6, 0)] then .error .resField else if (bits w 36 34 < 3 ∨ 5 < bits w 36 34) ∨ bits w 9 8 ≠ 0 ∨ bits w 7 7 ≠ 0 then .error .badValue else .ok (.vimax (vguard w) (fin8 (bits w 36 34)) (fin32 (bits w 33 29)) (fin32 (bits w 28 24)) (fin32 (bits w 23 19)))
  | 0x2B => if resv w [(33, 32), (18, 14), (6, 4)] then .error .resField else if (bits w 36 34 < 3 ∨ 5 < bits w 36 34) ∨ 6 ≤ bits w 2 0 ∨ (bits w 36 34 ≠ 5 ∧ bits w 3 3 = 1) ∨ bits w 9 8 ≠ 0 ∨ bits w 7 7 ≠ 0 then .error .badValue else .ok (.vicmp (vguard w) (fin8 (bits w 36 34)) (fin8 (bits w 31 29)) (fin32 (bits w 28 24)) (fin32 (bits w 23 19)) (fin8 (bits w 2 0)) (bits w 3 3 == 1))
  | 0x30 => if resv w [(23, 14), (6, 0)] then .error .resField else if bits w 36 34 ≠ 0 ∨ bits w 9 8 ≠ 0 ∨ bits w 7 7 ≠ 0 then .error .badValue else .ok (.vmov (vguard w) (fin32 (bits w 33 29)) (fin32 (bits w 28 24)))
  | 0x31 => if resv w [(23, 14), (6, 4)] then .error .resField else if bits w 36 34 ≠ 0 ∨ bits w 9 8 ≠ 0 ∨ bits w 7 7 ≠ 0 then .error .badValue else .ok (.vbcst (vguard w) (fin32 (bits w 33 29)) (fin32 (bits w 28 24)) (fin16 (bits w 3 0)))
  | 0x32 => if resv w [(23, 14), (6, 4)] then .error .resField else if bits w 36 34 ≠ 0 ∨ bits w 9 8 ≠ 0 ∨ bits w 7 7 ≠ 0 then .error .badValue else .ok (.vlane (vguard w) (fin32 (bits w 33 29)) (fin32 (bits w 28 24)) (fin16 (bits w 3 0)))
  | 0x33 => if resv w [(18, 14), (6, 0)] then .error .resField else if bits w 36 34 ≠ 0 ∨ bits w 9 8 ≠ 0 ∨ bits w 7 7 ≠ 0 then .error .badValue else .ok (.vget (vguard w) (fin32 (bits w 33 29)) (fin32 (bits w 28 24)) (fin32 (bits w 23 19)))
  | 0x34 => if resv w [(28, 14)] then .error .resField else if bits w 36 34 ≠ 3 ∨ bits w 9 8 ≠ 0 ∨ bits w 7 7 ≠ 0 then .error .badValue else .ok (.viota (vguard w) (fin32 (bits w 33 29)) (fin128 (bits w 6 0)))
  | 0x35 => if resv w [(6, 0)] then .error .resField else if bits w 36 34 ≠ 0 ∨ bits w 9 8 ≠ 0 ∨ bits w 7 7 ≠ 0 then .error .badValue else .ok (.vshuf (vguard w) (fin32 (bits w 33 29)) (fin32 (bits w 28 24)) (fin32 (bits w 23 19)) (fin32 (bits w 18 14)))
  | 0x36 => if resv w [(23, 14), (6, 3)] then .error .resField else if bits w 36 34 ≠ 0 ∨ bits w 9 8 ≠ 0 ∨ bits w 7 7 ≠ 0 then .error .badValue else .ok (.vxcl (vguard w) (fin32 (bits w 33 29)) (fin32 (bits w 28 24)) (fin8 (bits w 2 0)))
  | 0x37 => if resv w [(23, 14), (6, 0)] then .error .resField else if (bits w 36 34 ≠ 0 ∧ bits w 36 34 ≠ 3 ∧ bits w 36 34 ≠ 4) ∨ (bits w 36 34 ≠ 0 ∧ bits w 9 8 ≠ 0) then .error .badValue else .ok (.vreda (vguard w) (fin8 (bits w 36 34)) (fin32 (bits w 33 29)) (fin32 (bits w 28 24)) (fin4 (bits w 9 8)) (bits w 7 7 == 1))
  | 0x38 => if resv w [(23, 14), (6, 0)] then .error .resField else if (bits w 36 34 ≠ 0 ∧ bits w 36 34 ≠ 3 ∧ bits w 36 34 ≠ 4) ∨ bits w 9 8 ≠ 0 ∨ bits w 7 7 ≠ 0 then .error .badValue else .ok (.vredx (vguard w) (fin8 (bits w 36 34)) (fin32 (bits w 33 29)) (fin32 (bits w 28 24)))
  | 0x39 => if resv w [(18, 14), (6, 2)] then .error .resField else if (bits w 36 34 ≠ 5 ∧ bits w 36 34 ≠ 6) ∨ (bits w 36 34 = 5 ∧ 2 ≤ bits w 1 0) ∨ bits w 9 8 ≠ 0 ∨ bits w 7 7 ≠ 0 then .error .badValue else .ok (.vpack (vguard w) (fin8 (bits w 36 34)) (fin32 (bits w 33 29)) (fin32 (bits w 28 24)) (fin32 (bits w 23 19)) (fin4 (bits w 1 0)))
  | 0x3A => if resv w [(23, 14), (6, 3)] then .error .resField else if (bits w 36 34 ≠ 5 ∧ bits w 36 34 ≠ 6) ∨ (bits w 36 34 = 5 ∧ 2 ≤ bits w 1 0) ∨ bits w 9 8 ≠ 0 ∨ bits w 7 7 ≠ 0 then .error .badValue else .ok (.vunpk (vguard w) (fin8 (bits w 36 34)) (fin32 (bits w 33 29)) (fin32 (bits w 28 24)) (fin4 (bits w 1 0)) (bits w 2 2 == 1))
  | 0x3B => if resv w [(23, 14), (6, 0)] then .error .resField else if bits w 36 34 ≠ 3 ∨ bits w 9 8 ≠ 0 ∨ bits w 7 7 ≠ 0 then .error .badValue else .ok (.vpcnt (vguard w) (fin32 (bits w 33 29)) (fin32 (bits w 28 24)))
  | 0x3C => if resv w [(33, 32), (28, 27), (23, 22), (18, 14), (6, 4)] then .error .resField else if bits w 36 34 ≠ 0 ∨ bits w 9 8 ≠ 0 ∨ bits w 7 7 ≠ 0 then .error .badValue else .ok (.vplog (vguard w) (fin8 (bits w 31 29)) (fin8 (bits w 26 24)) (fin8 (bits w 21 19)) (BitVec.ofNat 4 (bits w 3 0)))
  | _ => .error .resOp

/-- R89, R160. The M slot. -/
def decodeM (w : Nat) : Except Reason Instr :=
  match bits w 23 19 with
  | 0x00 => if resv w [(18, 0)] then .error .resField else .ok (.mnop)
  | 0x01 => if resv w [(10, 0)] then .error .resField else .ok (.mcall (fin256 (bits w 18 11)))
  | 0x02 => if resv w [(10, 0)] then .error .resField else .ok (.mpset (fin8 (bits w 18 16)) (fin32 (bits w 15 11)))
  | 0x03 => if resv w [(16, 0)] then .error .resField else .ok (.mfeed (fin4 (bits w 18 17)))
  | 0x04 => .ok (.moset (fin4 (bits w 18 17)) (fin32 (bits w 16 12)) (BitVec.ofNat 12 (bits w 11 0)))
  | 0x05 => .ok (.mdrain (fin32 (bits w 18 14)) (fin256 (bits w 13 6)) (fin32 (bits w 5 1)) (bits w 0 0 == 1))
  | 0x06 => if resv w [(2, 0)] then .error .resField else if 256 < bits w 18 11 + bits w 10 3 + 1 then .error .badValue else .ok (.mzero (fin256 (bits w 18 11)) (fin256 (bits w 10 3)))
  | 0x07 => if resv w [(5, 0)] then .error .resField else .ok (.mbook (fin256 (bits w 18 11)) (fin32 (bits w 10 6)))
  | _ => .error .resOp

/-- R89, R168. The K slot. -/
def decodeK (w : Nat) : Except Reason Instr :=
  match bits w 11 9 with
  | 0x00 => if resv w [(8, 0)] then .error .resField else .ok (.knop)
  | 0x01 => .ok (.kld (fin8 (bits w 8 6)) (fin8 (bits w 5 3)) (fin8 (bits w 2 0)))
  | 0x02 => .ok (.kset (fin8 (bits w 8 6)) (fin8 (bits w 5 3)) (fin8 (bits w 2 0)))
  | 0x03 => if resv w [(2, 0)] then .error .resField else .ok (.kmov (fin8 (bits w 8 6)) (fin8 (bits w 5 3)))
  | _ => .error .resOp

/-- R89, R142. The D slot. -/
def decodeD (w : Nat) : Except Reason Instr :=
  match bits w 27 23 with
  | 0x00 => if resv w [(22, 0)] then .error .resField else .ok (.dnop)
  | 0x01 => .ok (.vldS (fin32 (bits w 22 18)) (fin32 (bits w 17 13)) (BitVec.ofNat 13 (bits w 12 0)))
  | 0x02 => .ok (.vstS (fin32 (bits w 22 18)) (fin32 (bits w 17 13)) (BitVec.ofNat 13 (bits w 12 0)))
  | 0x03 => if bits w 7 0 = 0 then .error .badValue else .ok (.vldG (fin32 (bits w 22 18)) (fin32 (bits w 17 13)) (fin32 (bits w 12 8)) (BitVec.ofNat 8 (bits w 7 0)))
  | 0x04 => .ok (.vstG (fin32 (bits w 22 18)) (fin32 (bits w 17 13)) (BitVec.ofNat 13 (bits w 12 0)))
  | 0x05 => .ok (.vldb (fin32 (bits w 22 18)) (fin32 (bits w 17 13)) (BitVec.ofNat 13 (bits w 12 0)))
  | 0x06 => if bits w 7 0 = 0 then .error .badValue else .ok (.vgth (fin32 (bits w 22 18)) (fin32 (bits w 17 13)) (fin32 (bits w 12 8)) (BitVec.ofNat 8 (bits w 7 0)))
  | 0x07 => if resv w [(12, 5)] then .error .resField else .ok (.vsct (fin32 (bits w 22 18)) (fin32 (bits w 17 13)) (fin32 (bits w 4 0)))
  | 0x08 => if resv w [(17, 13)] then .error .resField else .ok (.hpop (fin32 (bits w 22 18)) (fin16 (bits w 12 9)) (fin512 (bits w 8 0)))
  | 0x09 => if resv w [(17, 13)] then .error .resField else .ok (.hpush (fin32 (bits w 22 18)) (fin16 (bits w 12 9)) (fin512 (bits w 8 0)))
  | 0x0A => if resv w [(22, 13)] then .error .resField else .ok (.hadvr (fin16 (bits w 12 9)) (fin512 (bits w 8 0)))
  | 0x0B => if resv w [(22, 13)] then .error .resField else .ok (.hadvw (fin16 (bits w 12 9)) (fin512 (bits w 8 0)))
  | 0x0C => if resv w [(22, 18), (8, 4)] then .error .resField else if 13 ≤ bits w 3 0 then .error .badValue else .ok (.hset (fin32 (bits w 17 13)) (fin16 (bits w 12 9)) (fin16 (bits w 3 0)))
  | 0x0D => .ok (.pref (fin32 (bits w 22 18)) (fin32 (bits w 17 13)) (BitVec.ofNat 13 (bits w 12 0)))
  | _ => .error .resOp

/-- R89, R90. The E slot. -/
def decodeE (w : Nat) : Except Reason Instr :=
  match bits w 31 26 with
  | 0x00 => if resv w [(25, 0)] then .error .resField else .ok (.enop)
  | 0x01 => if resv w [(14, 0)] then .error .resField else if 4 ≤ bits w 25 23 ∨ 5 ≤ bits w 22 20 then .error .badValue else .ok (.modp (fin8 (bits w 25 23)) (fin8 (bits w 22 20)) (fin4 (bits w 19 18)) (fin8 (bits w 17 15)))
  | 0x02 => if resv w [(20, 0)] then .error .resField else .ok (.cseq (fin32 (bits w 25 21)))
  | 0x03 => if resv w [(16, 0)] then .error .resField else .ok (.job (fin32 (bits w 25 21)) (fin16 (bits w 20 17)))
  | 0x08 => if (bits w 15 13 ≠ 0 ∧ bits w 15 13 ≠ 3 ∧ bits w 15 13 ≠ 4) then .error .badValue else .ok (.taddv (fin32 (bits w 25 21)) (fin32 (bits w 20 16)) (fin8 (bits w 15 13)) (BitVec.ofNat 13 (bits w 12 0)))
  | 0x09 => if (bits w 15 13 ≠ 0 ∧ bits w 15 13 ≠ 3 ∧ bits w 15 13 ≠ 4) then .error .badValue else .ok (.tmaxv (fin32 (bits w 25 21)) (fin32 (bits w 20 16)) (fin8 (bits w 15 13)) (BitVec.ofNat 13 (bits w 12 0)))
  | 0x0A => if bits w 15 13 ≠ 0 then .error .badValue else .ok (.tmulv (fin32 (bits w 25 21)) (fin32 (bits w 20 16)) (fin8 (bits w 15 13)) (BitVec.ofNat 13 (bits w 12 0)))
  | 0x0B => if bits w 15 13 ≠ 0 then .error .badValue else .ok (.texpsv (fin32 (bits w 25 21)) (fin32 (bits w 20 16)) (fin8 (bits w 15 13)) (BitVec.ofNat 13 (bits w 12 0)))
  | 0x0C => if resv w [(5, 0)] then .error .resField else if bits w 15 13 ≠ 0 then .error .badValue else .ok (.tscal (fin32 (bits w 25 21)) (fin32 (bits w 20 16)) (fin8 (bits w 15 13)) (fin128 (bits w 12 6)))
  | 0x0D => if resv w [(5, 0)] then .error .resField else if bits w 15 13 ≠ 0 then .error .badValue else .ok (.tfill (fin32 (bits w 25 21)) (fin32 (bits w 20 16)) (fin8 (bits w 15 13)) (fin128 (bits w 12 6)))
  | 0x0E => if resv w [(5, 0)] then .error .resField else if (bits w 15 13 ≠ 0 ∧ bits w 15 13 ≠ 3 ∧ bits w 15 13 ≠ 4) then .error .badValue else .ok (.tsumr (fin32 (bits w 25 21)) (fin32 (bits w 20 16)) (fin8 (bits w 15 13)) (fin128 (bits w 12 6)))
  | 0x0F => if resv w [(5, 0)] then .error .resField else if (bits w 15 13 ≠ 0 ∧ bits w 15 13 ≠ 3 ∧ bits w 15 13 ≠ 4) then .error .badValue else .ok (.tmaxr (fin32 (bits w 25 21)) (fin32 (bits w 20 16)) (fin8 (bits w 15 13)) (fin128 (bits w 12 6)))
  | 0x10 => if resv w [(5, 0)] then .error .resField else if bits w 15 13 ≠ 0 then .error .badValue else .ok (.texpn (fin32 (bits w 25 21)) (fin32 (bits w 20 16)) (fin8 (bits w 15 13)) (fin128 (bits w 12 6)))
  | 0x11 => if resv w [(15, 13)] then .error .resField else if bits w 7 0 = 0 then .error .badValue else .ok (.tfaa (fin32 (bits w 25 21)) (fin32 (bits w 20 16)) (fin32 (bits w 12 8)) (BitVec.ofNat 8 (bits w 7 0)))
  | 0x12 => if resv w [(15, 13)] then .error .resField else if bits w 7 0 = 0 then .error .badValue else .ok (.tfaab (fin32 (bits w 25 21)) (fin32 (bits w 20 16)) (fin32 (bits w 12 8)) (BitVec.ofNat 8 (bits w 7 0)))
  | 0x13 => if resv w [(15, 13)] then .error .resField else if bits w 7 0 = 0 then .error .badValue else .ok (.tincw (fin32 (bits w 25 21)) (fin32 (bits w 20 16)) (fin32 (bits w 12 8)) (BitVec.ofNat 8 (bits w 7 0)))
  | 0x14 => if resv w [(15, 13)] then .error .resField else if bits w 7 0 = 0 then .error .badValue else .ok (.tdecw (fin32 (bits w 25 21)) (fin32 (bits w 20 16)) (fin32 (bits w 12 8)) (BitVec.ofNat 8 (bits w 7 0)))
  | 0x15 => if resv w [(15, 13)] then .error .resField else if bits w 7 0 = 0 then .error .badValue else .ok (.tcas (fin32 (bits w 25 21)) (fin32 (bits w 20 16)) (fin32 (bits w 12 8)) (BitVec.ofNat 8 (bits w 7 0)))
  | 0x16 => if resv w [(15, 13)] then .error .resField else if bits w 7 0 = 0 then .error .badValue else .ok (.txchg (fin32 (bits w 25 21)) (fin32 (bits w 20 16)) (fin32 (bits w 12 8)) (BitVec.ofNat 8 (bits w 7 0)))
  | 0x17 => if resv w [(24, 18)] then .error .resField else if bits w 17 16 = 3 then .error .badValue else .ok (.tfence (bits w 25 25 == 1) (fin4 (bits w 17 16)) (BitVec.ofNat 16 (bits w 15 0)))
  | 0x20 => if resv w [(8, 0)] then .error .resField else if bits w 15 14 = 3 ∨ (bits w 13 13 = 0 ∧ bits w 12 9 ≠ 0) then .error .badValue else .ok (.sku (fin32 (bits w 25 21)) (fin32 (bits w 20 16)) (fin4 (bits w 15 14)) (bits w 13 13 == 1) (fin16 (bits w 12 9)))
  | 0x21 => if resv w [(5, 0)] then .error .resField else if (bits w 10 10 = 0 ∧ bits w 9 6 ≠ 0) then .error .badValue else .ok (.skr (fin32 (bits w 25 21)) (fin32 (bits w 20 16)) (fin32 (bits w 15 11)) (bits w 10 10 == 1) (fin16 (bits w 9 6)))
  | 0x22 => if bits w 10 10 = 1 then (if resv w [(9, 5)] then .error .resField else if 6 ≤ bits w 15 13 ∨ bits w 12 11 = 3 then .error .badValue else .ok (.wldAbs (fin32 (bits w 25 21)) (fin32 (bits w 20 16)) (fin8 (bits w 15 13)) (fin4 (bits w 12 11)) (fin32 (bits w 4 0)))) else (if resv w [(9, 8)] then .error .resField else if 6 ≤ bits w 15 13 ∨ bits w 12 11 = 3 then .error .badValue else .ok (.wldRel (fin32 (bits w 25 21)) (fin32 (bits w 20 16)) (fin8 (bits w 15 13)) (fin4 (bits w 12 11)) (BitVec.ofNat 8 (bits w 7 0))))
  | 0x23 => if resv w [(5, 0)] then .error .resField else if (bits w 10 10 = 0 ∧ bits w 9 6 ≠ 0) then .error .badValue else .ok (.stepc (fin32 (bits w 25 21)) (fin32 (bits w 20 16)) (fin32 (bits w 15 11)) (bits w 10 10 == 1) (fin16 (bits w 9 6)))
  | 0x24 => if resv w [(8, 0)] then .error .resField else .ok (.lwm (fin32 (bits w 25 21)) (fin32 (bits w 20 16)) (fin64 (bits w 15 10)) (bits w 9 9 == 1))
  | 0x25 => if resv w [(10, 0)] then .error .resField else if (bits w 15 15 = 0 ∧ bits w 14 11 ≠ 0) then .error .badValue else .ok (.stepq (fin32 (bits w 25 21)) (fin32 (bits w 20 16)) (bits w 15 15 == 1) (fin16 (bits w 14 11)))
  | 0x26 => if resv w [(5, 0)] then .error .resField else if (bits w 10 10 = 0 ∧ bits w 9 6 ≠ 0) then .error .badValue else .ok (.coatw (fin32 (bits w 25 21)) (fin32 (bits w 20 16)) (fin32 (bits w 15 11)) (bits w 10 10 == 1) (fin16 (bits w 9 6)))
  | 0x28 => if resv w [(5, 0)] then .error .resField else if (bits w 10 10 = 0 ∧ bits w 9 6 ≠ 0) then .error .badValue else .ok (.ttload (fin32 (bits w 25 21)) (fin32 (bits w 20 16)) (fin32 (bits w 15 11)) (bits w 10 10 == 1) (fin16 (bits w 9 6)))
  | 0x29 => if resv w [(5, 0)] then .error .resField else if (bits w 10 10 = 0 ∧ bits w 9 6 ≠ 0) then .error .badValue else .ok (.ttgo (fin32 (bits w 25 21)) (fin32 (bits w 20 16)) (fin32 (bits w 15 11)) (bits w 10 10 == 1) (fin16 (bits w 9 6)))
  | 0x2A => if resv w [(25, 21), (5, 0)] then .error .resField else if (bits w 10 10 = 0 ∧ bits w 9 6 ≠ 0) then .error .badValue else .ok (.ttstop (fin32 (bits w 20 16)) (fin32 (bits w 15 11)) (bits w 10 10 == 1) (fin16 (bits w 9 6)))
  | 0x2B => if resv w [(25, 21), (5, 0)] then .error .resField else if (bits w 10 10 = 0 ∧ bits w 9 6 ≠ 0) then .error .badValue else .ok (.chpwr (fin32 (bits w 20 16)) (fin32 (bits w 15 11)) (bits w 10 10 == 1) (fin16 (bits w 9 6)))
  | 0x30 => if resv w [(5, 0)] then .error .resField else if (bits w 10 10 = 0 ∧ bits w 9 6 ≠ 0) then .error .badValue else .ok (.send (fin32 (bits w 25 21)) (fin32 (bits w 20 16)) (fin32 (bits w 15 11)) (bits w 10 10 == 1) (fin16 (bits w 9 6)))
  | 0x31 => if resv w [(13, 0)] then .error .resField else if bits w 20 19 = 3 ∨ (bits w 18 18 = 0 ∧ bits w 17 14 ≠ 0) then .error .badValue else .ok (.bankmode (fin32 (bits w 25 21)) (fin4 (bits w 20 19)) (bits w 18 18 == 1) (fin16 (bits w 17 14)))
  | _ => .error .resOp

/-- The instruction in the word w of a slot, or the reason it is none (R92, R95). -/
def decodeSlot : Slot → Nat → Except Reason Instr
  | .c, w => decodeC w | .a, w => decodeAB .a w | .b, w => decodeAB .b w | .v, w => decodeV w
  | .m, w => decodeM w | .k, w => decodeK w | .d, w => decodeD w | .e, w => decodeE w

/-- R87 to R90. The D-slot memory operations are opcodes 0x01 to 0x09 and 0x0D. -/
def isDMemory (w : Nat) : Bool :=
  let op := bits w 27 23
  (1 ≤ op && op ≤ 9) || op == 0x0D

/-- The slot a slot instruction is encoded in; none for the steps that no core fetches. The A and B slots' no-operation is the all-zero word. -/
def slotOf : Instr → Option Slot
  | .nop => some .c
  | .br _ _ => some .c
  | .brx _ _ => some .c
  | .call _ _ => some .c
  | .ret _ => some .c
  | .loop _ _ _ => some .c
  | .lbrk _ _ _ => some .c
  | .waits _ _ _ => some .c
  | .sigs _ _ _ => some .c
  | .waitc _ _ _ => some .c
  | .arrive _ _ => some .c
  | .bwait _ _ => some .c
  | .fence _ _ => some .c
  | .acq _ _ _ => some .c
  | .rel _ _ _ => some .c
  | .bankacq _ _ => some .c
  | .bankrel _ _ => some .c
  | .launch _ _ _ => some .c
  | .cancel _ _ _ => some .c
  | .sleep _ => some .c
  | .armh _ _ _ => some .c
  | .yield _ => some .c
  | .trap _ _ => some .c
  | .rett _ => some .c
  | .csrr _ _ _ => some .c
  | .stenld _ _ _ => some .c
  | .frame _ _ _ => some .c
  | .brk _ _ => some .c
  | .endTask _ => some .c
  | .sevt _ _ => some .c
  | .add sl _ _ _ => some (match sl with | .a => .a | .b => .b)
  | .sub sl _ _ _ => some (match sl with | .a => .a | .b => .b)
  | .and sl _ _ _ => some (match sl with | .a => .a | .b => .b)
  | .or sl _ _ _ => some (match sl with | .a => .a | .b => .b)
  | .xor sl _ _ _ => some (match sl with | .a => .a | .b => .b)
  | .shl sl _ _ _ => some (match sl with | .a => .a | .b => .b)
  | .shr sl _ _ _ => some (match sl with | .a => .a | .b => .b)
  | .sra sl _ _ _ => some (match sl with | .a => .a | .b => .b)
  | .mul sl _ _ _ => some (match sl with | .a => .a | .b => .b)
  | .mulh sl _ _ _ => some (match sl with | .a => .a | .b => .b)
  | .mulhn sl _ _ _ => some (match sl with | .a => .a | .b => .b)
  | .min sl _ _ _ => some (match sl with | .a => .a | .b => .b)
  | .max sl _ _ _ => some (match sl with | .a => .a | .b => .b)
  | .minn sl _ _ _ => some (match sl with | .a => .a | .b => .b)
  | .maxn sl _ _ _ => some (match sl with | .a => .a | .b => .b)
  | .cmp sl _ _ _ _ => some (match sl with | .a => .a | .b => .b)
  | .sel sl _ _ _ _ _ => some (match sl with | .a => .a | .b => .b)
  | .clz sl _ _ => some (match sl with | .a => .a | .b => .b)
  | .popc sl _ _ => some (match sl with | .a => .a | .b => .b)
  | .div sl _ _ _ => some (match sl with | .a => .a | .b => .b)
  | .rem sl _ _ _ => some (match sl with | .a => .a | .b => .b)
  | .addi sl _ _ _ => some (match sl with | .a => .a | .b => .b)
  | .andi sl _ _ _ => some (match sl with | .a => .a | .b => .b)
  | .ori sl _ _ _ => some (match sl with | .a => .a | .b => .b)
  | .xori sl _ _ _ => some (match sl with | .a => .a | .b => .b)
  | .shli sl _ _ _ => some (match sl with | .a => .a | .b => .b)
  | .shri sl _ _ _ => some (match sl with | .a => .a | .b => .b)
  | .srai sl _ _ _ => some (match sl with | .a => .a | .b => .b)
  | .cmpi sl _ _ _ _ => some (match sl with | .a => .a | .b => .b)
  | .lui sl _ _ => some (match sl with | .a => .a | .b => .b)
  | .plog sl _ _ _ _ => some (match sl with | .a => .a | .b => .b)
  | .ldsD _ _ _ => some .b
  | .ldsW _ _ _ => some .b
  | .ldsWn _ _ _ => some .b
  | .ldsH _ _ _ => some .b
  | .ldsHn _ _ _ => some .b
  | .ldsB _ _ _ => some .b
  | .ldsBn _ _ _ => some .b
  | .stsD _ _ _ => some .b
  | .stsW _ _ _ => some .b
  | .stsH _ _ _ => some .b
  | .stsB _ _ _ => some .b
  | .vnop => some .v
  | .vadd _ _ _ _ _ _ _ => some .v
  | .vsub _ _ _ _ _ _ _ => some .v
  | .vmul _ _ _ _ _ _ _ => some .v
  | .vfma _ _ _ _ _ _ _ _ => some .v
  | .vfms _ _ _ _ _ _ _ _ => some .v
  | .vfnma _ _ _ _ _ _ _ _ => some .v
  | .vmin _ _ _ _ _ => some .v
  | .vmax _ _ _ _ _ => some .v
  | .vabs _ _ _ _ => some .v
  | .vneg _ _ _ _ => some .v
  | .vcmp _ _ _ _ _ _ _ => some .v
  | .vsel _ _ _ _ _ _ => some .v
  | .vdiv _ _ _ _ _ _ _ => some .v
  | .vsqrt _ _ _ _ _ _ => some .v
  | .vrcp _ _ _ _ _ _ => some .v
  | .vrsq _ _ _ _ _ _ => some .v
  | .vexp2 _ _ _ _ _ _ => some .v
  | .vlog2 _ _ _ _ _ _ => some .v
  | .vcvt _ _ _ _ _ _ _ _ _ => some .v
  | .vscl _ _ _ _ _ _ _ _ _ => some .v
  | .vrint _ _ _ _ _ => some .v
  | .viadd _ _ _ _ _ _ => some .v
  | .visub _ _ _ _ _ _ => some .v
  | .vimul _ _ _ _ _ _ => some .v
  | .vand _ _ _ _ => some .v
  | .vor _ _ _ _ => some .v
  | .vxor _ _ _ _ => some .v
  | .vshl _ _ _ _ _ _ _ => some .v
  | .vshr _ _ _ _ _ _ _ => some .v
  | .vsra _ _ _ _ _ _ _ => some .v
  | .vimin _ _ _ _ _ => some .v
  | .vimax _ _ _ _ _ => some .v
  | .vicmp _ _ _ _ _ _ _ => some .v
  | .vmov _ _ _ => some .v
  | .vbcst _ _ _ _ => some .v
  | .vlane _ _ _ _ => some .v
  | .vget _ _ _ _ => some .v
  | .viota _ _ _ => some .v
  | .vshuf _ _ _ _ _ => some .v
  | .vxcl _ _ _ _ => some .v
  | .vreda _ _ _ _ _ _ => some .v
  | .vredx _ _ _ _ => some .v
  | .vpack _ _ _ _ _ _ => some .v
  | .vunpk _ _ _ _ _ _ => some .v
  | .vpcnt _ _ _ => some .v
  | .vplog _ _ _ _ _ => some .v
  | .mnop => some .m
  | .mcall _ => some .m
  | .mpset _ _ => some .m
  | .mfeed _ => some .m
  | .moset _ _ _ => some .m
  | .mdrain _ _ _ _ => some .m
  | .mzero _ _ => some .m
  | .mbook _ _ => some .m
  | .knop => some .k
  | .kld _ _ _ => some .k
  | .kset _ _ _ => some .k
  | .kmov _ _ => some .k
  | .dnop => some .d
  | .vldS _ _ _ => some .d
  | .vstS _ _ _ => some .d
  | .vldG _ _ _ _ => some .d
  | .vstG _ _ _ => some .d
  | .vldb _ _ _ => some .d
  | .vgth _ _ _ _ => some .d
  | .vsct _ _ _ => some .d
  | .hpop _ _ _ => some .d
  | .hpush _ _ _ => some .d
  | .hadvr _ _ => some .d
  | .hadvw _ _ => some .d
  | .hset _ _ _ => some .d
  | .pref _ _ _ => some .d
  | .enop => some .e
  | .modp _ _ _ _ => some .e
  | .cseq _ => some .e
  | .job _ _ => some .e
  | .taddv _ _ _ _ => some .e
  | .tmaxv _ _ _ _ => some .e
  | .tmulv _ _ _ _ => some .e
  | .texpsv _ _ _ _ => some .e
  | .tscal _ _ _ _ => some .e
  | .tfill _ _ _ _ => some .e
  | .tsumr _ _ _ _ => some .e
  | .tmaxr _ _ _ _ => some .e
  | .texpn _ _ _ _ => some .e
  | .tfaa _ _ _ _ => some .e
  | .tfaab _ _ _ _ => some .e
  | .tincw _ _ _ _ => some .e
  | .tdecw _ _ _ _ => some .e
  | .tcas _ _ _ _ => some .e
  | .txchg _ _ _ _ => some .e
  | .tfence _ _ _ => some .e
  | .sku _ _ _ _ _ => some .e
  | .skr _ _ _ _ _ => some .e
  | .wldRel _ _ _ _ _ => some .e
  | .wldAbs _ _ _ _ _ => some .e
  | .stepc _ _ _ _ _ => some .e
  | .lwm _ _ _ _ => some .e
  | .stepq _ _ _ _ => some .e
  | .coatw _ _ _ _ _ => some .e
  | .ttload _ _ _ _ _ => some .e
  | .ttgo _ _ _ _ _ => some .e
  | .ttstop _ _ _ _ => some .e
  | .chpwr _ _ _ _ => some .e
  | .send _ _ _ _ _ => some .e
  | .bankmode _ _ _ _ => some .e
  | .csrw _ _ _ => some .c
  | .csrwMemdef _ _ => some .c
  | .csrwClm _ _ => some .c
  | .csrwFramelen _ _ => some .c
  | .csrwDetmode _ _ => some .c
  | .csrwStepref _ _ => some .c
  | .csrwTrappc _ _ => some .c
  | .csrwHarm _ _ _ => some .c
  | .csrwLoopCount _ _ _ _ => some .c
  | .csrwMslot _ _ _ => some .c
  | .csrwXlroot _ _ => some .c
  | .bundleIssue _ => none
  | .blockClear _ _ => none
  | .runLimit _ => none
  | .resultLanding _ _ => none
  | .landing _ _ => none
  | .lateDataReturn _ => none
  | .bundleRetire _ _ => none
  | .stencilWord _ _ => none
  | .contextSaved _ _ => none
  | .killDrainComplete _ _ => none
  | .endDrainComplete _ _ => none
  | .messageDelivery _ _ => none
  | .dispatchRound _ => none
  | .groupStart _ => none
  | .bankHandover _ _ => none
  | .launchDecision _ => none
  | .launchComplete _ => none
  | .matrixSlotTurn => none
  | .matrixChunk _ => none
  | .matrixItemComplete _ => none
  | .cardStart _ => none
  | .copyComplete _ _ _ => none
  | .cardComplete _ _ => none
  | .trowelCommandStart _ _ => none
  | .trowelCommandPerform _ _ => none
  | .barrierArrival _ _ => none
  | .bankAccess _ _ => none
  | .bankmodeSwitchComplete _ _ => none
  | .skimAdmission _ _ => none
  | .coatStart _ _ => none
  | .skimRowVisit _ _ => none
  | .groupVisit _ _ => none
  | .coatComplete _ _ => none
  | .commitFail _ => none
  | .waitTimeout _ _ => none
  | .regionRemoved _ => none
  | .timetableEntry _ => none
  | .dramAccess _ _ => none
  | .spareCopyComplete _ _ _ => none
  | .nbVisit _ => none
  | .timetableStage _ => none
  | .tableReplacement _ => none
  | .defaultTableSwitch _ => none
  | .channelPowerDown _ => none
  | .channelWake _ => none
  | .alignmentFlit _ => none
  | .sendDelivery _ => none
  | .sendTimeout _ => none
  | .hashBoundary => none
  | .traceSample _ => none
  | .hashTreeFormed => none
  | .checkpointWriteComplete _ => none
  | .preemptRequest _ _ _ => none
  | .contextRestore _ _ _ _ => none
  | .killRequest _ _ => none
  | .hostAtomic _ _ _ _ _ _ => none
  | .hostRead _ _ _ => none
  | .hostWrite _ _ _ => none
  | .linkEnable _ => none
  | .lanesTrained _ => none
  | .trainingFail _ => none
  | .negotiationDone _ _ => none
  | .linkDegrade _ _ => none
  | .linkRestore _ => none
  | .linkDisable _ => none
  | .flitReceive _ _ => none
  | .ueConnectionSetup _ _ _ => none
  | .uePacket _ _ _ => none
  | .kload _ _ => none
  | .kretire _ _ => none
  | .hostLaunch _ _ => none
  | .hostCancel _ _ => none
  | .kill _ _ => none
  | .qpause _ => none
  | .qresume _ => none
  | .qdrain _ => none
  | .qreset _ => none
  | .qstat _ => none
  | .pmap _ _ _ _ => none
  | .ppin _ _ _ => none
  | .punpin _ _ _ => none
  | .punmap _ _ _ => none
  | .pstat _ _ => none
  | .rcreate _ _ _ _ _ _ => none
  | .rdestroy _ _ => none
  | .rstat _ _ => none
  | .cpmode _ _ _ => none
  | .qdet _ _ => none
  | .hashcfg _ _ => none
  | .hashrd _ _ _ _ => none
  | .trcfg _ _ _ _ _ => none
  | .dbg _ _ _ _ => none
  | .hstat _ => none
  | .cksave _ _ _ => none
  | .ckrestore _ _ => none
  | .ckdrop _ _ => none
  | .fwload _ _ => none
  | .attest _ _ => none
  | .plim _ _ => none
  | .moduleReset => none
  | .dwellEnd _ => none
  | .trainComplete => none
  | .rampComplete => none
  | .marginLow _ _ => none
  | .dieOvertemp _ => none
  | .powerLoss => none
  | .droopFire _ _ => none
  | .scrub _ _ => none
  | .firmwareReload _ _ => none
  | .channelTrainingFails => none
  | .marginRestored _ _ => none
  | .ageingIndicatorLow _ _ _ => none
  | .timingSourceDesignation _ _ => none

/-- The word of a slot instruction, from the same tables; 0 for the steps that no core fetches. -/
def encode : Instr → Nat
  | .nop => 0
  | .br g disp => 4194304 + g.p.val * 524288 + g.neg.toNat * 262144 + disp.toNat
  | .brx g xa => 8388608 + g.p.val * 524288 + g.neg.toNat * 262144 + xa.val * 256
  | .call g disp => 12582912 + g.p.val * 524288 + g.neg.toNat * 262144 + disp.toNat
  | .ret g => 16777216 + g.p.val * 524288 + g.neg.toNat * 262144
  | .loop g lvl disp => 20971520 + g.p.val * 524288 + g.neg.toNat * 262144 + lvl.val * 32768 + disp.toNat
  | .lbrk g lvl disp => 25165824 + g.p.val * 524288 + g.neg.toNat * 262144 + lvl.val * 32768 + disp.toNat
  | .waits g sm cnt => 29360128 + g.p.val * 524288 + g.neg.toNat * 262144 + sm.val * 16 + cnt.val
  | .sigs g sm cnt => 33554432 + g.p.val * 524288 + g.neg.toNat * 262144 + sm.val * 16 + cnt.val
  | .waitc g xm xc => 37748736 + g.p.val * 524288 + g.neg.toNat * 262144 + xm.val * 8192 + xc.val * 256
  | .arrive g bk => 41943040 + g.p.val * 524288 + g.neg.toNat * 262144 + bk.val
  | .bwait g bk => 46137344 + g.p.val * 524288 + g.neg.toNat * 262144 + bk.val
  | .fence g scope => 50331648 + g.p.val * 524288 + g.neg.toNat * 262144 + scope.val
  | .acq g xa scope => 54525952 + g.p.val * 524288 + g.neg.toNat * 262144 + xa.val * 256 + scope.val
  | .rel g xa scope => 58720256 + g.p.val * 524288 + g.neg.toNat * 262144 + xa.val * 256 + scope.val
  | .bankacq g xa => 62914560 + g.p.val * 524288 + g.neg.toNat * 262144 + xa.val * 256
  | .bankrel g xa => 67108864 + g.p.val * 524288 + g.neg.toNat * 262144 + xa.val * 256
  | .launch g xd xa => 71303168 + g.p.val * 524288 + g.neg.toNat * 262144 + xd.val * 8192 + xa.val * 256
  | .cancel g xd xa => 75497472 + g.p.val * 524288 + g.neg.toNat * 262144 + xd.val * 8192 + xa.val * 256
  | .sleep g => 79691776 + g.p.val * 524288 + g.neg.toNat * 262144
  | .armh g xa k => 83886080 + g.p.val * 524288 + g.neg.toNat * 262144 + xa.val * 256 + k.val
  | .yield g => 88080384 + g.p.val * 524288 + g.neg.toNat * 262144
  | .trap g n => 92274688 + g.p.val * 524288 + g.neg.toNat * 262144 + n.toNat
  | .rett g => 96468992 + g.p.val * 524288 + g.neg.toNat * 262144
  | .csrr g csr xd => 100663296 + g.p.val * 524288 + g.neg.toNat * 262144 + csr.toNat * 256 + xd.val * 8
  | .stenld g xn xa => 109051904 + g.p.val * 524288 + g.neg.toNat * 262144 + xn.val * 8192 + xa.val * 256
  | .frame g xa len => 113246208 + g.p.val * 524288 + g.neg.toNat * 262144 + xa.val * 256 + len.toNat
  | .brk g tag => 117440512 + g.p.val * 524288 + g.neg.toNat * 262144 + tag.toNat
  | .endTask g => 121634816 + g.p.val * 524288 + g.neg.toNat * 262144
  | .sevt g ev => 125829120 + g.p.val * 524288 + g.neg.toNat * 262144 + ev.toNat
  | .add _ xd xa xb => 4194304 + xd.val * 131072 + xa.val * 4096 + xb.val * 128
  | .sub _ xd xa xb => 8388608 + xd.val * 131072 + xa.val * 4096 + xb.val * 128
  | .and _ xd xa xb => 12582912 + xd.val * 131072 + xa.val * 4096 + xb.val * 128
  | .or _ xd xa xb => 16777216 + xd.val * 131072 + xa.val * 4096 + xb.val * 128
  | .xor _ xd xa xb => 20971520 + xd.val * 131072 + xa.val * 4096 + xb.val * 128
  | .shl _ xd xa xb => 25165824 + xd.val * 131072 + xa.val * 4096 + xb.val * 128
  | .shr _ xd xa xb => 29360128 + xd.val * 131072 + xa.val * 4096 + xb.val * 128
  | .sra _ xd xa xb => 33554432 + xd.val * 131072 + xa.val * 4096 + xb.val * 128
  | .mul _ xd xa xb => 37748736 + xd.val * 131072 + xa.val * 4096 + xb.val * 128
  | .mulh _ xd xa xb => 41943040 + xd.val * 131072 + xa.val * 4096 + xb.val * 128
  | .mulhn _ xd xa xb => 46137344 + xd.val * 131072 + xa.val * 4096 + xb.val * 128
  | .min _ xd xa xb => 50331648 + xd.val * 131072 + xa.val * 4096 + xb.val * 128
  | .max _ xd xa xb => 54525952 + xd.val * 131072 + xa.val * 4096 + xb.val * 128
  | .minn _ xd xa xb => 58720256 + xd.val * 131072 + xa.val * 4096 + xb.val * 128
  | .maxn _ xd xa xb => 62914560 + xd.val * 131072 + xa.val * 4096 + xb.val * 128
  | .cmp _ pd xa xb cond => 67108864 + pd.val * 131072 + xa.val * 4096 + xb.val * 128 + cond.val
  | .sel _ xd xa xb ps inv => 71303168 + xd.val * 131072 + xa.val * 4096 + xb.val * 128 + ps.val + inv.toNat * 8
  | .clz _ xd xa => 75497472 + xd.val * 131072 + xa.val * 4096
  | .popc _ xd xa => 79691776 + xd.val * 131072 + xa.val * 4096
  | .div _ xd xa xb => 83886080 + xd.val * 131072 + xa.val * 4096 + xb.val * 128
  | .rem _ xd xa xb => 88080384 + xd.val * 131072 + xa.val * 4096 + xb.val * 128
  | .addi _ xd xa imm => 100663296 + xd.val * 131072 + xa.val * 4096 + imm.toNat
  | .andi _ xd xa imm => 104857600 + xd.val * 131072 + xa.val * 4096 + imm.toNat
  | .ori _ xd xa imm => 109051904 + xd.val * 131072 + xa.val * 4096 + imm.toNat
  | .xori _ xd xa imm => 113246208 + xd.val * 131072 + xa.val * 4096 + imm.toNat
  | .shli _ xd xa n => 117440512 + xd.val * 131072 + xa.val * 4096 + n.val
  | .shri _ xd xa n => 121634816 + xd.val * 131072 + xa.val * 4096 + n.val
  | .srai _ xd xa n => 125829120 + xd.val * 131072 + xa.val * 4096 + n.val
  | .cmpi _ pd xa cond imm => 130023424 + pd.val * 131072 + xa.val * 4096 + cond.val * 512 + imm.toNat
  | .lui _ xd imm => 134217728 + xd.val * 131072 + imm.toNat
  | .plog _ pd pa pb table => 138412032 + pd.val * 131072 + pa.val * 4096 + pb.val * 128 + table.toNat
  | .ldsD xd xa imm => 201326592 + xd.val * 131072 + xa.val * 4096 + imm.toNat
  | .ldsW xd xa imm => 205520896 + xd.val * 131072 + xa.val * 4096 + imm.toNat
  | .ldsWn xd xa imm => 209715200 + xd.val * 131072 + xa.val * 4096 + imm.toNat
  | .ldsH xd xa imm => 213909504 + xd.val * 131072 + xa.val * 4096 + imm.toNat
  | .ldsHn xd xa imm => 218103808 + xd.val * 131072 + xa.val * 4096 + imm.toNat
  | .ldsB xd xa imm => 222298112 + xd.val * 131072 + xa.val * 4096 + imm.toNat
  | .ldsBn xd xa imm => 226492416 + xd.val * 131072 + xa.val * 4096 + imm.toNat
  | .stsD xd xa imm => 230686720 + xd.val * 131072 + xa.val * 4096 + imm.toNat
  | .stsW xd xa imm => 234881024 + xd.val * 131072 + xa.val * 4096 + imm.toNat
  | .stsH xd xa imm => 239075328 + xd.val * 131072 + xa.val * 4096 + imm.toNat
  | .stsB xd xa imm => 243269632 + xd.val * 131072 + xa.val * 4096 + imm.toNat
  | .vnop => 0
  | .vadd g fmt vd va vb rm sat => 137438953472 + g.p.val * 2048 + g.neg.toNat * 1024 + fmt.val * 17179869184 + vd.val * 536870912 + va.val * 16777216 + vb.val * 524288 + rm.val * 256 + sat.toNat * 128
  | .vsub g fmt vd va vb rm sat => 274877906944 + g.p.val * 2048 + g.neg.toNat * 1024 + fmt.val * 17179869184 + vd.val * 536870912 + va.val * 16777216 + vb.val * 524288 + rm.val * 256 + sat.toNat * 128
  | .vmul g fmt vd va vb rm sat => 412316860416 + g.p.val * 2048 + g.neg.toNat * 1024 + fmt.val * 17179869184 + vd.val * 536870912 + va.val * 16777216 + vb.val * 524288 + rm.val * 256 + sat.toNat * 128
  | .vfma g fmt vd va vb vc rm sat => 549755813888 + g.p.val * 2048 + g.neg.toNat * 1024 + fmt.val * 17179869184 + vd.val * 536870912 + va.val * 16777216 + vb.val * 524288 + vc.val * 16384 + rm.val * 256 + sat.toNat * 128
  | .vfms g fmt vd va vb vc rm sat => 687194767360 + g.p.val * 2048 + g.neg.toNat * 1024 + fmt.val * 17179869184 + vd.val * 536870912 + va.val * 16777216 + vb.val * 524288 + vc.val * 16384 + rm.val * 256 + sat.toNat * 128
  | .vfnma g fmt vd va vb vc rm sat => 824633720832 + g.p.val * 2048 + g.neg.toNat * 1024 + fmt.val * 17179869184 + vd.val * 536870912 + va.val * 16777216 + vb.val * 524288 + vc.val * 16384 + rm.val * 256 + sat.toNat * 128
  | .vmin g fmt vd va vb => 962072674304 + g.p.val * 2048 + g.neg.toNat * 1024 + fmt.val * 17179869184 + vd.val * 536870912 + va.val * 16777216 + vb.val * 524288
  | .vmax g fmt vd va vb => 1099511627776 + g.p.val * 2048 + g.neg.toNat * 1024 + fmt.val * 17179869184 + vd.val * 536870912 + va.val * 16777216 + vb.val * 524288
  | .vabs g fmt vd va => 1236950581248 + g.p.val * 2048 + g.neg.toNat * 1024 + fmt.val * 17179869184 + vd.val * 536870912 + va.val * 16777216
  | .vneg g fmt vd va => 1374389534720 + g.p.val * 2048 + g.neg.toNat * 1024 + fmt.val * 17179869184 + vd.val * 536870912 + va.val * 16777216
  | .vcmp g fmt pd va vb cond part => 1511828488192 + g.p.val * 2048 + g.neg.toNat * 1024 + fmt.val * 17179869184 + pd.val * 536870912 + va.val * 16777216 + vb.val * 524288 + cond.val + part.toNat * 8
  | .vsel g vd va vb ps inv => 1649267441664 + g.p.val * 2048 + g.neg.toNat * 1024 + vd.val * 536870912 + va.val * 16777216 + vb.val * 524288 + ps.val * 16384 + inv.toNat
  | .vdiv g fmt vd va vb rm sat => 1786706395136 + g.p.val * 2048 + g.neg.toNat * 1024 + fmt.val * 17179869184 + vd.val * 536870912 + va.val * 16777216 + vb.val * 524288 + rm.val * 256 + sat.toNat * 128
  | .vsqrt g fmt vd va rm sat => 1924145348608 + g.p.val * 2048 + g.neg.toNat * 1024 + fmt.val * 17179869184 + vd.val * 536870912 + va.val * 16777216 + rm.val * 256 + sat.toNat * 128
  | .vrcp g fmt vd va rm sat => 2061584302080 + g.p.val * 2048 + g.neg.toNat * 1024 + fmt.val * 17179869184 + vd.val * 536870912 + va.val * 16777216 + rm.val * 256 + sat.toNat * 128
  | .vrsq g fmt vd va rm sat => 2199023255552 + g.p.val * 2048 + g.neg.toNat * 1024 + fmt.val * 17179869184 + vd.val * 536870912 + va.val * 16777216 + rm.val * 256 + sat.toNat * 128
  | .vexp2 g fmt vd va rm sat => 2336462209024 + g.p.val * 2048 + g.neg.toNat * 1024 + fmt.val * 17179869184 + vd.val * 536870912 + va.val * 16777216 + rm.val * 256 + sat.toNat * 128
  | .vlog2 g fmt vd va rm sat => 2473901162496 + g.p.val * 2048 + g.neg.toNat * 1024 + fmt.val * 17179869184 + vd.val * 536870912 + va.val * 16777216 + rm.val * 256 + sat.toNat * 128
  | .vcvt g fmt vd va vc rm sat src part => 2611340115968 + g.p.val * 2048 + g.neg.toNat * 1024 + fmt.val * 17179869184 + vd.val * 536870912 + va.val * 16777216 + vc.val * 16384 + rm.val * 256 + sat.toNat * 128 + src.val + part.val * 8
  | .vscl g fmt vd va vb rm sat byReg ks => 2748779069440 + g.p.val * 2048 + g.neg.toNat * 1024 + fmt.val * 17179869184 + vd.val * 536870912 + va.val * 16777216 + vb.val * 524288 + rm.val * 256 + sat.toNat * 128 + byReg.toNat * 8 + ks.val
  | .vrint g fmt vd va rm => 2886218022912 + g.p.val * 2048 + g.neg.toNat * 1024 + fmt.val * 17179869184 + vd.val * 536870912 + va.val * 16777216 + rm.val * 256
  | .viadd g fmt vd va vb sat => 4398046511104 + g.p.val * 2048 + g.neg.toNat * 1024 + fmt.val * 17179869184 + vd.val * 536870912 + va.val * 16777216 + vb.val * 524288 + sat.toNat * 128
  | .visub g fmt vd va vb sat => 4535485464576 + g.p.val * 2048 + g.neg.toNat * 1024 + fmt.val * 17179869184 + vd.val * 536870912 + va.val * 16777216 + vb.val * 524288 + sat.toNat * 128
  | .vimul g fmt vd va vb sat => 4672924418048 + g.p.val * 2048 + g.neg.toNat * 1024 + fmt.val * 17179869184 + vd.val * 536870912 + va.val * 16777216 + vb.val * 524288 + sat.toNat * 128
  | .vand g vd va vb => 4810363371520 + g.p.val * 2048 + g.neg.toNat * 1024 + vd.val * 536870912 + va.val * 16777216 + vb.val * 524288
  | .vor g vd va vb => 4947802324992 + g.p.val * 2048 + g.neg.toNat * 1024 + vd.val * 536870912 + va.val * 16777216 + vb.val * 524288
  | .vxor g vd va vb => 5085241278464 + g.p.val * 2048 + g.neg.toNat * 1024 + vd.val * 536870912 + va.val * 16777216 + vb.val * 524288
  | .vshl g fmt vd va vb byImm n => 5222680231936 + g.p.val * 2048 + g.neg.toNat * 1024 + fmt.val * 17179869184 + vd.val * 536870912 + va.val * 16777216 + vb.val * 524288 + byImm.toNat * 64 + n.val
  | .vshr g fmt vd va vb byImm n => 5360119185408 + g.p.val * 2048 + g.neg.toNat * 1024 + fmt.val * 17179869184 + vd.val * 536870912 + va.val * 16777216 + vb.val * 524288 + byImm.toNat * 64 + n.val
  | .vsra g fmt vd va vb byImm n => 5497558138880 + g.p.val * 2048 + g.neg.toNat * 1024 + fmt.val * 17179869184 + vd.val * 536870912 + va.val * 16777216 + vb.val * 524288 + byImm.toNat * 64 + n.val
  | .vimin g fmt vd va vb => 5634997092352 + g.p.val * 2048 + g.neg.toNat * 1024 + fmt.val * 17179869184 + vd.val * 536870912 + va.val * 16777216 + vb.val * 524288
  | .vimax g fmt vd va vb => 5772436045824 + g.p.val * 2048 + g.neg.toNat * 1024 + fmt.val * 17179869184 + vd.val * 536870912 + va.val * 16777216 + vb.val * 524288
  | .vicmp g fmt pd va vb cond part => 5909874999296 + g.p.val * 2048 + g.neg.toNat * 1024 + fmt.val * 17179869184 + pd.val * 536870912 + va.val * 16777216 + vb.val * 524288 + cond.val + part.toNat * 8
  | .vmov g vd va => 6597069766656 + g.p.val * 2048 + g.neg.toNat * 1024 + vd.val * 536870912 + va.val * 16777216
  | .vbcst g vd va n => 6734508720128 + g.p.val * 2048 + g.neg.toNat * 1024 + vd.val * 536870912 + va.val * 16777216 + n.val
  | .vlane g vd va n => 6871947673600 + g.p.val * 2048 + g.neg.toNat * 1024 + vd.val * 536870912 + va.val * 16777216 + n.val
  | .vget g vd va vb => 7009386627072 + g.p.val * 2048 + g.neg.toNat * 1024 + vd.val * 536870912 + va.val * 16777216 + vb.val * 524288
  | .viota g vd base => 7146825580544 + 51539607552 + g.p.val * 2048 + g.neg.toNat * 1024 + vd.val * 536870912 + base.val
  | .vshuf g vd va vb vc => 7284264534016 + g.p.val * 2048 + g.neg.toNat * 1024 + vd.val * 536870912 + va.val * 16777216 + vb.val * 524288 + vc.val * 16384
  | .vxcl g vd va k => 7421703487488 + g.p.val * 2048 + g.neg.toNat * 1024 + vd.val * 536870912 + va.val * 16777216 + k.val
  | .vreda g fmt vd va rm sat => 7559142440960 + g.p.val * 2048 + g.neg.toNat * 1024 + fmt.val * 17179869184 + vd.val * 536870912 + va.val * 16777216 + rm.val * 256 + sat.toNat * 128
  | .vredx g fmt vd va => 7696581394432 + g.p.val * 2048 + g.neg.toNat * 1024 + fmt.val * 17179869184 + vd.val * 536870912 + va.val * 16777216
  | .vpack g fmt vd va vb part => 7834020347904 + g.p.val * 2048 + g.neg.toNat * 1024 + fmt.val * 17179869184 + vd.val * 536870912 + va.val * 16777216 + vb.val * 524288 + part.val
  | .vunpk g fmt vd va part zx => 7971459301376 + g.p.val * 2048 + g.neg.toNat * 1024 + fmt.val * 17179869184 + vd.val * 536870912 + va.val * 16777216 + part.val + zx.toNat * 4
  | .vpcnt g vd va => 8108898254848 + 51539607552 + g.p.val * 2048 + g.neg.toNat * 1024 + vd.val * 536870912 + va.val * 16777216
  | .vplog g pd pa pb table => 8246337208320 + g.p.val * 2048 + g.neg.toNat * 1024 + pd.val * 536870912 + pa.val * 16777216 + pb.val * 524288 + table.toNat
  | .mnop => 0
  | .mcall idx => 524288 + idx.val * 2048
  | .mpset n xa => 1048576 + n.val * 65536 + xa.val * 2048
  | .mfeed n => 1572864 + n.val * 131072
  | .moset n xa inc => 2097152 + n.val * 131072 + xa.val * 4096 + inc.toNat
  | .mdrain vd tile pair clr => 2621440 + vd.val * 16384 + tile.val * 64 + pair.val * 2 + clr.toNat
  | .mzero first cnt => 3145728 + first.val * 2048 + cnt.val * 8
  | .mbook idx xa => 3670016 + idx.val * 2048 + xa.val * 64
  | .knop => 0
  | .kld ks mp j => 512 + ks.val * 64 + mp.val * 8 + j.val
  | .kset ks mp j => 1024 + ks.val * 64 + mp.val * 8 + j.val
  | .kmov ks ka => 1536 + ks.val * 64 + ka.val * 8
  | .dnop => 0
  | .vldS vd xa imm => 8388608 + vd.val * 262144 + xa.val * 8192 + imm.toNat
  | .vstS vs xa imm => 16777216 + vs.val * 262144 + xa.val * 8192 + imm.toNat
  | .vldG vd xa ln arr => 25165824 + vd.val * 262144 + xa.val * 8192 + ln.val * 256 + arr.toNat
  | .vstG vs xa imm => 33554432 + vs.val * 262144 + xa.val * 8192 + imm.toNat
  | .vldb vd xa imm => 41943040 + vd.val * 262144 + xa.val * 8192 + imm.toNat
  | .vgth vd xa ln arr => 50331648 + vd.val * 262144 + xa.val * 8192 + ln.val * 256 + arr.toNat
  | .vsct vs xa vi => 58720256 + vs.val * 262144 + xa.val * 8192 + vi.val
  | .hpop vd h k => 67108864 + vd.val * 262144 + h.val * 512 + k.val
  | .hpush vs h k => 75497472 + vs.val * 262144 + h.val * 512 + k.val
  | .hadvr h n => 83886080 + h.val * 512 + n.val
  | .hadvw h n => 92274688 + h.val * 512 + n.val
  | .hset xa h lg => 100663296 + xa.val * 8192 + h.val * 512 + lg.val
  | .pref n xa imm => 109051904 + n.val * 262144 + xa.val * 8192 + imm.toNat
  | .enop => 0
  | .modp ord scope pol ac => 67108864 + ord.val * 8388608 + scope.val * 1048576 + pol.val * 262144 + ac.val * 32768
  | .cseq xa => 134217728 + xa.val * 2097152
  | .job xa q => 201326592 + xa.val * 2097152 + q.val * 131072
  | .taddv vs xa fmt imm => 536870912 + vs.val * 2097152 + xa.val * 65536 + fmt.val * 8192 + imm.toNat
  | .tmaxv vs xa fmt imm => 603979776 + vs.val * 2097152 + xa.val * 65536 + fmt.val * 8192 + imm.toNat
  | .tmulv vs xa fmt imm => 671088640 + vs.val * 2097152 + xa.val * 65536 + fmt.val * 8192 + imm.toNat
  | .texpsv vs xa fmt imm => 738197504 + vs.val * 2097152 + xa.val * 65536 + fmt.val * 8192 + imm.toNat
  | .tscal xb xa fmt n => 805306368 + xb.val * 2097152 + xa.val * 65536 + fmt.val * 8192 + n.val * 64
  | .tfill xb xa fmt n => 872415232 + xb.val * 2097152 + xa.val * 65536 + fmt.val * 8192 + n.val * 64
  | .tsumr xb xa fmt n => 939524096 + xb.val * 2097152 + xa.val * 65536 + fmt.val * 8192 + n.val * 64
  | .tmaxr xb xa fmt n => 1006632960 + xb.val * 2097152 + xa.val * 65536 + fmt.val * 8192 + n.val * 64
  | .texpn xb xa fmt n => 1073741824 + xb.val * 2097152 + xa.val * 65536 + fmt.val * 8192 + n.val * 64
  | .tfaa xd xa ln arr => 1140850688 + xd.val * 2097152 + xa.val * 65536 + ln.val * 256 + arr.toNat
  | .tfaab xd xa ln arr => 1207959552 + xd.val * 2097152 + xa.val * 65536 + ln.val * 256 + arr.toNat
  | .tincw xd xa ln arr => 1275068416 + xd.val * 2097152 + xa.val * 65536 + ln.val * 256 + arr.toNat
  | .tdecw xd xa ln arr => 1342177280 + xd.val * 2097152 + xa.val * 65536 + ln.val * 256 + arr.toNat
  | .tcas xd xa ln arr => 1409286144 + xd.val * 2097152 + xa.val * 65536 + ln.val * 256 + arr.toNat
  | .txchg xd xa ln arr => 1476395008 + xd.val * 2097152 + xa.val * 65536 + ln.val * 256 + arr.toNat
  | .tfence remote bsel imm => 1543503872 + remote.toNat * 33554432 + bsel.val * 65536 + imm.toNat
  | .sku vs xa op sen sem => 2147483648 + vs.val * 2097152 + xa.val * 65536 + op.val * 16384 + sen.toNat * 8192 + sem.val * 512
  | .skr xb xa xc sen sem => 2214592512 + xb.val * 2097152 + xa.val * 65536 + xc.val * 2048 + sen.toNat * 1024 + sem.val * 64
  | .wldRel xa xb lfmt mode off => 2281701376 + xa.val * 2097152 + xb.val * 65536 + lfmt.val * 8192 + mode.val * 2048 + off.toNat
  | .wldAbs xa xb lfmt mode xq => 2281701376 + 1024 + xa.val * 2097152 + xb.val * 65536 + lfmt.val * 8192 + mode.val * 2048 + xq.val
  | .stepc xa xb xc sen sem => 2348810240 + xa.val * 2097152 + xb.val * 65536 + xc.val * 2048 + sen.toNat * 1024 + sem.val * 64
  | .lwm xa xb id drop => 2415919104 + xa.val * 2097152 + xb.val * 65536 + id.val * 1024 + drop.toNat * 512
  | .stepq xa xb sen sem => 2483027968 + xa.val * 2097152 + xb.val * 65536 + sen.toNat * 32768 + sem.val * 2048
  | .coatw xa xb xc sen sem => 2550136832 + xa.val * 2097152 + xb.val * 65536 + xc.val * 2048 + sen.toNat * 1024 + sem.val * 64
  | .ttload xa xb xc sen sem => 2684354560 + xa.val * 2097152 + xb.val * 65536 + xc.val * 2048 + sen.toNat * 1024 + sem.val * 64
  | .ttgo xa xb xc sen sem => 2751463424 + xa.val * 2097152 + xb.val * 65536 + xc.val * 2048 + sen.toNat * 1024 + sem.val * 64
  | .ttstop xb xc sen sem => 2818572288 + xb.val * 65536 + xc.val * 2048 + sen.toNat * 1024 + sem.val * 64
  | .chpwr xb xc sen sem => 2885681152 + xb.val * 65536 + xc.val * 2048 + sen.toNat * 1024 + sem.val * 64
  | .send xa xb xc sen sem => 3221225472 + xa.val * 2097152 + xb.val * 65536 + xc.val * 2048 + sen.toNat * 1024 + sem.val * 64
  | .bankmode bank mode sen sem => 3288334336 + bank.val * 2097152 + mode.val * 524288 + sen.toNat * 262144 + sem.val * 16384
  | .csrw g csr xa => 104857600 + g.p.val * 524288 + g.neg.toNat * 262144 + csr.toNat * 256 + xa.val * 8
  | .csrwMemdef g xa => 104861696 + g.p.val * 524288 + g.neg.toNat * 262144 + xa.val * 8
  | .csrwClm g xa => 104861952 + g.p.val * 524288 + g.neg.toNat * 262144 + xa.val * 8
  | .csrwFramelen g xa => 104862464 + g.p.val * 524288 + g.neg.toNat * 262144 + xa.val * 8
  | .csrwDetmode g xa => 104886272 + g.p.val * 524288 + g.neg.toNat * 262144 + xa.val * 8
  | .csrwStepref g xa => 104862208 + g.p.val * 524288 + g.neg.toNat * 262144 + xa.val * 8
  | .csrwTrappc g xa => 104858368 + g.p.val * 524288 + g.neg.toNat * 262144 + xa.val * 8
  | .csrwHarm g k xa => 104869888 + g.p.val * 524288 + g.neg.toNat * 262144 + k.val * 256 + xa.val * 8
  | .csrwLoopCount g isIdx lvl xa => 104865792 + g.p.val * 524288 + g.neg.toNat * 262144 + isIdx.toNat * 2048 + lvl.val * 256 + xa.val * 8
  | .csrwMslot g n xa => 104873984 + g.p.val * 524288 + g.neg.toNat * 262144 + n.val * 256 + xa.val * 8
  | .csrwXlroot g xa => 104890368 + g.p.val * 524288 + g.neg.toNat * 262144 + xa.val * 8
  | .bundleIssue _ => 0
  | .blockClear _ _ => 0
  | .runLimit _ => 0
  | .resultLanding _ _ => 0
  | .landing _ _ => 0
  | .lateDataReturn _ => 0
  | .bundleRetire _ _ => 0
  | .stencilWord _ _ => 0
  | .contextSaved _ _ => 0
  | .killDrainComplete _ _ => 0
  | .endDrainComplete _ _ => 0
  | .messageDelivery _ _ => 0
  | .dispatchRound _ => 0
  | .groupStart _ => 0
  | .bankHandover _ _ => 0
  | .launchDecision _ => 0
  | .launchComplete _ => 0
  | .matrixSlotTurn => 0
  | .matrixChunk _ => 0
  | .matrixItemComplete _ => 0
  | .cardStart _ => 0
  | .copyComplete _ _ _ => 0
  | .cardComplete _ _ => 0
  | .trowelCommandStart _ _ => 0
  | .trowelCommandPerform _ _ => 0
  | .barrierArrival _ _ => 0
  | .bankAccess _ _ => 0
  | .bankmodeSwitchComplete _ _ => 0
  | .skimAdmission _ _ => 0
  | .coatStart _ _ => 0
  | .skimRowVisit _ _ => 0
  | .groupVisit _ _ => 0
  | .coatComplete _ _ => 0
  | .commitFail _ => 0
  | .waitTimeout _ _ => 0
  | .regionRemoved _ => 0
  | .timetableEntry _ => 0
  | .dramAccess _ _ => 0
  | .spareCopyComplete _ _ _ => 0
  | .nbVisit _ => 0
  | .timetableStage _ => 0
  | .tableReplacement _ => 0
  | .defaultTableSwitch _ => 0
  | .channelPowerDown _ => 0
  | .channelWake _ => 0
  | .alignmentFlit _ => 0
  | .sendDelivery _ => 0
  | .sendTimeout _ => 0
  | .hashBoundary => 0
  | .traceSample _ => 0
  | .hashTreeFormed => 0
  | .checkpointWriteComplete _ => 0
  | .preemptRequest _ _ _ => 0
  | .contextRestore _ _ _ _ => 0
  | .killRequest _ _ => 0
  | .hostAtomic _ _ _ _ _ _ => 0
  | .hostRead _ _ _ => 0
  | .hostWrite _ _ _ => 0
  | .linkEnable _ => 0
  | .lanesTrained _ => 0
  | .trainingFail _ => 0
  | .negotiationDone _ _ => 0
  | .linkDegrade _ _ => 0
  | .linkRestore _ => 0
  | .linkDisable _ => 0
  | .flitReceive _ _ => 0
  | .ueConnectionSetup _ _ _ => 0
  | .uePacket _ _ _ => 0
  | .kload _ _ => 0
  | .kretire _ _ => 0
  | .hostLaunch _ _ => 0
  | .hostCancel _ _ => 0
  | .kill _ _ => 0
  | .qpause _ => 0
  | .qresume _ => 0
  | .qdrain _ => 0
  | .qreset _ => 0
  | .qstat _ => 0
  | .pmap _ _ _ _ => 0
  | .ppin _ _ _ => 0
  | .punpin _ _ _ => 0
  | .punmap _ _ _ => 0
  | .pstat _ _ => 0
  | .rcreate _ _ _ _ _ _ => 0
  | .rdestroy _ _ => 0
  | .rstat _ _ => 0
  | .cpmode _ _ _ => 0
  | .qdet _ _ => 0
  | .hashcfg _ _ => 0
  | .hashrd _ _ _ _ => 0
  | .trcfg _ _ _ _ _ => 0
  | .dbg _ _ _ _ => 0
  | .hstat _ => 0
  | .cksave _ _ _ => 0
  | .ckrestore _ _ => 0
  | .ckdrop _ _ => 0
  | .fwload _ _ => 0
  | .attest _ _ => 0
  | .plim _ _ => 0
  | .moduleReset => 0
  | .dwellEnd _ => 0
  | .trainComplete => 0
  | .rampComplete => 0
  | .marginLow _ _ => 0
  | .dieOvertemp _ => 0
  | .powerLoss => 0
  | .droopFire _ _ => 0
  | .scrub _ _ => 0
  | .firmwareReload _ _ => 0
  | .channelTrainingFails => 0
  | .marginRestored _ _ => 0
  | .ageingIndicatorLow _ _ _ => 0
  | .timingSourceDesignation _ _ => 0

/-- R83. The header of a full bundle. -/
structure Header where
  crit : Bool
  arr : Nat
  bar : Fin 16
  wen : Bool
  wsem : Fin 16
  wcnt : Nat
  patch : Nat
  stamp : Nat
  deriving DecidableEq, Repr

/-- R83. The fields of a bundle's header. -/
def decodeHeader (b : Nat) : Header :=
  { crit := bits b 254 254 == 1, arr := bits b 253 247, bar := fin16 (bits b 246 243), wen := bits b 242 242 == 1,
    wsem := fin16 (bits b 241 238), wcnt := bits b 237 235, patch := bits b 234 232, stamp := bits b 231 224 }

/-- R83. The word of a slot of a bundle. -/
def slotWord (b : Nat) (s : Slot) : Nat := bits b (s.low + s.width - 1) s.low

/-- R83. A decoded bundle: its header and the instruction of each slot. -/
structure Bundle where
  hdr : Header
  c : Instr
  a : Instr
  b : Instr
  v : Instr
  m : Instr
  k : Instr
  d : Instr
  e : Instr
  deriving DecidableEq, Repr

/-- R94. What ILLEGAL_BUNDLE reports: the reason, the slot code (0 for a line or header fault) and the slot's opcode field. -/
structure Illegal where
  reason : Reason
  slot : Nat
  opcode : Nat
  deriving DecidableEq, Repr

/-- R94. An illegal slot of bundle b. -/
def illegalSlot (b : Nat) (s : Slot) (r : Reason) : Illegal := ⟨r, s.code, s.opcode (slotWord b s)⟩

/-- R95. A slot of bundle b decoded, its faults naming it. -/
def decodeIn (b : Nat) (s : Slot) : Except Illegal Instr :=
  match decodeSlot s (slotWord b s) with
  | .ok i => .ok i
  | .error r => .error (illegalSlot b s r)

/-- R83, R245. The header faults: a wait field that is not enabled but set, and a BAR without an arrival. -/
def headerFault (h : Header) : Bool :=
  (!h.wen && (h.wsem.val ≠ 0 || h.wcnt ≠ 0)) || (h.arr = 0 && h.bar.val ≠ 0)

/-- R93. The first slot that a critical bundle may not hold. -/
def critFault (b : Nat) : Option Slot :=
  if bits b 254 254 = 0 then none
  else [Slot.m, .k, .d, .e].find? (fun s => slotWord b s ≠ 0)

/-- R90. The E slot holds a MODP and the D slot no memory operation. -/
def modpMisplaced (b : Nat) : Bool :=
  bits (slotWord b .e) 31 26 == 1 && !isDMemory (slotWord b .d)

/-- R95, steps 2 to 5. The header, CRIT, slot and cross-slot checks of a bundle, in order. -/
def decodeBundle (b : Nat) : Except Illegal Bundle :=
  if headerFault (decodeHeader b) then .error ⟨.resField, 0, 0⟩
  else match critFault b with
  | some s => .error (illegalSlot b s .critSlot)
  | none => do
    let c ← decodeIn b .c
    let a ← decodeIn b .a
    let bb ← decodeIn b .b
    let v ← decodeIn b .v
    let m ← decodeIn b .m
    let k ← decodeIn b .k
    let d ← decodeIn b .d
    let e ← decodeIn b .e
    if modpMisplaced b then .error (illegalSlot b .e .slotKind)
    else .ok { hdr := decodeHeader b, c := c, a := a, b := bb, v := v, m := m, k := k, d := d, e := e }

/-- R80, R81. What a bundle address selects in its code line: the line's bundle, or one word of a stencil line. -/
inductive LineWord
  | full (b : Nat)
  | word (i : Instr)
  deriving DecidableEq, Repr

/-- R80. The number of words of a stencil line. -/
def stencilCount (line : Nat) : Nat := bits line 254 251

/-- R80, R81. The word of a line at a word index, with the line faults BADLINE and PATCHUSE. -/
def decodeLine (line idx : Nat) : Except Reason LineWord :=
  if bits line 255 255 = 1 then
    if idx ≠ 0 then .error .badLine
    else if bits line 234 232 ≠ 0 then .error .patchUse
    else .ok (.full line)
  else
    let n := stencilCount line
    if n = 0 ∨ bits line 250 240 ≠ 0 ∨ line % 2 ^ 240 / 2 ^ (16 * n) ≠ 0 ∨ n ≤ idx then .error .badLine
    else
      let w := bits line (16 * idx + 15) (16 * idx)
      .ok (.word (.stencilWord (fin512 (bits w 15 7)) (BitVec.ofNat 7 (bits w 6 0))))

/-- R82. The slot a PATCH code selects. -/
def patchSlot : Nat → Option Slot
  | 1 => some .c | 2 => some .a | 3 => some .b | 4 => some .v | 5 => some .m | 6 => some .d | 7 => some .e | _ => none

/-- R82. The stored bundle with its patch applied, or the line fault of the stencil word. -/
def patchBundle (stored patch : Nat) : Except Reason Nat :=
  if bits stored 255 255 = 0 then .error .notFull
  else match patchSlot (bits stored 234 232) with
  | none => if patch ≠ 0 then .error .patchUse else .ok stored
  | some s => .ok (setBits stored s.low 7 patch)

/-- R83. A full bundle that holds one slot word: L = 1, STAMP = 255. A MODP needs a D-slot memory operation beside it (R90):
its companion is `PREF [x0], 1`, which reads and writes no register and raises no fault (R152). -/
def bundleOfSlot (s : Slot) (w : Nat) : Nat :=
  let companion := if s = .e ∧ bits w 31 26 = 1 then 0x0D * 2 ^ 23 * 2 ^ 32 else 0
  2 ^ 255 + 255 * 2 ^ 224 + companion + (w % 2 ^ s.width) * 2 ^ s.low

/-- The slot whose words are nbits long, among the lengths that name one slot. -/
def slotOfBits : Nat → Option Slot
  | 12 => some .k | 24 => some .m | 32 => some .e | 44 => some .v | _ => none

/-- The instruction of an opcode-table word, numbered as the table numbers its bits. The slot words are laid out in the
little-endian bytes of a line (R7, R83); a 16-bit word is a word of a stencil line (R80).
(Assumption log 4: DESIGN CHOICE.) -/
def decodeTableWord (nbits w : Nat) : Option Instr :=
  match slotOfBits nbits with
  | some s => match decodeBundle (bundleOfSlot s w) with
    | .ok b => some (match s with | .k => b.k | .m => b.m | .v => b.v | _ => b.e)
    | .error _ => none
  | none =>
    if nbits = 16 then
      match decodeLine (1 * 2 ^ 251 + w % 65536) 0 with
      | .ok (.word i) => some i
      | _ => none
    else none

end Sys2Proof
end

