-- ==== Sys2Proof/Machine/Maps.lean ====
section
/-! DEFINITION. Finite maps as sorted lists, and memory as one canonical list of cells (strictly rising addresses, no cell equal
to what an unlisted address reads as). -/
namespace Sys2Proof.Machine

/-- A map from numbers, as a list of pairs with strictly rising keys.
(Assumption log 90: DESIGN CHOICE.) -/
abbrev AMap (α : Type) := List (Nat × α)

/-- The entry at k. -/
def AMap.get? {α : Type} : AMap α → Nat → Option α
  | [], _ => none
  | (j, a) :: t, k => if j = k then some a else if k < j then none else AMap.get? t k

/-- The entry at k, or d. -/
def AMap.getD {α : Type} (m : AMap α) (k : Nat) (d : α) : α := (AMap.get? m k).getD d

/-- Sets the entry at k.
(Assumption log 90: DESIGN CHOICE.) -/
def AMap.set {α : Type} : AMap α → Nat → α → AMap α
  | [], k, a => [(k, a)]
  | (j, b) :: t, k, a => if j = k then (k, a) :: t else if k < j then (k, a) :: (j, b) :: t else (j, b) :: AMap.set t k a

/-- Removes the entry at k.
(Assumption log 90: DESIGN CHOICE.) -/
def AMap.erase {α : Type} : AMap α → Nat → AMap α
  | [], _ => []
  | (j, b) :: t, k => if j = k then t else if k < j then (j, b) :: t else (j, b) :: AMap.erase t k

/-- Keys rise strictly, each above lo. -/
def AMap.sortedFrom {α : Type} : Nat → AMap α → Bool
  | _, [] => true
  | lo, (j, _) :: t => decide (lo ≤ j) && AMap.sortedFrom (j + 1) t

/-- Memory: cells with strictly rising addresses. -/
abbrev Memory := List Host.Cell

/-- What an address that memory does not list reads as (assumption log 1: DESIGN CHOICE).
(Assumption log 1: DESIGN CHOICE.) -/
def defaultByte : Byte := 0

/-- The canonical form from address lo on: addresses rise strictly and no cell holds the default byte. -/
def Memory.wfFrom : Nat → Memory → Bool
  | _, [] => true
  | lo, (a, b) :: t => decide (lo ≤ a) && decide (b ≠ defaultByte) && Memory.wfFrom (a + 1) t

/-- The canonical form of memory. -/
def Memory.wf (m : Memory) : Bool := Memory.wfFrom 0 m

/-- R7. The byte at an address.
(Assumption log 1: DESIGN CHOICE.) -/
def Memory.get : Memory → Nat → Byte
  | [], _ => defaultByte
  | (j, b) :: t, a => if j = a then b else if a < j then defaultByte else Memory.get t a

/-- Writes one byte, keeping the canonical form.
(Assumption log 1: DESIGN CHOICE.) -/
def Memory.set : Memory → Nat → Byte → Memory
  | [], a, v => if v = defaultByte then [] else [(a, v)]
  | (j, b) :: t, a, v =>
    if j = a then (if v = defaultByte then t else (a, v) :: t)
    else if a < j then (if v = defaultByte then (j, b) :: t else (a, v) :: (j, b) :: t)
    else (j, b) :: Memory.set t a v

/-- R11. The n bytes at an address. -/
def Memory.read (m : Memory) (a n : Nat) : List Byte := (List.range n).map fun i => Memory.get m (a + i)

/-- R11. Writes bytes at an address upward. -/
def Memory.write (m : Memory) (a : Nat) : List Byte → Memory
  | [] => m
  | b :: t => Memory.write (Memory.set m a b) (a + 1) t

/-- R7. The n-byte little-endian value at an address. -/
def Memory.value (m : Memory) (a n : Nat) : Nat := leValue (Memory.read m a n)

/-- R7. Writes the n-byte little-endian value x at an address. -/
def Memory.store (m : Memory) (a n x : Nat) : Memory := Memory.write m a (leBytes n x)

end Sys2Proof.Machine
end

