-- ==== Sys2Proof/Machine/CoreTypes.lean ====
section
/-! DEFINITION. The state of a context and of the parts of a core that it works with: registers, pending results, issued bundles
and their withheld effects, bank queues (spec/02, 05 to 08, 11, 15, 16). Plain data throughout. -/
namespace Sys2Proof.Machine

/-- R112. A vector register: lane L of cluster c is element 16c + L. -/
abbrev VReg := Vector Word32 128
/-- R112. A vector predicate: one bit a lane. -/
abbrev VPred := Vector Bool 128
/-- R58. A scale register. -/
abbrev KReg := Vector Byte 128

/-- R23, R194. The states of a context. -/
inductive CtxStatus
  | free | ready | running | blocked | dormant | trapped | saved | killed
  deriving DecidableEq, Repr

/-- R24. The kinds of a loop level. -/
inductive LevelKind | t | c | d
  deriving DecidableEq, Repr

/-- R148. A hawk; cap = 0 until an HSET. -/
structure Hawk where
  base : Nat
  cap : Nat
  rd : Nat
  wr : Nat
  filled : Nat
  deriving DecidableEq, Repr

/-- R222. The loop state of a T level. -/
structure LoopLevel where
  active : Bool
  first : Nat
  last : Nat
  deriving DecidableEq, Repr

/-- R209. A control register with a line address and an enable bit (TRAPVEC, HARMk), as the bits it reads as. -/
abbrev LineReg := Word64

/-- R163. A matrix operand offset register. -/
structure MatOff where
  off : BitVec 22
  inc : BitVec 12
  deriving DecidableEq, Repr

/-- R23, R208. The registers of a context that an unretired bundle may have changed, and that go back when it traps (R197). `startAt` is the
SFC value before which the next bundle does not issue (R41, R239), `resumePos` the frame position at which it issues after a restore (R44). -/
structure Regs where
  pc : Nat
  x : Vector Word64 32
  p : Vector Bool 8
  v : Vector VReg 32
  vp : Vector VPred 8
  mp : Vector Word64 8
  mo : Vector MatOff 4
  ks : Vector KReg 8
  sten : AMap (BitVec 256)
  loops : Vector LoopLevel 6
  lc : Vector Word64 6
  li : Vector Word64 6
  barAddr : Vector (Option Nat) 16
  trapvec : LineReg
  trapcause : Word64
  trappc : Word64
  trapslot : Word64
  trapinfo : Word64
  trapnpc : Word64
  hnd : Bool
  msginfo : Word64
  memdef : BitVec 11
  clm : BitVec 8
  stepref : BitVec 48
  framelen : BitVec 8
  detmode : Bool
  harm : Vector LineReg 8
  origin : Word64
  prevStamp : Option Nat
  startAt : Option Nat
  resumePos : Option Nat
  deriving DecidableEq, Repr

/-- R243, R244. The part of a barrier-table entry that reports change: W, PH and the arrivals outstanding. -/
structure BarState where
  w : Bool
  ph : Option Bool
  out : Nat
  deriving DecidableEq, Repr

/-- R200. A trap: its cause, TRAPSLOT, TRAPINFO, and its place in R200's order of causes.
(Assumption log 10: DEDUCED.) -/
structure Trap where
  cause : Nat
  slot : Nat
  info : Nat
  rank : Nat
  deriving DecidableEq, Repr

/-- R32. A register result: the destination, the lanes written, and the value. -/
inductive Dest
  | x (r : Fin 32) (v : Word64)
  | p (r : Fin 8) (v : Bool)
  | v (r : Fin 32) (mask : VPred) (v : VReg)
  | vp (r : Fin 8) (mask : VPred) (v : VPred)
  | mp (r : Fin 8) (v : Word64)
  | mo (r : Fin 4) (v : MatOff)
  | ks (r : Fin 8) (v : KReg)
  | stens (first : Nat) (l : List (BitVec 256))
  deriving DecidableEq, Repr

/-- R107, R144, R266. What the bytes of a load become: a scalar of n bytes, the lanes of a vector (4 bytes a lane),
the old word of an atomic with its failure bit beside it, a scale register, or n stencil entries from `first` on (R223), entry i from bytes
32i on. -/
inductive LoadDest
  | scalar (r : Fin 32) (n : Nat) (signed : Bool)
  | vector (r : Fin 32) (mask : VPred)
  | atomic (r : Fin 32)
  | scale (r : Fin 8)
  | stencil (first n : Nat)
  deriving DecidableEq, Repr

/-- Where a piece of an access lies: the own scratchpad, another core's bank (or the own core's, by a window address), or a physical
address. -/
inductive Where
  | spad (a : Nat)
  | window (core a : Nat)
  | phys (pa : Nat)
  deriving DecidableEq, Repr

/-- A part of a load: where its bytes go in the result, how many, the effective address they have, where they lie (none where no memory
access of the load brings them), the bytes once they are bound (R347), and the SFC value at which they are back; its alias class; the bundle
that retires before the value is bound (R350 to R354), or for bytes of a later store, which race with the load's own (R141), that store's
bundle. -/
structure Part where
  off : Nat
  len : Nat
  ea : Nat
  loc : Option Where
  data : Option (List Byte)
  readyAt : Option Nat
  ac : Nat
  after : Option Nat
  deriving DecidableEq, Repr

/-- R32 to R36. What a pending result waits for. -/
inductive PendKind
  | value (d : Dest)
  | load (d : LoadDest) (parts : List Part)
  | marker
  deriving DecidableEq, Repr

/-- R32 to R34, R38. A pending register result. -/
structure Pend where
  due : Nat
  bid : Nat
  slot : Slot
  kind : PendKind
  ln : Option (Fin 32)
  arrive : Option (Fin 16)
  fault : Option Trap
  deriving DecidableEq, Repr

/-- R245, R293. Whom an engine tells of a completion: the context, the semaphore to raise, the barrier entry to arrive on. -/
structure Notify where
  core : Nat
  ctx : Nat
  sem : Option (Fin 16)
  arrive : Option (Fin 16)
  deriving DecidableEq, Repr

/-- R261 to R266. What a trowel command does; words are little-endian at bank-local byte addresses. -/
inductive TrowelOp
  | store (op : Nat) (fmt : Nat) (clusters : BitVec 8) (v : VReg)
  | range (op : Nat) (fmt : Nat) (n : Nat) (xb : Word64)
  | atomic (op : Nat) (v u : Word32)
  | hostAtomic (op : HostAtomOp) (wide : Bool) (a b : Nat) (tag : Nat)
  deriving DecidableEq, Repr

/-- R258. What waits at a bank: bytes to store, bits to set in an 8-byte word (R186), bytes to load for a pending result, a trowel command,
or a barrier arrival. -/
inductive BankWork
  | store (bytes : List (Nat × Byte))
  | orWord (addr mask : Nat)
  | load (bid : Nat) (slot : Slot) (off addr len : Nat)
  | trowel (op : TrowelOp) (addr : Nat) (bid : Nat) (arrive : Option (Fin 16))
  | arrival (addr : Nat) (entry : Fin 16)
  deriving DecidableEq, Repr

/-- R258, R259. An entry of a bank's order: the work, the party (core and context) it comes from, the core cycle of issue for the
two-cycle rule of R111, the earliest SFC value and core cycle at which it may be performed, for a started trowel command the SFC value of
its last cycle, the SFC values at which it was sent and at which it came from another core, whether a window address named the bank, and whether
its die link carried no traffic then (R335). -/
structure BankItem where
  core : Nat
  ctx : Nat
  work : BankWork
  issued : Nat
  notBefore : Nat
  cycle : Nat
  ends : Option Nat
  sent : Nat := 0
  came : Nat := 0
  far : Bool := false
  cut : Bool := false
  deriving DecidableEq, Repr

/-- R317, R385. An ordinary access waiting at a pseudo-channel or on a link, sent at an SFC value and there from another: a read for a pending
load or a prefetch, or a write, with the words of it that have an uncorrectable error (R366). -/
structure DramReq where
  core : Nat
  ctx : Nat
  bid : Nat
  slot : Slot
  off : Nat
  addr : Nat
  len : Nat
  bytes : Option (List Byte)
  policy : Nat
  prefetch : Bool
  sent : Nat := 0
  due : Nat := 0
  bad : List Nat := []
  deriving DecidableEq, Repr

/-- R259, R347. An access of an issued bundle that has not been sent yet: a piece of a load (slot, place in the result, length, policy,
the core cycle of issue, whether it reads what a store of the cycle before has yet to overwrite (R111), where it lies), or an atomic on its
way to a bank of a core. -/
inductive HeldWork
  | load (slot : Slot) (off len policy issued : Nat) (old : Bool) (loc : Where)
  | atomic (core bank : Nat) (item : BankItem)
  deriving DecidableEq, Repr

/-- R251, R259, R268, R276, R347 to R354. An access not sent yet: its bundle, the bundle that retires before it, and the SFC value before
which its address is not translated. -/
structure Held where
  bid : Nat
  after : Option Nat
  notBefore : Nat
  work : HeldWork
  deriving DecidableEq, Repr

/-- R256. The modes of a bank. -/
inductive BankMode | scratch | fifo | toCache | cache | fromCache
  deriving DecidableEq, Repr

/-- R356, R357. A release: its core and context, its scope, its entry in the core's table, the SFC value at which it was made, every sector
whose writes it covers, and whether it is one that a value of its word shows (a release store, a completion word, an arrival) and no REL. -/
structure Release where
  core : Nat
  ctx : Nat
  scope : Nat
  entry : Nat
  time : Nat
  sectors : List Nat
  shown : Bool := false
  deriving DecidableEq, Repr

/-- R344. A message in a FIFO bank: class, bytes, place, the slots it counts for (with those skipped before it), and the context that has
taken it, if one has (4: released; 5: being written); the release that its SEND made (R343, R356). -/
structure FifoMsg where
  cls : Nat
  len : Nat
  addr : Nat
  slots : Nat
  taker : Option Nat
  rel : Option Release := none
  deriving DecidableEq, Repr

/-- R216, R255 to R257. A bank: owner and pledge (task numbers), mode, the mode asked for, the acceptance number at which the switch was
asked for, whom to tell, what has reached it in order, and its FIFO. -/
structure Bank where
  owner : Option Nat
  pledge : Option Nat
  releasing : Bool
  passing : Bool := false
  mode : BankMode
  nextMode : BankMode
  since : Nat
  notify : Option Notify
  queue : List BankItem
  fifo : List FifoMsg
  fifoNext : Nat
  deriving DecidableEq, Repr

/-- R136. An 8-byte word of a first-level block: its address div 8, its bytes, which of them are held, which are newer than below. -/
structure CacheWord where
  addr : Nat
  data : Vector Byte 8
  held : Vector Bool 8
  dirty : Vector Bool 8
  deriving DecidableEq, Repr

/-- R136. A first-level block. -/
structure CacheBlock where
  words : List CacheWord
  stream : Bool
  deriving DecidableEq, Repr

/-- R252, R357. An entry of the release table: its number, the variable's physical address, the scope, and the sectors whose
writes it covers, which the core writes back when the entry gives way to a newer one. -/
structure RelEntry where
  id : Nat
  var : Nat
  scope : Nat
  sectors : List Nat
  deriving DecidableEq, Repr

/-- R139, R140. The modifiers of an access. -/
structure Modifiers where
  ord : Nat
  scope : Nat
  policy : Nat
  ac : Nat
  deriving DecidableEq, Repr

end Sys2Proof.Machine
end

