-- ==== Sys2Proof/Machine/PartTypes.lean ====
section
/-! DEFINITION. The state of the parts outside a context: matrix engine, copy sequencer, kernels and launches, regions and slices,
channels, links, reliability and checkpoint state (spec/09, 10, 12 to 14, 17 to 21, 23, 24). Plain data throughout. -/
namespace Sys2Proof.Machine

/-- R161. A queued routine's snapshot: the descriptor, the registers it names, and the two scale registers. -/
structure Routine where
  desc : BitVec 256
  a : Word64
  b : Word64
  str : Word64
  acc : Word64
  xa : Word64
  xb : Word64
  sa : KReg
  sb : KReg
  deriving DecidableEq, Repr

/-- R162. What a matrix-queue entry is: a routine, one MFEED step (for the routine of bundle `rbid`, at offset off), or an MZERO. -/
inductive MatWork
  | routine (r : Routine)
  | feed (rbid : Nat) (off : BitVec 22)
  | zero (first cnt : Nat)
  deriving DecidableEq, Repr

/-- R162, R175. An entry of a context's matrix queue. `eligible` from the cycle after its bundle retired, at SFC value `since`; chunks done;
the segments of rows and of columns that its last chunk read, where the operand is E2M1X (R59, R173: each is read once); the cycles
charged to it as computing, weights, activations and drain. -/
structure MatItem where
  ctx : Nat
  bid : Nat
  order : Nat
  addr : Nat
  work : MatWork
  eligible : Bool
  since : Nat := 0
  chunk : Nat
  halves : List (List Byte) × List (List Byte) := ([], [])
  charge : Vector Nat 4
  notify : Notify
  deriving DecidableEq, Repr

/-- R175. The classes of an engine cycle. -/
inductive MatClass | computing | weights | activations | drain | idle
  deriving DecidableEq, Repr

/-- R170, R171, R175. What the engine runs: the item (by issue order), the SFC value of the last read cycle and of the last cycle of
the present chunk or item, the class of the cycles after the reads, and the SFC value of the last cycle in which an MDRAIN held the
accumulator port that the chunk needed. -/
structure MatRun where
  order : Nat
  reads : Nat
  ends : Nat
  cls : MatClass
  held : Option Nat := none
  deriving DecidableEq, Repr

/-- R171, R173. An item whose work has ended and whose completion falls at SFC `at`.
(Assumption log 32: DEDUCED.) -/
structure MatDone where
  item : MatItem
  due : Nat
  deriving DecidableEq, Repr

/-- R176. A level of a card. -/
structure CardLevel where
  count : Nat
  sstr : Int
  dstr : Int
  deriving DecidableEq, Repr

/-- R176. A footprint: its first byte, its length and whether it is written. -/
structure Footprint where
  base : Nat
  len : Nat
  w : Bool
  deriving DecidableEq, Repr

/-- R184. How far a copy has come: the requests it has out (the number of the piece, source pieces first, and the SFC value from which it may be
served), the bytes of the pieces read, the pieces written, and the status of a piece that could not be read. -/
structure CopyRun where
  reqs : List (Nat × Nat) := []
  data : AMap (List Byte) := []
  wrote : List Nat := []
  bad : Option Nat := none
  deriving DecidableEq, Repr

/-- R183 to R188. An accepted card. `id` is its number in the module's acceptance order, `since` the SFC value of its acceptance, `deps` the jobs
and launches it waits for, `drawn` and `fromDie` the footprint entries it holds of its launch's reservation and of the die's table, `copies`
the copies in flight with the SFC value from which each may finish, `runs` how far they have come, `barred` those of them that found a bank not owned, `fault` the lowest
faulting copy with its status and detail, `failed` every faulting copy, `raw` the card's bytes as snapshotted.
(Assumption log 41: DEDUCED.) -/
structure Card where
  id : Nat
  ctx : Nat
  addr : Nat
  queue : Option Nat
  raw : List Byte
  deps : List Nat
  failedDep : Option Nat
  drawn : Nat
  fromDie : Nat := 0
  since : Nat := 0
  failed : List Nat := []
  notify : Notify
  started : Bool
  next : Nat
  copies : List (Nat × Nat)
  barred : List Nat
  okCount : Nat
  fault : Option (Nat × Nat × Nat)
  stopped : Bool
  silent : Bool
  chunkDone : Nat
  runs : AMap CopyRun := []
  deriving DecidableEq, Repr

/-- R211. A loop-table level of a kernel. -/
structure KLevel where
  kind : LevelKind
  src : Bool
  argw : Nat
  count : Nat
  deriving DecidableEq, Repr

/-- R213. The states of a kernel. -/
inductive KernelState | loaded | retiring | retired
  deriving DecidableEq, Repr

/-- R210. A kernel: its state, entry line, code lines, stencil entries, pattern-book entries, levels, claim, reservation and data
records, with the image it came from (for ATTEST, R377). -/
structure Kernel where
  state : KernelState
  entry : Nat
  code : List (BitVec 256)
  sten : AMap (BitVec 256)
  book : AMap (BitVec 256)
  levels : List KLevel
  claim : Nat
  res : Nat
  data : List (Nat × List Byte)
  image : List Byte
  deriving DecidableEq, Repr

/-- R238. The states of a group. -/
inductive GroupState | none | forming | bound | running | draining | released
  deriving DecidableEq, Repr

/-- R226 to R239. A launch in flight: its queue and order, kernel, descriptor, trip counts, tasks dispatched, ended and killed,
the reason it is cancelled, its parent and pool reservation, footprints and edges, its reserved entries by die, and its group. -/
structure Launch where
  handle : Nat
  die : Nat
  queue : Nat
  seq : Nat
  kernel : Nat
  desc : List Byte
  counts : List Nat
  tasks : Nat
  dispatched : Nat
  ended : Nat
  gone : Nat
  cancelled : Option Nat
  parent : Option Nat
  pool : Nat
  freeReserve : Nat
  footprints : List Footprint
  fpOn : Bool
  res : Nat
  resFree : AMap Nat
  deps : List Nat
  failedDep : Bool
  deterministic : Bool
  priv : Bool
  lockstep : Bool
  cwaddr : Nat
  group : GroupState
  start : Option Nat
  lastPlaced : Nat
  killTags : List Nat
  deriving DecidableEq, Repr

/-- R225. The states of a launch queue. -/
inductive QueueState | idle | active | paused | draining | faulted
  deriving DecidableEq, Repr

/-- R225, R367. A launch queue, and whether it is configured for deterministic mode. -/
structure LaunchQueue where
  state : QueueState
  det : Bool
  deriving DecidableEq, Repr

/-- R230. A LAUNCH or CANCEL on its way to the scheduler: the bundle, its order, and what it asks. -/
structure SchedReq where
  core : Nat
  ctx : Nat
  bid : Nat
  seq : Nat
  readyAt : Nat
  cancel : Option Nat
  desc : List Byte
  ea : Nat := 0
  sectors : List Nat := []
  deriving DecidableEq, Repr

/-- R26, R216, R222. The task of a context. `claims` are the banks it has a pledge on or owns; counts are trip counts. -/
structure Task where
  id : Nat
  launch : Nat
  kernel : Nat
  index : Nat
  counts : List Nat
  kinds : List LevelKind
  idx : List Nat
  started : Bool
  deriving DecidableEq, Repr

/-- R293, R309, R313. What a skim or step command asks for; the step of a WLD is named exactly. -/
inductive SkimOp
  | sku (op : Nat) (clusters : BitVec 8) (v : VReg)
  | skr (dest reply : Nat)
  | wld (dest : Nat) (lfmt mode : Nat) (q : Int)
  | stepc (step : Nat) (reply : Option Nat)
  | lwm (step id : Nat) (drop : Bool)
  | stepq (reply : Nat)
  deriving DecidableEq, Repr

/-- R287, R290. A skim command: whom to tell, the region offset, its core's sequence number for the slice, the SFC value of its retire,
and once it is admitted the coat that handles it and its place in the admission order. `silent` after a kill (R299). -/
structure SkimCmd where
  core : Nat
  ctx : Nat
  bid : Nat
  notify : Notify
  off : Nat
  op : SkimOp
  seq : Nat
  retiredAt : Nat
  coat : Option Nat
  order : Nat
  silent : Bool
  deriving DecidableEq, Repr

/-- R306. An undo record: its group in the slice, step, planes, and the ring position of its first byte. -/
structure UndoRec where
  group : Nat
  step : Nat
  undo : List Nat
  pm : Nat
  pos : Nat
  deriving DecidableEq, Repr

/-- R284 to R291, R300, R306. A slice: the coats completed, whether one is in progress and at which row, commands on their way and
admitted, reservations, sequence counts of cores, and the undercoat. -/
structure Slice where
  pc : Nat
  done : Nat
  busy : Bool
  row : Nat
  transit : List SkimCmd
  queue : List SkimCmd
  reserved : Nat
  seqs : AMap Nat
  nextOrder : Nat
  undo : List UndoRec
  ringPos : Nat
  deriving DecidableEq, Repr

/-- R286. The states of a region. -/
inductive RegionState | active | draining
  deriving DecidableEq, Repr

/-- R301. The parameters of a step region. -/
structure StepParams where
  h0 : Nat
  eta : Word32
  mu : Word32
  bcfg : Nat
  fcfg : Nat
  nupd : Nat
  wlim : Nat
  dlim : Nat
  urows : Nat
  deriving DecidableEq, Repr

/-- R304. A counted STEPC that has not completed. -/
structure Counted where
  cmd : SkimCmd
  deriving DecidableEq, Repr

/-- R297. A COATW that waits; `last` is the last coat of a region that was removed before it retired
(R286). -/
structure CoatWait where
  cmd : SkimCmd
  target : Nat
  reply : Nat
  last : Nat := 0
  deriving DecidableEq, Repr

/-- R284 to R308. A region. `readyCoat` is the coat in which the count reached NUPD, `commit` the coat chosen as commit coat; `told` are the rows,
each with its coat, whose uncorrectable error the host has been told (R298). -/
structure Region where
  state : RegionState
  step : Bool
  dord : Bool
  base : Nat
  len : Nat
  pinnedBefore : List Bool
  slices : List Slice
  coatw : List CoatWait
  lastError : Option (Nat × Nat)
  told : List (Nat × Nat)
  params : StepParams
  head : Nat
  counted : List Counted
  readyCoat : Option Nat
  commit : Option Nat
  readers : AMap Nat
  drainFrom : Option Nat
  destroyTags : List Nat
  deriving DecidableEq, Repr

/-- R325, R326, R328. An armed pass: the completion word; the frames of its window pages, by 512 x PC + page; the first tick at which an
entry may work for it; for each NB operation of the table (by the index of its first entry) its visit counter and whether it is done; the
laps begun; and the bank pairs that repeat the present visit, with the lanes of both banks that were compared (R327). -/
structure Pass where
  cwaddr : Nat
  frames : AMap Nat
  since : Nat
  count : AMap Nat
  done : List Nat
  laps : Nat
  redo : List (Nat × List Word32 × List Word32)
  deriving DecidableEq, Repr

/-- R332. A START under way: the table it has consumed, its start tick, the pass that begins with it, and whether the table has been placed
(its refresh round runs). -/
structure Starting where
  table : List Word64
  due : Nat
  pass : Option Pass
  placed : Bool
  deriving DecidableEq, Repr

/-- R330 to R334. A channel command after retire. -/
inductive ChanOp
  | load (addr count : Nat)
  | go (addr : Nat) (start arm : Bool)
  | stop
  | power (state : Nat)
  deriving DecidableEq, Repr

/-- R330. A channel command in order: its number, whom to tell, its reply word, whether a kill has silenced it, and whether it is under way. -/
structure ChanCmd where
  id : Nat := 0
  core : Nat
  ctx : Nat
  notify : Notify
  reply : Nat
  op : ChanOp
  silent : Bool
  taken : Bool
  deriving DecidableEq, Repr

/-- R334. The power states of a channel. -/
inductive PowerState | active | selfRefresh | powerDown | waking
  deriving DecidableEq, Repr

/-- R316 to R334. A channel. Ticks are global ticks (SFC div 4); `idx` is the running entry, `start` and `ends` its first tick and the
tick it ends at, `visit` the end tick of a running near-bank visit and
`visitOp` its entry; `bg`, `ba` are keyed by 8 x (16 x PC + bank) + register; `retrain` counts the steps made of a retrain under way, `tap` is
the delay tap of the interface; `transfers` counts its transfers, `linkErrors` are those corrected among the last 10^9 (R380). -/
structure Channel where
  running : Bool
  table : List Word64
  idx : Nat
  start : Nat
  ends : Nat
  overrun : Nat
  staged : Option (List Word64)
  pass : Option Pass
  visit : Option Nat
  visitOp : Nat
  bg : AMap (List (BitVec 16))
  ba : AMap (List Word32)
  q0 : List DramReq
  q1 : List DramReq
  refreshNext : Nat
  refreshRound : Option Nat
  cmds : List ChanCmd
  starting : Option Starting
  stopping : Bool
  power : PowerState
  wakeAt : Nat
  wanted : Bool := false
  retrain : Nat
  tap : Int := 0
  corrected : AMap Nat
  spares : AMap Nat
  spareCopy : AMap Nat
  transfers : Nat
  linkErrors : List Nat
  deriving DecidableEq, Repr

/-- R335. The states of a link. -/
inductive LinkState | down | training | negotiating | up | degraded | failed
  deriving DecidableEq, Repr

/-- R340. A remote access waiting for its flit: a read for a pending load, or a write. -/
structure LinkReq where
  req : DramReq
  seq : Nat
  deriving DecidableEq, Repr

/-- R335 to R338. A link; `credits` are those of the last flit received, `replays` counts the failures of the flit that is due, `txReplays`
the replays of the module's own first unacknowledged flit. -/
structure Link where
  state : LinkState
  lanes : Nat
  credits : Nat
  txSeq : Nat
  acked : Nat
  rxSeq : Nat
  replays : Nat
  txReplays : Nat
  versions : List Nat
  reqs : List LinkReq
  lastAlign : Option Nat
  deriving DecidableEq, Repr

/-- R343. A SEND after retire: sender, source bytes, destination, reply, and how far it has come; `placed` is its place in the target bank while
the bank's order still holds its bytes (R258). -/
structure Message where
  id : Nat
  notify : Notify
  bytes : List Byte
  cls : Nat
  core : Nat
  bank : Nat
  remote : Option Nat
  reply : Nat
  readyAt : Nat
  silent : Bool
  rel : Option Release := none
  placed : Option Nat := none
  deriving DecidableEq, Repr

/-- R280. The states of a page. -/
inductive PageState | mapped | pinned | retiring | retired
  deriving DecidableEq, Repr

/-- R280, R281. A page: state, frame, size (true: 64 KiB), attribute bits [6:0], WR. -/
structure Page where
  state : PageState
  frame : Nat
  small : Bool
  attr : Nat
  wr : Bool
  deriving DecidableEq, Repr

/-- R276, R282. A page whose PUNMAP is not yet answered: the command's tag, the page's address, frame, size, attributes and WR, and the dies
whose lookaside buffers still hold its entry. -/
structure Unmap where
  tag : Nat
  va : Nat
  frame : Nat
  size : Nat
  attr : Nat
  wr : Bool
  dies : List Nat
  deriving DecidableEq, Repr

/-- R20, R271, R279. A host transfer or host atomic that waits for DRAM or for a bank's queue. -/
inductive HostJob
  | read (tag va len : Nat) (got : AMap (List Byte))
  | write (tag va : Nat) (bytes : List Byte) (done : List Nat)
  | atomic (tag va : Nat) (op : HostAtomOp) (wide : Bool) (a b : Nat)
  deriving DecidableEq, Repr

/-- R362. A control-core pair. -/
structure Pair where
  split : Bool
  nextSplit : Bool
  stopped : Bool
  deriving DecidableEq, Repr

/-- R372, R379. A voltage domain. -/
structure Domain where
  raised : Bool
  skipping : Bool
  lastDroop : Option Nat
  droops : Nat
  deriving DecidableEq, Repr

/-- R276. An entry of a translation lookaside buffer: the page's first address and its size, and the SFC value at which its walk ends. -/
structure TlbEntry where
  va : Nat
  size : Nat
  readyAt : Nat
  deriving DecidableEq, Repr

/-- R13, R276. A die: its translation root, launch queues, pool and footprint table, control-core pairs and voltage domains, the 64-byte
sectors that its last-level cache holds, the errors that its words showed, and its shared lookaside buffer. -/
structure Die where
  xlroot : Word32
  queues : Vector LaunchQueue 16
  poolGen : AMap Nat
  poolUsed : List Nat
  poolHeld : Nat
  fpUsed : Nat
  pairs : Vector Pair 4
  domains : Vector Domain 12
  hot : Bool
  ageing : AMap Nat
  llc : List Nat
  errors : Nat
  tlb : List TlbEntry
  deriving DecidableEq, Repr

/-- R368. A hash tree: its boundary, its levels from leaves to root, and whether it has been formed. -/
structure HashTree where
  boundary : Nat
  levels : List (List (List Byte))
  formed : Bool
  deriving DecidableEq, Repr

/-- R373, R374. What a checkpoint link holds of a step region: the region and its pages, the step, and by region offset of a group the folds of its
undo records, the w rows held whole, and by region offset of a 64 KiB piece the u, change and g rows of its groups. -/
structure CkRegion where
  region : Nat
  shape : Region
  pages : AMap Page
  step : Nat
  folds : List (Nat × List Nat)
  whole : List (Nat × List Byte)
  rows : List (Nat × List Byte)
  deriving DecidableEq, Repr

/-- R373 to R375. A checkpoint link: identifiers, capture point, CKPT pages and the 64 KiB pieces it holds of them, step regions, the regions
whose commit coat it waits for, and whether every flash write finished; the number of the capture among the module's events, the command
whose answer waits for the last capture, and whether a loss of power has cut its writes short. -/
structure CkLink where
  id : Nat
  base : Nat
  point : Nat
  pieces : List (Nat × List Byte)
  pages : AMap Page
  regions : List CkRegion
  waits : List Nat
  complete : Bool
  event : Nat := 0
  tag : Option Nat := none
  cut : Bool := false
  deriving DecidableEq, Repr

/-- R378. The stages of bring-up. -/
inductive Stage | dwell | train | ramp | ready | stopped
  deriving DecidableEq, Repr

/-- R370. A trace record.
(Assumption log 35: PRESUMED.) -/
structure TraceRec where
  type : Nat
  core : Nat
  ctx : Nat
  addr : Nat
  sfc : Nat
  payload : Nat
  deriving DecidableEq, Repr

/-- R369, R370. The trace ring. -/
structure Trace where
  base : Nat
  size : Nat
  period : Nat
  mask : Nat
  index : Nat
  dropped : Nat
  deriving DecidableEq, Repr

/-- R234, R335, R390. What leaves the module toward the host: a response to a command, a completion message, or an event message. -/
inductive ReportKind | response | completion | event
  deriving DecidableEq, Repr

/-- A message to the host: kind, tag or subject, status, and its data. -/
structure Report where
  kind : ReportKind
  tag : Nat
  status : Nat
  data : List Nat
  deriving DecidableEq, Repr

end Sys2Proof.Machine
end

