-- ==== Sys2Proof/Machine/State.lean ====
section
/-! DEFINITION. The state of the module, the reasons a step can stop, and the state right after reset. Everything the spec gives the
machine is a field of State or of a structure it holds; the last four fields are the model's own (assumption log 2, 3). -/
namespace Sys2Proof.Machine

/-- R196. What a bundle does when it retires, withheld until then; of a store outside the own scratchpad also where the bytes stand in the operand,
with their effective addresses, which say what a failure reports (R146). -/
inductive Effect
  | sem (i : Fin 16) (n : Nat)
  | arrive (entry : Fin 16)
  | hawkSet (h : Fin 16) (base cap : Nat)
  | hawkRd (h : Fin 16) (n : Nat)
  | hawkWr (h : Fin 16) (n : Nat)
  | spadStore (bytes : List (Nat × Byte)) (cycle : Nat)
  | globalStore (slot : Nat) (pieces : List (Nat × List Byte)) (eas : List (Nat × Nat)) (policy ac need : Nat)
  | flush (sectors : List Nat)
  | windowStore (slot core off ea : Nat) (bytes : List (Nat × Byte))
  | trowel (core : Nat) (far : Bool) (op : TrowelOp) (addr : Nat) (bid : Nat) (arrive : Option (Fin 16))
  | matrix (bid : Nat)
  | book (i : Nat) (desc : BitVec 256) (at_ : Nat)
  | accClear (tile pair : Nat) (clusters : BitVec 8)
  | card (addr : Nat) (queue : Option Nat) (notify : Notify) (mine fromDie : Nat)
  | release (var scope : Nat) (store : Bool)
  | bwait (entry : Fin 16)
  | bankRel (mask : Nat)
  | bankMode (bank : Nat) (mode : Nat) (notify : Notify) (info : Nat)
  | sleep
  | yield
  | endTask
  | mslot (n : Fin 16) (v : BitVec 3)
  | xlroot (v : Word32)
  | trace (type payload : Nat)
  | skim (region slice : Nat) (cmd : SkimCmd)
  | coatw (region : Nat) (w : CoatWait)
  | chan (chan : Nat) (cmd : ChanCmd)
  | send (src len : Nat) (m : Message)
  deriving DecidableEq, Repr

/-- R110, R147, R251, R252, R258, R259, R267. What an issued bundle waits for before it may retire, beside the bundles before it:
a context cycle, its own landings, the operations of earlier bundles performed at a scope, the trowel commands of a bank mask
(and window commands), an acquire of a variable, or the context's trowel commands in an own bank that an engine is to read (R358). -/
inductive RetireCond
  | cycle (n : Nat)
  | landed
  | fence (scope : Nat)
  | tfence (mask : Nat) (remote : Bool)
  | acquire (var scope : Nat)
  | commands (bank : Nat)
  deriving DecidableEq, Repr

/-- R196, R197, R230. An issued bundle that has not retired: its number and address, the registers to go back to, its withheld effects,
what its retire waits for, its fault if it has one, the semaphore counts it took, and whether the scheduler has decided its LAUNCH or CANCEL,
so that it can raise no trap any more. -/
structure Issued where
  bid : Nat
  addr : Nat
  next : Nat
  snap : Regs
  eff : List Effect
  conds : List RetireCond
  fault : Option Trap
  takes : List (Fin 16 × Nat)
  final : Bool := false
  deriving DecidableEq, Repr

/-- R23. A context: its state, registers, semaphores, hawks and barrier entries; results to land (R32), bundles that have not retired (R196)
and accesses they hold back; CYCLE and whether the first cycle is still to count (R32); a LATE to raise (R43); RETIRED; the semaphore counts that
its next cycle brings (R250); the number of the next bundle; the earliest core cycle of issue (R29, R199) and one more than that of the last issue (R29); the SFC value of a stamp waited for (R41, R42); END retired (R207); privilege, lock step
and task; the sectors written since the last release and those its acquires covered (R251, R357); a pre-emption asked for and its save area
(R201); a kill (R204); the status that a saved image holds and the SFC value of its save (R44, R203); whether a precise stop asked for the
pre-emption (R371). -/
structure Ctx where
  status : CtxStatus
  regs : Regs
  sm : Vector (BitVec 8) 16
  hawks : Vector Hawk 16
  bars : Vector BarState 16
  pend : List Pend
  inflight : List Issued
  held : List Held
  cycle : Nat
  fresh : Bool
  late : Option Nat
  retired : Word64
  raised : List (Fin 16 × Nat)
  nextBid : Nat
  issueAt : Nat
  lastIssue : Nat
  target : Option Nat
  ending : Bool
  priv : Bool
  lockstep : Bool
  task : Option Task
  wrote : List Nat
  cover : List Nat
  preempt : Option Nat
  killing : Bool
  area : Nat
  before : CtxStatus
  savedPos : Nat
  stopped : Bool := false
  deriving DecidableEq, Repr

/-- R14, R15. A core. `heldFor` is the cycles for which the port's context has held
it while another was READY (R30); `skipped` says that the present cycle is one that the core skips (R379). `past` is what the first core of a pair
held after each of its last cycles, latest first: the second one holds it two cycles later (R362).
(Assumption log 37: DEDUCED.) -/
structure Core where
  ctxs : Vector Ctx 4
  port : Option (Fin 4)
  portAt : Nat
  heldFor : Nat
  frozen : Bool
  cycle : Nat
  banks : Vector Bank 32
  l1 : AMap (List CacheBlock)
  relTable : List RelEntry
  nextRel : Nat
  book : AMap (BitVec 256)
  bookOwner : AMap Nat
  bookAt : AMap Nat := []
  acc : AMap (Vector Word32 64)
  mq : List MatItem
  nextOrder : Nat
  mrun : Option MatRun
  mdone : List MatDone
  mslot : Vector (BitVec 3) 16
  mcyc : Vector Word64 4
  cards : List Card
  votecnt : Word32
  armed : Bool
  breaks : Vector (Option Nat) 4
  errors : Nat
  halted : Bool
  skipped : Bool
  tlb : List TlbEntry
  past : List (Vector Ctx 4 × Option (Fin 4)) := []
  deriving DecidableEq, Repr

/-- The module. `held` are the cycles for which SFC has stood still in the present tick (R338), `air` the inlet air in degrees Celsius (R381), `touched` when each
64 KiB piece of DRAM was last written, by the module's count of events (R374).
(Assumption log 2: DESIGN CHOICE.) -/
structure State where
  sfc : Nat
  steer : Int
  held : Nat := 0
  clocks : Nat
  mem : Memory
  cores : AMap Core
  dies : Vector Die 4
  chans : AMap Channel
  links : Vector Link 22
  kernels : AMap Kernel
  launches : List Launch
  regions : AMap Region
  pages : AMap Page
  transit : List (Nat × Nat × Nat × BankItem)
  sched : List SchedReq
  messages : List Message
  relHomes : AMap (List Release)
  conns : AMap (List Nat)
  nextSeq : Nat
  nextTask : Nat
  nextKernel : Nat
  nextTable : Nat
  hashOn : Bool
  hashEvery : Nat
  trees : List HashTree
  hashReads : List (Nat × Nat × Nat × Nat)
  trace : Trace
  ckLinks : List CkLink
  stage : Stage
  recovery : Bool
  firmware : List Byte
  plimit : Nat
  air : Int := 25
  timing : AMap Nat
  poison : List Nat
  touched : AMap Nat := []
  unmaps : List Unmap
  retired : List (Nat × Nat)
  out : List Report
  notices : List (Nat × Nat × Nat)
  strays : List (Nat × Nat)
  hostJobs : List HostJob
  focus : Nat
  agenda : List Instr
  inputs : List (Nat × Instr)
  free : Nat
  deriving DecidableEq, Repr

/-- The reasons the machine stops with a fault. -/
inductive Fault
  /-- Raised by a step that names a part the module does not have (a core 104 of a die, a bank 8 of a control core). Safe: the module
  has no such step. -/
  | noSuchPart
  deriving DecidableEq, Repr

/-- The reasons a step is refused. -/
inductive Refusal
  /-- Raised by the dispatch for an instruction with no meaning yet. Safe: the run stops. -/
  | notModelled (mnemonic : String)
  deriving DecidableEq, Repr

/-- R195, R208. The registers at reset; the task start sets the same values but for those the kernel and launch give (R195, R215).
(Assumption log 5: DESIGN CHOICE.) -/
def Regs.reset : Regs :=
  { pc := 0, x := Vector.replicate 32 0, p := Vector.replicate 8 false, v := Vector.replicate 32 (Vector.replicate 128 0),
    vp := Vector.replicate 8 (Vector.replicate 128 false), mp := Vector.replicate 8 0, mo := Vector.replicate 4 ⟨0, 0⟩,
    ks := Vector.replicate 8 (Vector.replicate 128 0), sten := [], loops := Vector.replicate 6 ⟨false, 0, 0⟩,
    lc := Vector.replicate 6 0, li := Vector.replicate 6 0, barAddr := Vector.replicate 16 none,
    trapvec := 0, trapcause := 0, trappc := 0, trapslot := 0, trapinfo := 0, trapnpc := 0, hnd := false, msginfo := 0,
    memdef := 0, clm := 0xFF, stepref := 0, framelen := 255, detmode := false, harm := Vector.replicate 8 0,
    origin := 0, prevStamp := none, startAt := none, resumePos := none }

/-- R23, R194. A context at reset: FREE.
(Assumption log 5: DESIGN CHOICE.) -/
def Ctx.reset : Ctx :=
  { status := .free, regs := Regs.reset, sm := Vector.replicate 16 0, hawks := Vector.replicate 16 ⟨0, 0, 0, 0, 0⟩,
    bars := Vector.replicate 16 ⟨false, none, 0⟩, pend := [], inflight := [], held := [], cycle := 0, fresh := false, late := none, retired := 0, raised := [],
    nextBid := 0, issueAt := 0, lastIssue := 0, target := none, ending := false, priv := false, lockstep := false,
    task := none, wrote := [], cover := [], preempt := none, killing := false, area := 0, before := .free, savedPos := 0 }

/-- R256. A bank at reset: FREE, in SCRATCH mode.
(Assumption log 5: DESIGN CHOICE.) -/
def Bank.reset : Bank :=
  { owner := none, pledge := none, releasing := false, mode := .scratch, nextMode := .scratch, since := 0, notify := none,
    queue := [], fifo := [], fifoNext := 0 }

/-- A core at reset: every context FREE, MSLOT n granting context n mod 4 (R169), every accumulator +0.0 (R391).
(Assumption log 5: DESIGN CHOICE.) -/
def Core.reset : Core :=
  { ctxs := Vector.replicate 4 Ctx.reset, port := none, portAt := 0, heldFor := 0, frozen := false, cycle := 0,
    banks := Vector.replicate 32 Bank.reset, l1 := [], relTable := [], nextRel := 0, book := [], bookOwner := [], acc := [], mq := [],
    nextOrder := 0, mrun := none, mdone := [], mslot := Vector.ofFn fun n => BitVec.ofNat 3 (4 + n.val % 4),
    mcyc := Vector.replicate 4 0, cards := [], votecnt := 0, armed := false, breaks := Vector.replicate 4 none,
    errors := 0, halted := false, skipped := false, tlb := [] }

/-- A die at reset.
(Assumption log 5: DESIGN CHOICE.) -/
def Die.reset : Die :=
  { xlroot := 0, queues := Vector.replicate 16 ⟨.idle, false⟩, poolGen := [], poolUsed := [], poolHeld := 0, fpUsed := 0,
    pairs := Vector.replicate 4 ⟨false, false, false⟩, domains := Vector.replicate 12 ⟨false, false, none, 0⟩,
    hot := false, ageing := [], llc := [], errors := 0, tlb := [] }

/-- R320. The default timetable: WIN 144, REF 48, WIN 32, RTR 32. -/
def defaultTable : List Word64 :=
  [0x1090000000000000, 0x3030000000000000, 0x1020000000000000, 0x4020000000000000]

/-- R316, R378. A channel at reset: in self-refresh, with the default timetable, which starts in stage 3 of bring-up.
(Assumption log 5: DESIGN CHOICE.) -/
def Channel.reset : Channel :=
  { running := false, table := defaultTable, idx := 0, start := 0, ends := 144, overrun := 0, staged := none, pass := none,
    visit := none, visitOp := 0, bg := [], ba := [], q0 := [], q1 := [], refreshNext := 0, refreshRound := none, cmds := [],
    starting := none, stopping := false, power := .selfRefresh, wakeAt := 0, retrain := 0, corrected := [], spares := [],
    spareCopy := [], transfers := 0, linkErrors := [] }

/-- R335. A link at reset: DOWN.
(Assumption log 5: DESIGN CHOICE.) -/
def Link.reset : Link :=
  { state := .down, lanes := 8, credits := 0, txSeq := 0, acked := 2 ^ 32 - 1, rxSeq := 0, replays := 0, txReplays := 0, versions := [], reqs := [],
    lastAlign := none }

/-- R8, R376, R378. The module right after reset: bring-up stage 1, memory with nothing listed, the boot ROM's firmware verified or recovery.
(Assumption log 2: DESIGN CHOICE.) (Assumption log 5: DESIGN CHOICE.) -/
def State.reset : State :=
  { sfc := 0, steer := 0, clocks := 0, mem := [], cores := [], dies := Vector.replicate 4 Die.reset, chans := [], links := Vector.replicate 22 Link.reset,
    kernels := [], launches := [], regions := [], pages := [], transit := [], sched := [], messages := [], relHomes := [], conns := [],
    nextSeq := 0, nextTask := 1, nextKernel := 1, nextTable := 0, hashOn := false, hashEvery := 1, trees := [], hashReads := [],
    trace := ⟨0, 0, 0, 0, 0, 0⟩, ckLinks := [], stage := .dwell, recovery := !Config.verifies Config.bootImage, firmware := Config.bootImage,
    plimit := 2200, timing := [], poison := [], unmaps := [], retired := [], out := [], notices := [], strays := [], hostJobs := [], focus := 0, agenda := [], inputs := [], free := 0 }

end Sys2Proof.Machine
end

