-- ==== Sys2Proof/Machine/Ops.lean ====
section
/-! DEFINITION. The named operations over the state: access to its parts, registers, scratchpad and device memory, translation, bank
ownership, and taking a trap with the return from it (spec/06 R97, 07 R112 and R113, 08 R134 and R135, 11 R194 to R209, 12 R216 and
R217, 17 R272 to R277). -/
namespace Sys2Proof.Machine

/-- The outcome of a step that always goes on. -/
abbrev Out := Host.Outcome State Fault Refusal

/-! ### Parts of the state -/

/-- A core, by the number 128 x die + core.
(Assumption log 90: DESIGN CHOICE.) -/
def State.core (s : State) (k : Nat) : Core := AMap.getD s.cores k Core.reset
/-- Replaces a core. -/
def State.setCore (s : State) (k : Nat) (c : Core) : State := { s with cores := AMap.set s.cores k c }
/-- Changes a core. -/
def State.modCore (s : State) (k : Nat) (f : Core → Core) : State := s.setCore k (f (s.core k))
/-- The number of a context modulo 4. -/
def ctxNo (c : Nat) : Fin 4 := ⟨c % 4, Nat.mod_lt _ (by decide)⟩
/-- A context of a core. -/
def Core.ctx (k : Core) (c : Nat) : Ctx := k.ctxs[ctxNo c]
/-- Changes a context of a core. -/
def Core.modCtx (k : Core) (c : Nat) (f : Ctx → Ctx) : Core := { k with ctxs := k.ctxs.set (ctxNo c) (f (k.ctx c)) }
/-- A context of the module. -/
def State.ctx (s : State) (k c : Nat) : Ctx := (s.core k).ctx c
/-- Changes a context of the module. -/
def State.modCtx (s : State) (k c : Nat) (f : Ctx → Ctx) : State := s.modCore k fun x => x.modCtx c f
/-- Changes the registers of a context. -/
def Ctx.modRegs (c : Ctx) (f : Regs → Regs) : Ctx := { c with regs := f c.regs }
/-- A bank number modulo 32. -/
def bankNo (b : Nat) : Fin 32 := ⟨b % 32, Nat.mod_lt _ (by decide)⟩
/-- A bank of a core. -/
def Core.bank (k : Core) (b : Nat) : Bank := k.banks[bankNo b]
/-- Changes a bank of a core. -/
def Core.modBank (k : Core) (b : Nat) (f : Bank → Bank) : Core := { k with banks := k.banks.set (bankNo b) (f (k.bank b)) }
/-- A bank of the module. -/
def State.bank (s : State) (k b : Nat) : Bank := (s.core k).bank b
/-- Changes a bank of the module. -/
def State.modBank (s : State) (k b : Nat) (f : Bank → Bank) : State := s.modCore k fun x => x.modBank b f
/-- A die's number modulo 4. -/
def dieIx (d : Nat) : Fin 4 := ⟨d % 4, Nat.mod_lt _ (by decide)⟩
/-- A die. -/
def State.die (s : State) (d : Nat) : Die := s.dies[dieIx d]
/-- Changes a die. -/
def State.modDie (s : State) (d : Nat) (f : Die → Die) : State := { s with dies := s.dies.set (dieIx d) (f (s.die d)) }
/-- A channel, by its 9-bit number (R316).
(Assumption log 90: DESIGN CHOICE.) -/
def State.chan (s : State) (c : Nat) : Channel := AMap.getD s.chans c Channel.reset
/-- Changes a channel. -/
def State.modChan (s : State) (c : Nat) (f : Channel → Channel) : State := { s with chans := AMap.set s.chans c (f (s.chan c)) }
/-- A link's number modulo 22. -/
def linkIx (l : Nat) : Fin 22 := ⟨l % 22, Nat.mod_lt _ (by decide)⟩
/-- A link. -/
def State.link (s : State) (l : Nat) : Link := s.links[linkIx l]
/-- Changes a link. -/
def State.modLink (s : State) (l : Nat) (f : Link → Link) : State := { s with links := s.links.set (linkIx l) (f (s.link l)) }
/-- A launch in flight, by its handle. -/
def State.launch? (s : State) (h : Nat) : Option Launch := s.launches.find? fun l => l.handle = h
/-- Changes a launch in flight. -/
def State.modLaunch (s : State) (h : Nat) (f : Launch → Launch) : State :=
  { s with launches := s.launches.map fun l => if l.handle = h then f l else l }
/-- Replaces the memory. -/
def State.setMem (s : State) (m : Memory) : State := { s with mem := m }
/-- Sends a message to the host. -/
def State.report (s : State) (kind : ReportKind) (tag status : Nat) (data : List Nat) : State :=
  { s with out := s.out ++ [⟨kind, tag, status, data⟩] }
/-- A free number below n, and the state with the counter advanced.
(Assumption log 3: DESIGN CHOICE.) (Assumption log 7: DEDUCED.) -/
def State.drawBelow (s : State) (n : Nat) : Nat × State :=
  (if n = 0 then 0 else Config.draw s.free % n, { s with free := s.free + 1 })
/-- R381. The module does not run: a die has reached 105 degrees, or the inlet air is above 45.
(Assumption log 84: DEDUCED.) -/
def State.overheated (s : State) : Bool := (s.dies.any fun d => d.hot) || decide (45 < s.air)
/-- R15. A worker core. -/
def isWorker (k : Nat) : Bool := decide (k % 128 < 96)
/-- R15. The control-core pair of a core: its die and number, for cores 96 to 103. -/
def pairOf (k : Nat) : Nat × Fin 4 := (k / 128, ⟨(k % 128 - 96) / 2 % 4, Nat.mod_lt _ (by decide)⟩)
/-- R362. The pair of a control core runs PAIRED.
(Assumption log 85: DEDUCED.) -/
def State.paired (s : State) (k : Nat) : Bool := !isWorker k && !((s.die (pairOf k).1).pairs[(pairOf k).2]).split
/-- R362. The second core of a pair that runs PAIRED: it repeats what the first one does. -/
def State.repeats (s : State) (k : Nat) : Bool := s.paired k && k % 2 = 1
/-- R15. A core the module has. -/
def coreExists (k : Nat) : Bool := decide (k < 512 ∧ k % 128 < 104)

/-! ### Registers (R97, R112) -/

/-- R97. A scalar register: x0 reads 0. -/
def Regs.rx (r : Regs) (i : Fin 32) : Word64 := if i.val = 0 then 0 else r.x[i]
/-- R97. Writes a scalar register: a write to x0 is discarded. -/
def Regs.wx (r : Regs) (i : Fin 32) (v : Word64) : Regs := if i.val = 0 then r else { r with x := r.x.set i v }
/-- R97. A predicate: p0 reads true. -/
def Regs.rp (r : Regs) (i : Fin 8) : Bool := if i.val = 0 then true else r.p[i]
/-- R97. Writes a predicate: a write to p0 is discarded. -/
def Regs.wp (r : Regs) (i : Fin 8) (v : Bool) : Regs := if i.val = 0 then r else { r with p := r.p.set i v }
/-- R112. A vector register. -/
def Regs.rv (r : Regs) (i : Fin 32) : VReg := r.v[i]
/-- R114. Writes the masked lanes of a vector register. -/
def Regs.wv (r : Regs) (i : Fin 32) (mask : VPred) (v : VReg) : Regs :=
  { r with v := r.v.set i (Vector.ofFn fun L : Fin 128 => if mask[L] then v[L] else r.v[i][L]) }
/-- R112. A vector predicate: vp0 reads all ones. -/
def Regs.rvp (r : Regs) (i : Fin 8) : VPred := if i.val = 0 then Vector.replicate 128 true else r.vp[i]
/-- R112, R114. Writes the masked lanes of a vector predicate: a write to vp0 is discarded. -/
def Regs.wvp (r : Regs) (i : Fin 8) (mask : VPred) (v : VPred) : Regs :=
  if i.val = 0 then r
  else { r with vp := r.vp.set i (Vector.ofFn fun L : Fin 128 => if mask[L] then v[L] else r.vp[i][L]) }

/-- R32. Writes a result. -/
def Dest.write (d : Dest) (r : Regs) : Regs :=
  match d with
  | .x i y => r.wx i y
  | .p i y => r.wp i y
  | .v i mask y => r.wv i mask y
  | .vp i mask y => r.wvp i mask y
  | .mp i y => { r with mp := r.mp.set i y }
  | .mo i y => { r with mo := r.mo.set i y }
  | .ks i y => { r with ks := r.ks.set i y }
  | .stens first l => { r with sten := ((List.range l.length).zip l).foldl (fun m p => AMap.set m (first + p.1) p.2) r.sten }

/-- R84, R85. The truth of a C-slot predicate. -/
def Regs.guard (r : Regs) (g : Guard) : Bool := r.rp g.p != g.neg

/-! ### Clusters (R113, R114) -/

/-- R113. The lane that lane i takes its work from: with LS = 1 an odd cluster repeats its even partner. -/
def srcLane (ls : Bool) (i : Nat) : Nat := if ls && i / 16 % 2 == 1 then i - 16 else i
/-- R113. Cluster c executes. -/
def clusterOn (clm : BitVec 8) (ls : Bool) (c : Nat) : Bool := clm.getLsbD (if ls then c - c % 2 else c)
/-- R113. The clusters that execute, as the mask that engines take.
(Assumption log 47: DEDUCED.) -/
def activeClusters (clm : BitVec 8) (ls : Bool) : BitVec 8 :=
  (List.range 8).foldl (fun m c => if clusterOn clm ls c then m ||| (1#8 <<< c) else m) 0#8
/-- R114. The lanes a V-slot instruction writes. -/
def laneMask (clm : BitVec 8) (ls : Bool) (vp : VPred) (neg : Bool) : VPred :=
  Vector.ofFn fun i : Fin 128 =>
    clusterOn clm ls (i.val / 16) && (vp[srcLane ls i.val]?.getD false != neg)
/-- R143. The lanes of the enabled clusters. -/
def clusterMask (clm : BitVec 8) (ls : Bool) : VPred :=
  Vector.ofFn fun i : Fin 128 => clusterOn clm ls (i.val / 16)

/-! ### Scratchpad bytes (R134, R135, R255) -/

/-- R134, R272. The memory address of a byte of a core's scratchpad: PA[47] with die, core and local address.
(Assumption log 89: PRESUMED.) -/
def spadAddr (k a : Nat) : Nat := 2 ^ 47 + k % 512 * 2 ^ 21 + a % 2 ^ 21
/-- The n bytes at a local scratchpad address.
(Assumption log 89: PRESUMED.) -/
def State.spadRead (s : State) (k a n : Nat) : List Byte := Memory.read s.mem (spadAddr k a) n
/-- R366. The poisoned words left when n bytes from an address on have been written: a word that is written whole is sound again.
(Assumption log 83: PRESUMED.) -/
def healed (l : List Nat) (a n : Nat) : List Nat := l.filter fun w => !decide (a ≤ w / 8 * 8 ∧ w / 8 * 8 + 8 ≤ a + n)
/-- R374. The 64 KiB pieces of DRAM that a write of n bytes touches, as last written now; control-core scratchpads are no pieces. -/
def touch (l : AMap Nat) (a n now : Nat) : AMap Nat :=
  if 2 ^ 47 ≤ a then l else (List.range ((a % 65536 + n + 65535) / 65536)).foldl (fun l i => AMap.set l (a / 65536 + i) now) l
/-- Writes bytes at a physical address. -/
def State.put (s : State) (a : Nat) (bs : List Byte) : State :=
  { s with mem := Memory.write s.mem a bs, poison := healed s.poison a bs.length, touched := touch s.touched a bs.length s.nextSeq }
/-- Writes bytes at a local scratchpad address.
(Assumption log 89: PRESUMED.) -/
def State.spadWrite (s : State) (k a : Nat) (bs : List Byte) : State := s.put (spadAddr k a) bs
/-- Writes single bytes of a core's scratchpad. -/
def State.spadPut (s : State) (k : Nat) (l : List (Nat × Byte)) : State :=
  { s with mem := l.foldl (fun m p => Memory.set m (spadAddr k p.1) p.2) s.mem
           poison := s.poison.filter fun w => !(List.range 8).all fun i => l.any fun p => spadAddr k p.1 = w / 8 * 8 + i }

/-- R216. The task of a context owns a bank, as the bundles that have retired leave it. -/
def Core.holds (k : Core) (c b : Nat) : Bool :=
  match (k.ctx c).task, (k.bank b).owner with
  | some t, some o => t.id == o && !(k.bank b).releasing
  | _, _ => false
/-- R217. A BANKREL that has issued and not retired gives a bank up for the bundles after it. -/
def Ctx.givesUp (x : Ctx) (b : Nat) : Bool :=
  x.inflight.any fun i => i.eff.any fun e => match e with | .bankRel m => bitAt m b | _ => false
/-- R216, R217. The task of a context owns a bank, as a bundle that issues now sees it. -/
def Core.owns (k : Core) (c b : Nat) : Bool := k.holds c b && !(k.ctx c).givesUp b
/-- R217. BANKOWN of a context. -/
def Core.bankOwn (k : Core) (c : Nat) : Nat :=
  (List.range 32).foldl (fun m b => if k.owns c b then m + 2 ^ b else m) 0
/-- R256. A bank that holds plain storage: SCRATCH or FIFO. -/
def BankMode.plain : BankMode → Bool
  | .scratch => true | .fifo => true | _ => false
/-- R109, R146, R256. The context may access local bank b: owned and in SCRATCH or FIFO mode. -/
def Core.usable (k : Core) (c b : Nat) : Bool := k.owns c b && (k.bank b).mode.plain

/-! ### Addresses (R134, R135) -/

/-- R134. Where an address leads. -/
inductive Space
  | spad (a : Nat)
  | window (core a : Nat)
  | global (va : Nat)
  | bad
  deriving DecidableEq, Repr

/-- R134, R135, R255. The space of an effective address; control cores have banks 0 to 7 only. -/
def spaceOf (ea : Nat) : Space :=
  if ea < 0x200000 then .spad ea
  else if 2 ^ 52 ≤ ea then .bad
  else if ea < 0xFFFFFC0000000 then .global ea
  else
    let k := bits ea 29 21
    if bits ea 27 21 < 104 ∧ (bits ea 27 21 < 96 ∨ bits ea 20 16 < 8) then .window k (bits ea 20 0) else .bad

/-! ### Translation (R272 to R277) -/

/-- R272. The index of a level. -/
def walkIndex (va lvl : Nat) : Nat :=
  match lvl with | 0 => bits va 51 39 | 1 => bits va 38 30 | 2 => bits va 29 21 | _ => bits va 20 16
/-- R272. The bits of the offset in a page that a leaf of a level maps. -/
def leafBits (lvl : Nat) : Nat := if lvl = 2 then 21 else 16
/-- R274. A malformed entry. -/
def malformed (e lvl : Nat) : Bool :=
  let next := bits e 1 1
  bits e 63 59 ≠ 0 || bits e 51 48 ≠ 0 || bits e 11 3 ≠ 0
  || (next = 1 && (bits e 58 52 ≠ 0 || bits e 2 2 ≠ 0))
  || (lvl < 2 && next = 0) || (lvl = 3 && next = 1)
  || (next = 0 && (bits e 47 12 * 4096) % 2 ^ leafBits lvl ≠ 0)
/-- R272, R273. A leaf: the physical address, attribute bits [6:0], WR, and the size of the page. -/
structure Leaf where
  pa : Nat
  attr : Nat
  wr : Bool
  size : Nat
  deriving DecidableEq, Repr
/-- R274. The walk from a table, with the levels left. -/
def walk (mem : Memory) (va : Nat) : Nat → Nat → Option Leaf
  | 0, _ => none
  | fuel + 1, t =>
    let lvl := 3 - fuel
    let e := Memory.value mem (t + 8 * walkIndex va lvl) 8
    if bits e 0 0 = 0 ∨ malformed e lvl then none
    else if bits e 1 1 = 0 then
      some ⟨bits e 47 12 * 4096 + va % 2 ^ leafBits lvl, bits e 58 52, bits e 2 2 == 1, 2 ^ leafBits lvl⟩
    else walk mem va fuel (bits e 47 12 * 4096)
/-- R274, R275. Translation of a global address under an XLROOT value. -/
def translateFrom (mem : Memory) (root va : Nat) : Option Leaf :=
  if root % 2 = 0 then none else walk mem va 4 (bits root 31 1 * 2 ^ 16)
/-- R276, R282. The entry of a page that the tables no longer hold and a die's lookaside buffers still do. -/
def State.cachedLeaf (s : State) (die va : Nat) : Option Leaf :=
  (s.unmaps.find? fun u => u.dies.contains die && decide (u.va ≤ va ∧ va < u.va + u.size)).map fun u => ⟨u.frame + (va - u.va), u.attr, u.wr, u.size⟩
/-- R274, R275, R276. Translation of a global address on a die under an XLROOT value: by an entry that the die's lookaside buffers still
hold, or by a walk of the tables; none while translation is off.
(Assumption log 25: DEDUCED.) -/
def State.translateUnder (s : State) (die root va : Nat) : Option Leaf :=
  if root % 2 = 0 then none
  else match s.cachedLeaf die va with
  | some l => some l
  | none => translateFrom s.mem root va
/-- R274, R275. Translation of a global address under a die's XLROOT.
(Assumption log 25: DEDUCED.) -/
def translate (s : State) (die va : Nat) : Option Leaf := s.translateUnder die (s.die die).xlroot.toNat va
/-- R273. Attribute bits. -/
def Leaf.pinned (l : Leaf) : Bool := bitAt l.attr 0
def Leaf.compute (l : Leaf) : Bool := bitAt l.attr 1
def Leaf.skim (l : Leaf) : Bool := bitAt l.attr 2
def Leaf.step (l : Leaf) : Bool := bitAt l.attr 3
def Leaf.sysatom (l : Leaf) : Bool := bitAt l.attr 4
def Leaf.hash (l : Leaf) : Bool := bitAt l.attr 5
/-- R340. The page lies in another module. -/
def Leaf.remote (l : Leaf) : Bool := bits l.pa 47 46 == 1
/-- R277. What plain accesses may do at a leaf: SKIM and STEP pages refuse them, WR = 0 refuses writes. -/
def Leaf.allows (l : Leaf) (write : Bool) : Bool := !l.skim && !l.step && (!write || l.wr)

/-! ### Traps (R196 to R200, R206) -/

/-- R200. Cause codes. -/
def causeIllegal : Nat := 0x01
def causePriv : Nat := 0x02
def causeSoft : Nat := 0x03
def causeBreak : Nat := 0x04
def causeMisaligned : Nat := 0x05
def causeNotOwned : Nat := 0x06
def causeXlate : Nat := 0x07
def causeAttr : Nat := 0x08
def causeEcc : Nat := 0x09
def causeConflict : Nat := 0x0A
def causeOverrun : Nat := 0x0B
def causeLate : Nat := 0x0C
def causeVote : Nat := 0x0D
def causeLockstep : Nat := 0x0E

/-! ### Statuses (R189) -/

def stOk : Nat := 0x00
def stEcc : Nat := 0x01
def stXlate : Nat := 0x02
def stAttr : Nat := 0x03
def stBoundary : Nat := 0x04
def stStepBack : Nat := 0x05
def stStepFwd : Nat := 0x06
def stWaitTimeout : Nat := 0x07
def stRetentionFull : Nat := 0x08
def stDup : Nat := 0x09
def stCancelled : Nat := 0x0A
def stLink : Nat := 0x0B
def stRejected : Nat := 0x0D
def stHostAtomic : Nat := 0x0E
def stPoolFull : Nat := 0x0F

/-! ### Trap entry (R196 to R199) -/

/-- R81. The address that follows a bundle address: the next word of a stencil line, or the next line. -/
def nextAddr (line addr : Nat) : Nat :=
  if bits line 255 255 = 0 ∧ addr % 32 + 1 < bits line 254 251 then addr + 1 else addr - addr % 32 + 32

/-- R198, steps 1 to 4. The trap registers of a bundle at `addr` that `next` would follow. -/
def Regs.takeTrap (r : Regs) (addr next : Nat) (t : Trap) : Regs :=
  { r with
    trappc := BitVec.ofNat 64 addr, trapnpc := BitVec.ofNat 64 next, trapcause := BitVec.ofNat 64 t.cause,
    trapslot := BitVec.ofNat 64 t.slot, trapinfo := BitVec.ofNat 64 t.info, hnd := true }

/-- R198, R199. The trap goes to the context's own handler: TRAPVEC.EN, HND was 0, and not VOTE or LOCKSTEP. -/
def Regs.hasHandler (r : Regs) (t : Trap) : Bool :=
  r.trapvec.getLsbD 0 && !r.hnd && t.cause ≠ causeVote && t.cause ≠ causeLockstep

/-- R198. The line address of TRAPVEC or HARMk. -/
def lineOf (w : Word64) : Nat := w.toNat / 32 * 32

/-- R37. The context cycles until the last pending result lands. -/
def lastLanding (c : Ctx) : Nat := c.pend.foldl (fun m p => max m (p.due - c.cycle)) 0

/-- R198, R199. Trap entry of a context whose registers are as R197 leaves them; `now` is the core cycle of the trap. The handler's
first bundle issues at the later of trap cycle + 4 and the last landing. -/
def Ctx.enterTrap (c : Ctx) (addr next now : Nat) (t : Trap) : Ctx :=
  let r := c.regs.takeTrap addr next t
  if c.regs.hasHandler t then
    { c with regs := { r with pc := lineOf r.trapvec }, issueAt := now + max 4 (lastLanding c), target := none, late := none }
  else { c with regs := { r with pc := addr }, status := .trapped, target := none, late := none }

/-- R206. The return from a trap handler: HND := 0 and issue resumes at TRAPPC two cycles later. -/
def Regs.returnFromTrap (r : Regs) : Regs := { r with hnd := false, pc := r.trappc.toNat }

/-! ### The issue port (R29) -/

/-- R29. The next READY context after `from`, in round-robin order. -/
def Core.nextReady (k : Core) (c : Nat) : Option (Fin 4) :=
  ([1, 2, 3].map fun i => ctxNo (c + i)).find? fun n => (k.ctx n.val).status = .ready

/-- R29, R31. Hands the port from the context that held it to the next READY one, whose first bundle issues `wait` cycles from now;
without one, no context holds the port. -/
def Core.passPort (k : Core) (c wait : Nat) : Core :=
  match k.nextReady c with
  | some n =>
    { (k.modCtx n.val (fun x => { x with status := .running })) with
      port := some n, portAt := k.cycle + wait, heldFor := if wait = 2 && (k.nextReady n.val).isSome then 1 else 0 }
  | none => { k with port := none, heldFor := 0 }

/-- R29. A context that leaves the port of itself (R30, YIELD, dormant, trapped, ended, saved, killed) passes it on. The switch takes the two
cycles that follow a cycle in which the core has issued; when the context has not issued in the present cycle, it takes this cycle and the
next.
(Assumption log 13: DEDUCED.) -/
def Core.switchPort (k : Core) (c : Nat) : Core := k.passPort c (if (k.ctx c).lastIssue = k.cycle + 1 then 3 else 2)
/-- R29. The RUNNING context leaves the port for good (dormant, trapped, ended, saved, killed).
(Assumption log 13: DEDUCED.) -/
def Core.leavePort (k : Core) (c : Nat) : Core := if k.port = some (ctxNo c) then k.switchPort c else k

end Sys2Proof.Machine
end

