-- ==== Sys2Proof/Machine/Timetable.lean ====
section
/-! DEFINITION. Timetable entries and tables (spec/05 R91, 20 R317 to R319, R323 to R325): fields, the path of a table, its checks, and the
NB operations of a pass. -/
namespace Sys2Proof.Machine

/-- The first n of the equal-sized little-endian values that bytes hold. -/
def valuesAt (bs : List Byte) (n : Nat) : List Nat :=
  (List.range n).map fun i => leValue ((bs.drop (bs.length / n * i)).take (bs.length / n))

/-! ### Entries (R91, R317, R323) -/

/-- R91. Kind, duration and operands. -/
def ttKind (w : Word64) : Nat := bits w.toNat 63 60
def ttDur (w : Word64) : Nat := bits w.toNat 59 48
def ttArg (w : Word64) : Nat := bits w.toNat 47 0
/-- R317. The shortest and longest duration of a kind. -/
def ttRange (kind : Nat) : Nat × Nat :=
  match kind with
  | 1 => (16, 4095) | 2 => (27, 4095) | 3 => (48, 4095) | 4 => (32, 64) | 6 => (0, 0) | _ => (1, 4095)
/-- R323. The operands of an NB entry. -/
structure Nb where
  op : Nat
  all : Bool
  pc : Nat
  bank : Nat
  row : Nat
  nrow : Nat
  dup : Bool
  cg : Nat
  ncg : Nat
  g : Nat
  a : Nat
  x : Nat
  deriving DecidableEq, Repr
def nbOf (w : Word64) : Nb :=
  let f (hi lo : Nat) : Nat := bits w.toNat hi lo
  { op := f 47 42, all := bitAt w.toNat 41, pc := f 40 40, bank := f 39 36, row := f 35 21, nrow := f 20 16 + 1, dup := bitAt w.toNat 15,
    cg := f 14 13, ncg := f 12 11 + 1, g := f 10 8, a := f 7 5, x := f 4 0 }
/-- R324. The visits of an operation. -/
def Nb.visits (o : Nb) : Nat := if o.op = 3 ∨ o.op = 4 ∨ o.op = 5 ∨ o.op = 9 then o.nrow * o.ncg else 1
/-- R324. The ticks of a visit, of NACT and of NRED. -/
def Nb.ticks (o : Nb) : Nat := if o.op = 0 then 1 else if o.op = 7 then 8 else 32
/-- R319, R323, R324. Rule 9: an operand breaks its limits. -/
def Nb.bad (o : Nb) (dur : Nat) : Bool :=
  (o.all && o.bank ≠ 0) || decide (4 < o.cg + o.ncg) || (o.dup && (!o.all || o.op ≠ 3))
  || ((o.op = 0 || o.op = 1 || o.op = 2 || o.op = 6 || o.op = 7 || o.op = 8) && (o.nrow ≠ 1 || o.ncg ≠ 1 || o.dup))
  || (if o.op = 0 ∨ o.op = 6 ∨ o.op = 8 then decide (7 < o.a + o.x % 8) || decide (8 ≤ o.x)
      else if o.op = 1 ∨ o.op = 4 ∨ o.op = 5 then decide (16 ≤ o.x)
      else if o.op = 2 then o.all
      else if o.op = 3 then decide (7 < o.a + o.ncg - 1)
      else if o.op = 7 then !o.all || decide (3 ≤ o.x) || (o.x = 2 && decide (6 < o.a)) || decide (dur < 8)
      else decide (2 ≤ o.x))

/-! ### The path of a table (R318) -/

/-- R317, R318. The timed entry at which execution stands when it comes to index i: JMPs are followed. -/
def resolveFrom (table : List Word64) : Nat → Nat → Nat
  | 0, i => i
  | fuel + 1, i =>
    match table[i]? with
    | some w => if ttKind w = 6 then resolveFrom table fuel (bits w.toNat 9 0) else i
    | none => i
def resolveEntry (table : List Word64) (i : Nat) : Nat := resolveFrom table table.length i
/-- R318. The timed entry that follows entry i; a JMP here is one of a loop of JMPs alone, which the path never leaves. -/
def nextEntry (table : List Word64) (i : Nat) : Nat :=
  if (table[i]?).map ttKind = some 6 then i else resolveEntry table (if i + 1 < table.length then i + 1 else 0)
/-- R318. The path from an entry until it comes back to one it has met: the entries met, and where it comes back to. -/
def pathFrom (table : List Word64) : Nat → Nat → List Nat → List Nat × Nat
  | 0, i, seen => (seen, i)
  | fuel + 1, i, seen => if seen.contains i then (seen, i) else pathFrom table fuel (nextEntry table i) (seen ++ [i])
/-- R318. The cycle of a table, from the entry at which the path from entry 0 first enters it. -/
def cycleOf (table : List Word64) : List Nat :=
  let p := pathFrom table (table.length + 1) (resolveEntry table 0) []
  p.1.dropWhile fun i => i ≠ p.2
/-- R318. The entry whose start is the lap boundary: the cycle's SYNC, or its first entry. -/
def lapEntry (table : List Word64) : Nat :=
  let c := cycleOf table
  match c.find? fun i => (table[i]?).map ttKind = some 7 with | some i => i | none => c.headD 0

/-! ### The checks of a table (R319) -/

/-- The first index of a table whose entry a test selects. -/
def firstEntry (table : List Word64) (bad : Word64 → Bool) : Option Nat :=
  (List.range table.length).find? fun i => match table[i]? with | some w => bad w | none => false
/-- R319, rule 1. -/
def ttBadKind (w : Word64) : Bool :=
  let k := ttKind w
  decide (8 < k) || (k = 5 && decide (9 < bits w.toNat 47 42)) || (k = 6 && decide (2 ^ 10 ≤ ttArg w)) || (k ≠ 5 && k ≠ 6 && ttArg w ≠ 0)
/-- R319, rule 2. -/
def ttBadDur (w : Word64) : Bool := decide (ttDur w < (ttRange (ttKind w)).1) || decide ((ttRange (ttKind w)).2 < ttDur w)
/-- R319, rule 4: the entries from a WIN on; the first at which too many ticks have passed before the next WIN. -/
def winGap : List (Nat × Word64) → Nat → Nat → Option Nat
  | [], _, _ => none
  | (i, w) :: l, other, cur =>
    if ttKind w = 1 then none
    else
      let other := if ttKind w = 2 then other else other + ttDur w
      let cur := if ttKind w = 2 then cur + ttDur w else cur
      if 64 < other ∨ 128 < cur then some i else winGap l other cur
/-- The rotations of a cycle that begin after each of its WIN entries. -/
def afterWins (turn : List (Nat × Word64)) : List (List (Nat × Word64)) :=
  (List.range turn.length).filterMap fun j =>
    match turn[j]? with
    | some p => if ttKind p.2 = 1 then some (turn.drop (j + 1) ++ turn.take (j + 1)) else none
    | none => none
/-- R319, rule 5: the start ticks of the REF entries of a cycle. -/
def refStarts : List (Nat × Word64) → Nat → List Nat
  | [], _ => []
  | (_, w) :: l, t => if ttKind w = 3 then t :: refStarts l (t + ttDur w) else refStarts l (t + ttDur w)
/-- R319, rule 5: some stretch of 1,096 ticks holds the starts of fewer than four REF entries. -/
def refsSparse (starts : List Nat) (period : Nat) : Bool :=
  let n := starts.length
  decide (n = 0) || (List.range n).any fun j =>
    decide (1096 + (starts[j]?.getD 0) < (starts[(j + 4) % n]?.getD 0) + (j + 4) / n * period)
/-- R319, rule 8: an NB entry and the entry after it. -/
def nbFollowed (w : Word64) : Bool :=
  (ttKind w = 1 && decide (48 ≤ ttDur w)) || ((ttKind w = 5 || ttKind w = 0) && decide (32 ≤ ttDur w))
/-- R319. The first rule that a table breaks, with the offending entry (0xFFFF for the whole cycle); `skim` when a skimmed region holds a
slice of the channel. Where a table breaks several rules the one with the lowest code is reported.
(Assumption log 53: DEDUCED.) (Assumption log 109: DESIGN CHOICE.) -/
def tableFault (table : List Word64) (skim : Bool) : Option (Nat × Nat) :=
  match firstEntry table ttBadKind with
  | some i => some (1, i)
  | none => match firstEntry table ttBadDur with
    | some i => some (2, i)
    | none => match firstEntry table fun w => ttKind w = 6 && decide (table.length ≤ bits w.toNat 9 0) with
      | some i => some (3, i)
      | none =>
        let c := (cycleOf table).filterMap fun i => (table[i]?).map fun w => (i, w)
        let period := c.foldl (fun n p => n + ttDur p.2) 0
        let has (k : Nat) : Bool := c.any fun p => ttKind p.2 = k
        if period = 0 ∨ 2 ^ 20 < period ∨ 1 < (c.filter fun p => ttKind p.2 = 7).length then some (3, 0xFFFF)
        else if !has 1 then some (4, 0xFFFF)
        else match (afterWins c).findSome? fun l => winGap l 0 0 with
          | some i => some (4, i)
          | none =>
            if refsSparse (refStarts c 0) period then some (5, 0xFFFF)
            else if !has 4 then some (6, 0xFFFF)
            else if skim && !has 2 then some (7, 0xFFFF)
            else match (List.zip c (c.drop 1 ++ c.take 1)).find? fun p => ttKind p.1.2 = 5 && !nbFollowed p.2.2 with
              | some p => some (8, p.1.1)
              | none => (firstEntry table fun w => ttKind w = 5 && (nbOf w).bad (ttDur w)).map fun i => (9, i)

/-! ### The operations of a pass (R325) -/

/-- R325. The first entries of the NB operations of a table: an entry that equals the nearest earlier NB entry goes on with its operation. -/
def nbOpsFrom : List Word64 → Nat → Option Nat → List Nat
  | [], _, _ => []
  | w :: l, i, last =>
    if ttKind w = 5 then
      if last = some (ttArg w) then nbOpsFrom l (i + 1) last else i :: nbOpsFrom l (i + 1) (some (ttArg w))
    else nbOpsFrom l (i + 1) last
def nbOps (table : List Word64) : List Nat := nbOpsFrom table 0 none
/-- R325. The operation that an NB entry carries, by its first entry. -/
def opOf (table : List Word64) (i : Nat) : Nat := ((nbOps table).filter fun j => j ≤ i).getLast?.getD i

end Sys2Proof.Machine
end

