-- ==== Sys2Proof/Machine/MemOps.lean ====
section
/-! DEFINITION. Shared memory operations: the first-level cache (spec/08 R136 to R138), the way of an access to its bank, its
pseudo-channel or its link (spec/08 R143, 16 R258, 20 R317, 21 R340), write-back, and lazy release (spec/15 R252, 22 R357). -/
namespace Sys2Proof.Machine

/-! ### First-level cache -/

/-- R136. The set of a physical address. -/
def l1Set (pa : Nat) : Nat := bits pa 14 6
/-- R136. The words a set holds: 80, and 16 for each bank in CACHE mode. -/
def Core.l1Words (k : Core) : Nat :=
  80 + 16 * ((List.range 32).filter fun b => (k.bank b).mode = .cache).length
/-- The byte a block word holds at a physical address. -/
def CacheWord.byte? (w : CacheWord) (pa : Nat) : Option Byte :=
  if w.addr = pa / 8 ∧ w.held[pa % 8]?.getD false then w.data[pa % 8]? else none
/-- The byte a block holds at a physical address. -/
def CacheBlock.byte? (b : CacheBlock) (pa : Nat) : Option Byte := b.words.findSome? fun w => w.byte? pa
/-- R136. The byte the core's first-level cache holds at a physical address. -/
def Core.l1Byte? (k : Core) (pa : Nat) : Option Byte :=
  (AMap.getD k.l1 (l1Set pa) []).findSome? fun b => b.byte? pa
/-- R136. The bytes of an access that hits: every byte is held. -/
def Core.l1Read? (k : Core) (pa n : Nat) : Option (List Byte) :=
  (List.range n).mapM fun i => k.l1Byte? (pa + i)

/-- Writes one byte of a word that a block holds (R137: a write makes it dirty). -/
def CacheWord.put (w : CacheWord) (pa : Nat) (b : Byte) (dirty : Bool) : CacheWord :=
  if w.addr = pa / 8 then
    { w with data := Vector.ofFn fun i : Fin 8 => if i.val = pa % 8 then b else w.data[i],
             held := Vector.ofFn fun i : Fin 8 => if i.val = pa % 8 then true else w.held[i],
             dirty := Vector.ofFn fun i : Fin 8 => if i.val = pa % 8 then dirty else w.dirty[i] }
  else w
/-- The block has a word for the address. -/
def CacheBlock.hasWord (b : CacheBlock) (pa : Nat) : Bool := b.words.any fun w => w.addr = pa / 8
/-- Writes one byte into the block that holds its word, and moves the block to the front of its set (least recently used). -/
def l1PutHit (set : List CacheBlock) (pa : Nat) (b : Byte) : Option (List CacheBlock) :=
  match set.find? (fun x => x.hasWord pa) with
  | none => none
  | some blk => some ({ blk with words := blk.words.map fun w => w.put pa b true } :: set.erase blk)
/-- An empty word. -/
def CacheWord.empty (addr : Nat) : CacheWord :=
  { addr := addr, data := Vector.replicate 8 0, held := Vector.replicate 8 false, dirty := Vector.replicate 8 false }
/-- The words that a set's blocks take up. -/
def setWords (set : List CacheBlock) : Nat := set.foldl (fun n b => n + b.words.length) 0
/-- The dirty bytes of a word, as writes to below. -/
def CacheWord.dirtyBytes (w : CacheWord) : List (Nat × Byte) :=
  (List.range 8).filterMap fun i => if w.dirty[i]?.getD false then (w.data[i]?).map fun x => (8 * w.addr + i, x) else none
/-- The dirty bytes of a block. -/
def CacheBlock.dirtyBytes (b : CacheBlock) : List (Nat × Byte) := b.words.flatMap CacheWord.dirtyBytes
/-- Puts a word in its place by address. -/
def insertWord (w : CacheWord) : List CacheWord → List CacheWord
  | [] => [w]
  | x :: l => if w.addr ≤ x.addr then w :: x :: l else x :: insertWord w l
/-- Words by address. -/
def sortWords (l : List CacheWord) : List CacheWord := l.foldr insertWord []
/-- R136. Words in order as runs of contiguous words of a sector, which one block can hold. -/
def wordRuns : List CacheWord → List (List CacheWord)
  | [] => []
  | w :: l =>
    match wordRuns l with
    | (x :: t) :: r => if x.addr = w.addr + 1 ∧ x.addr % 8 ≠ 0 then (w :: x :: t) :: r else [w] :: (x :: t) :: r
    | r => [w] :: r
/-- R136. Evicts until a set fits: stream blocks first, then the least recently used; the dirty bytes of what goes.
(Assumption log 27: DEDUCED.) -/
def evict (cap : Nat) : Nat → List CacheBlock → List CacheBlock × List (Nat × Byte)
  | 0, set => (set, [])
  | fuel + 1, set =>
    if setWords set ≤ cap then (set, [])
    else
      let victim := (set.reverse.find? fun b => b.stream).orElse fun _ => set.getLast?
      match victim with
      | none => (set, [])
      | some v =>
        let rest := (set.reverse.erase v).reverse
        let r := evict cap fuel rest
        (r.1, v.dirtyBytes ++ r.2)

/-! ### Filling a pending load -/

/-- A part of a load whose value is bound (R347). -/
def Part.bound (q : Part) : Bool := q.data.isSome
/-- Fills the parts of the pending load of a bundle's slot that start at `off`: the value, if there is one, is bound unless it was bound before,
and is back at `readyAt` if that is known. -/
def Pend.fill (p : Pend) (bid : Nat) (slot : Slot) (off : Nat) (data : Option (List Byte)) (readyAt : Option Nat) : Pend :=
  if p.bid = bid ∧ p.slot = slot then
    match p.kind with
    | .load d parts => { p with kind := .load d (parts.map fun q =>
        if q.off = off then { q with data := q.data.orElse fun _ => data, readyAt := q.readyAt.orElse fun _ => readyAt } else q) }
    | _ => p
  else p
/-- Binds data to a pending load of a context. -/
def State.fillLoad (s : State) (k c bid : Nat) (slot : Slot) (off : Nat) (data : List Byte) (readyAt : Option Nat) : State :=
  s.modCtx k c fun x => { x with pend := x.pend.map fun p => p.fill bid slot off (some data) readyAt }
/-- R366. An uncorrectable error lies in one of the 64-bit words of a range.
(Assumption log 83: PRESUMED.) -/
def State.poisoned (s : State) (a n : Nat) : Bool := s.poison.any fun w => decide (a / 8 ≤ w / 8 ∧ w / 8 ≤ (a + n - 1) / 8)
/-- R366. The number under which a stencil entry of a context, or a pattern-book entry of a core, stands among words with an uncorrectable
error.
(Assumption log 83: PRESUMED.) -/
def stenWord (k c i : Nat) : Nat := 2 ^ 61 + (4 * k + c) * 2 ^ 12 + 8 * i
def bookWord (k i : Nat) : Nat := 2 ^ 61 + 2 ^ 40 + k * 2 ^ 12 + 8 * i
/-- R366. The number under which a word of a core's first-level cache stands.
(Assumption log 83: PRESUMED.) -/
def l1Word (k pa : Nat) : Nat := 2 ^ 62 + k * 2 ^ 48 + pa
/-- R366. An error in an array of a core is counted. -/
def State.countCore (s : State) (k : Nat) : State := s.modCore k fun c => { c with errors := c.errors + 1 }
/-- R366. A word is bad from now on. -/
def State.poisonWord (s : State) (a : Nat) : State := { s with poison := a / 8 * 8 :: s.poison.erase (a / 8 * 8) }
/-- R366. A bank changes an 8-byte word of its own from what it holds: one with an uncorrectable error, which is counted, stays bad for its next
reader.
(Assumption log 83: PRESUMED.) -/
def State.spadUpdate (s : State) (k a x : Nat) : State :=
  let t := s.spadWrite k a (leBytes 8 x)
  if s.poisoned (spadAddr k a) 8 then (t.poisonWord (spadAddr k a)).countCore k else t
/-- R366. New contents make words sound. -/
def State.heal (s : State) (a n : Nat) : State := { s with poison := healed s.poison a n }
/-- R146. The order in which failures that are found by the landing cycle are reported. -/
def lateOrder (cause : Nat) : Nat := if cause = causeXlate then 0 else if cause = causeAttr then 1 else 2
/-- R146. Of two failures of a load, with the places of their parts, the one to report: the cause that stands first in the table, then the
lowest lane. -/
def worseFault (old : Trap) (oldOff : Nat) (new : Trap) (newOff : Nat) : Trap :=
  if lateOrder new.cause < lateOrder old.cause ∨ (lateOrder new.cause = lateOrder old.cause ∧ newOff < oldOff) then new else old
/-- R341. The data of a part are still on their way at a moment. -/
def Part.coming (q : Part) (now : Nat) : Bool := match q.readyAt with | some t => decide (now < t) | none => true
/-- Marks a pending load as faulting, found by its landing cycle (R146, R200); TRAPINFO is the address of the part at `off`. -/
def Pend.fail (p : Pend) (bid : Nat) (slot : Slot) (off cause now : Nat) : Pend :=
  if p.bid = bid ∧ p.slot = slot then
    match p.kind with
    | .load d parts =>
      match parts.find? fun q => q.off = off && q.coming now with
      | none => p
      | some q =>
        let new : Trap := ⟨cause, slot.code, q.ea, 6⟩
        let parts' := parts.map fun q => if q.off = off && q.coming now then
          { q with data := q.data.orElse fun _ => some (List.replicate q.len 0), readyAt := some now } else q
        let fault := match p.fault with
          | some old => worseFault old (match parts.find? fun q => q.ea = old.info with | some q => q.off | none => 0) new off
          | none => new
        { p with kind := .load d parts', fault := some fault }
    | _ => p
  else p
/-- A part of a pending load fails. -/
def State.failLoad (s : State) (k c bid : Nat) (slot : Slot) (off cause : Nat) : State :=
  s.modCtx k c fun x => { x with pend := x.pend.map fun p => p.fail bid slot off cause s.sfc }

/-! ### Die links (R13, R335, R339) -/

/-- R335. Traffic flows on a link. -/
def Link.flows (l : Link) : Bool := decide (l.state = .up ∨ l.state = .degraded)
/-- R13. The die link between two dies: 01, 02, 03, 12, 13, 23 in order (assumption log 62).
(Assumption log 62: PRESUMED.) -/
def dieLink (a b : Nat) : Nat := min a b * (5 - min a b) / 2 + max a b - 1
/-- R339, R341. Two dies exchange traffic.
(Assumption log 62: PRESUMED.) -/
def State.diesJoined (s : State) (a b : Nat) : Bool := a % 4 = b % 4 || (s.link (dieLink (a % 4) (b % 4))).flows
/-- R277, R317. The pseudo-channel (256 x die + 2 x channel + PC) that holds a physical address: that of a bank-striped frame, or as addresses
interleave.
(Assumption log 61: DESIGN CHOICE.) -/
def homePc (pa : Nat) : Nat :=
  match Config.striped (pa / 2 ^ 21) with | some pc => pc % 1024 | none => Config.homePc (pa / 64) % 1024
/-- R277, R283. The row of a physical address in its pseudo-channel: bank + 16 x row. Byte o of a bank-striped frame lies in bank
(o div 2048) mod 16, in the frame's row o div 32,768.
(Assumption log 61: DESIGN CHOICE.) -/
def homeRow (pa : Nat) : Nat :=
  match Config.striped (pa / 2 ^ 21) with
  | some _ => 16 * (Config.homeRow (pa / 2 ^ 21 * 2 ^ 21) / 1024 * 64 + pa % 2 ^ 21 / 32768) + pa / 2048 % 16
  | none => Config.homeRow pa
/-- R317. The die that holds a physical address.
(Assumption log 61: DESIGN CHOICE.) -/
def homeDie (pa : Nat) : Nat := homePc pa / 256

/-! ### The last-level cache (R13, R137, R347) -/

/-- R13. The 64-byte sectors that a die's last-level cache holds: 128 MiB. -/
def llcSectors : Nat := 2 ^ 21
/-- R347. The last-level cache of a sector's die holds it: an access to it needs no DRAM.
(Assumption log 25: DEDUCED.) -/
def State.llcHit (s : State) (pa : Nat) : Bool := (s.die (homeDie pa)).llc.contains (pa / 64)
/-- R137. Policies 00 and 01 allocate in the last-level cache; which sector a full one gives up is a free choice.
(Assumption log 25: DEDUCED.) -/
def State.llcPut (s : State) (pa policy : Nat) : State :=
  if 2 ≤ policy ∨ s.llcHit pa then s
  else
    let l := (s.die (homeDie pa)).llc
    let l := if l.length < llcSectors then l else l.eraseIdx (Config.draw s.free % llcSectors)
    ({ s with free := s.free + 1 }).modDie (homeDie pa) fun d => { d with llc := pa / 64 :: l }

/-! ### Trace (R370) -/

/-- R20, R370. Writes a trace record into the ring, at its device virtual base, in the last-level cache, or counts it as dropped when the ring is full.
(Assumption log 25: DEDUCED.) (Assumption log 35: PRESUMED.) -/
def State.traceRec (s : State) (r : TraceRec) : State :=
  if s.trace.size = 0 ∨ ¬ bitAt s.trace.mask r.type then s
  else if s.trace.size ≤ 32 * s.trace.index then { s with trace := { s.trace with dropped := s.trace.dropped + 1 } }
  else
    let s' := { s with trace := { s.trace with index := s.trace.index + 1 } }
    match translate s 0 (s.trace.base + 32 * s.trace.index) with
    | some l =>
      (s'.put l.pa
        (leBytes 8 (r.type + 256 * (r.core / 128) + 2 ^ 16 * (r.core % 128) + 2 ^ 24 * r.ctx)
          ++ leBytes 8 r.addr ++ leBytes 8 r.sfc ++ leBytes 8 r.payload)).llcPut l.pa 0
    | none => s'

/-! ### Translation lookaside buffers (R276) -/

/-- R276. The entry of a page in a buffer. -/
def tlbFind (l : List TlbEntry) (va size : Nat) : Option TlbEntry := l.find? fun e => e.va = va / size * size ∧ e.size = size
/-- R276. Adds an entry to a buffer of n entries; which one a full buffer gives up is a free choice.
(Assumption log 25: DEDUCED.) -/
def tlbAdd (l : List TlbEntry) (n free : Nat) (e : TlbEntry) : List TlbEntry :=
  e :: if l.length < n then l else l.eraseIdx (Config.draw free % n)
/-- R276. The moment at which a walk that is asked for now may start: at once while fewer than 64 walks run on the die, else when a walker is
free. -/
def walkStart (l : List TlbEntry) (now : Nat) : Nat :=
  let ends := (l.filter fun e => decide (now < e.readyAt)).map fun e => e.readyAt
  (ends.filter fun t => 64 ≤ (ends.filter fun u => decide (t ≤ u)).length).foldl max now
/-- R276, R385. The SFC value from which a core's access to a page of a size is translated: now when the core's buffer holds it; with the walk that
is under way for it; a free time of up to 8 ticks later from the die's buffer, or after a walk.
(Assumption log 25: DEDUCED.) -/
def State.tlbTime (s : State) (k va size : Nat) : Nat × State :=
  let base := va / size * size
  let d := k / 128
  let core := s.core k
  match tlbFind core.tlb va size with
  | some e => (max s.sfc e.readyAt, s)
  | none =>
    let s' : State := { s with free := s.free + 3 }
    let enter (s : State) (t : Nat) : State :=
      s.modCore k fun x => { x with tlb := tlbAdd x.tlb 512 (s.free + 1) ⟨base, size, t⟩ }
    match tlbFind (s.die d).tlb va size with
    | some e =>
      let t := max s.sfc e.readyAt + Config.draw s.free % 33
      (t, enter s' t)
    | none =>
      let t := walkStart (s.die d).tlb s.sfc + Config.draw s.free % 33
      (t, (enter s' t).modDie d fun x => { x with tlb := tlbAdd x.tlb 65536 (s.free + 2) ⟨base, size, t⟩ })
/-- R282. The buffers of some dies lose the entries of a range of pages. -/
def State.tlbDrop (s : State) (dies : List Nat) (va size : Nat) : State :=
  let keep (e : TlbEntry) : Bool := !decide (va ≤ e.va ∧ e.va < va + size)
  let drop (e : Nat × Core) : Nat × Core := if dies.contains (e.1 / 128) then (e.1, { e.2 with tlb := e.2.tlb.filter keep }) else e
  let s : State := { s with cores := s.cores.map drop }
  dies.foldl (fun s d => s.modDie d fun x => { x with tlb := x.tlb.filter keep }) s

/-! ### Pseudo-channel queues -/

/-- R316. The channel of a pseudo-channel number. -/
def chanOfPc (pc : Nat) : Nat := pc % 1024 / 2
/-- R341. An access fails with its link: a read with XLATE; a write on its way, or a prefetch, is lost.
(Assumption log 64: DEDUCED.) -/
def State.failReq (s : State) (r : DramReq) : State :=
  if r.bytes.isSome || r.prefetch then s else s.failLoad r.core r.ctx r.bid r.slot r.off causeXlate
/-- R317, R385. A queue with one more access, in the order in which they reach the pseudo-channel: after those of its context. -/
def enqueue (q : List DramReq) (r : DramReq) : List DramReq :=
  let r := { r with due := (q.filter fun x => x.core = r.core && x.ctx = r.ctx).foldl (fun m x => max m x.due) r.due }
  (q.takeWhile fun x => decide (x.due ≤ r.due)) ++ [r] ++ q.dropWhile fun x => decide (x.due ≤ r.due)
/-- R317, R335, R339, R385. Sends an ordinary access, translated by `r.due`, to its pseudo-channel's queue: there within 8 ticks, and from another
die, over the link, 80 ticks more.
(Assumption log 7: DEDUCED.) (Assumption log 61: DESIGN CHOICE.) -/
def State.queueDram (s : State) (r : DramReq) : State :=
  let pc := homePc r.addr
  let way := Config.draw s.free % 33 + if r.core / 128 = pc / 256 then 0 else Config.draw (s.free + 1) % 321
  let r := { r with sent := s.sfc, due := max r.due s.sfc + way }
  if !s.diesJoined (r.core / 128) (pc / 256) then s.failReq r
  else ({ s with free := s.free + 2 }).modChan (chanOfPc pc) fun ch =>
    if pc % 2 = 0 then { ch with q0 := enqueue ch.q0 r } else { ch with q1 := enqueue ch.q1 r }
/-- A write of bytes to below, for a core and context, under a policy. -/
def writeReq (k c addr : Nat) (bs : List Byte) (policy : Nat) : DramReq :=
  { core := k, ctx := c, bid := 0, slot := .d, off := 0, addr := addr, len := bs.length, bytes := some bs, policy := policy, prefetch := false }
/-- R136. Bytes in order as runs of consecutive addresses within a 64-byte sector.
(Assumption log 58: DEDUCED.) -/
def runsOf : List (Nat × Byte) → List (Nat × List Byte)
  | [] => []
  | p :: l =>
    match runsOf l with
    | (a, bs) :: t => if a = p.1 + 1 ∧ a % 64 ≠ 0 then (p.1, p.2 :: bs) :: t else (p.1, [p.2]) :: (a, bs) :: t
    | [] => [(p.1, [p.2])]
/-- R366. The words of n bytes from an address on that have an uncorrectable error in a core's first-level cache.
(Assumption log 83: PRESUMED.) -/
def State.badWords (s : State) (k pa n : Nat) : List Nat :=
  if s.poison.isEmpty then []
  else ((List.range ((pa + n - 1) / 8 - pa / 8 + 1)).map fun i => pa / 8 * 8 + 8 * i).filter fun w => s.poisoned (l1Word k w) 8
/-- R137, R317, R366. Bytes on their way to their homes, one write for each run, under the policy of their address, with the errors of the words that
a core's first-level cache held.
(Assumption log 58: DEDUCED.) -/
def State.queueBytes (s : State) (k c : Nat) (policy : Nat → Nat) (l : List (Nat × Byte)) : State :=
  (runsOf l).foldl (fun s p => s.queueDram { writeReq k c p.1 p.2 (policy p.1) with bad := s.badWords k p.1 p.2.length }) s
/-- R137. The policy under which the bytes that the blocks of a set give up go below: a stream block's do not stay in the last-level cache. -/
def blockPolicy (set : List CacheBlock) (pa : Nat) : Nat := if set.any fun b => b.stream && b.words.any fun w => w.addr = pa / 8 then 3 else 0

/-- R358. A byte of global memory as an engine command of a core reads it: a dirty copy of the core's own first-level cache, else the
latest write of the core on its way, else the home.
(Assumption log 25: DEDUCED.) -/
def State.enginePhys (s : State) (k pa : Nat) : Byte :=
  let ch := s.chan (chanOfPc (homePc pa))
  let below := (ch.q0 ++ ch.q1).foldl (fun b r => match r.bytes with
    | some bs => if r.core = k ∧ r.addr ≤ pa then (bs[pa - r.addr]?).getD b else b
    | none => b) (Memory.get s.mem pa)
  let held := (AMap.getD (s.core k).l1 (l1Set pa) []).findSome? fun b => b.words.findSome? fun w =>
    if w.addr = pa / 8 ∧ w.dirty[pa % 8]?.getD false then w.data[pa % 8]? else none
  held.getD below
/-- R347. A physical address in a window of an armed pass: single-copy storage while the pass lasts. -/
def State.nearArmed (s : State) (pa : Nat) : Bool :=
  s.chans.any fun e => match e.2.pass with
    | some p => p.frames.any fun f => decide (f.2 ≤ pa ∧ pa < f.2 + 2 ^ 21)
    | none => false

/-- R136. A byte of global memory as a load of the core reads it: the core's first-level copy of the byte, clean or dirty, else as an engine
of the core does; the storage of a window of an armed pass has no copies.
(Assumption log 24: DEDUCED.) -/
def State.loadPhys (s : State) (k pa : Nat) : Byte :=
  if s.nearArmed pa then Memory.get s.mem pa else ((s.core k).l1Byte? pa).getD (s.enginePhys k pa)
/-- R136. A word has bytes that came from below. -/
def CacheWord.fromBelow (w : CacheWord) : Bool := (List.range 8).any fun i => w.held[i]?.getD false && !(w.dirty[i]?.getD false)
/-- R366. The words of a core's first-level cache that have new contents are sound, but for one with bytes of a bad word below.
(Assumption log 83: PRESUMED.) -/
def State.renewWords (s : State) (k : Nat) (l : List CacheWord) : State :=
  if s.poison.isEmpty then s
  else l.foldl (fun s w =>
    let s := s.heal (l1Word k (8 * w.addr)) 8
    if w.fromBelow && s.poisoned (8 * w.addr) 8 then s.poisonWord (l1Word k (8 * w.addr)) else s) s
/-- R366. Words that a core's first-level cache no longer holds have no error there. -/
def State.forgetWords (s : State) (k : Nat) (old new : List CacheBlock) : State :=
  if s.poison.isEmpty then s
  else ((old.flatMap fun b => b.words).filter fun w => !new.any fun b => b.hasWord (8 * w.addr)).foldl (fun s w => s.heal (l1Word k (8 * w.addr)) 8) s
/-- R136, R137. Puts a block at the front of its set, evicting of the others what no longer fits.
(Assumption log 27: DEDUCED.) -/
def State.l1Insert (s : State) (k c : Nat) (pa : Nat) (blk : CacheBlock) : State :=
  let core := s.core k
  let set := AMap.getD core.l1 (l1Set pa) []
  let r := evict (core.l1Words - blk.words.length) set.length set
  let s := s.setCore k { core with l1 := AMap.set core.l1 (l1Set pa) (blk :: r.1) }
  ((s.queueBytes k c (blockPolicy set) r.2).forgetWords k set r.1).renewWords k blk.words
/-- R136. Puts words that the cache lacks into blocks, one for each run of contiguous words. -/
def State.l1InsertWords (s : State) (k c : Nat) (stream : Bool) (l : List CacheWord) : State :=
  (wordRuns l).foldl (fun s ws => match ws with
    | [] => s
    | w :: _ => s.l1Insert k c (8 * w.addr) { stream := stream, words := ws }) s
/-- R136. A word with every byte it lacks as it is below. -/
def State.completeWord (s : State) (k : Nat) (w : CacheWord) : CacheWord :=
  { w with data := Vector.ofFn fun j : Fin 8 => if w.held[j] then w.data[j] else s.enginePhys k (8 * w.addr + j.val),
           held := Vector.replicate 8 true }
/-- R137. A set has a word for a byte. -/
def Core.l1Has (k : Core) (pa : Nat) : Bool := (AMap.getD k.l1 (l1Set pa) []).any fun b => b.hasWord pa
/-- R136, R137. Fills words `first` to `first + n - 1` of a sector: those present get the bytes that they lack, the others come in as new
blocks. -/
def State.l1Fill (s : State) (k c sector first n : Nat) (stream : Bool) : State :=
  let core := s.core k
  let mine (w : CacheWord) : Bool := decide (sector * 8 + first ≤ w.addr ∧ w.addr < sector * 8 + first + n)
  let set := (AMap.getD core.l1 (l1Set (sector * 64)) []).map fun b =>
    { b with words := b.words.map fun w => if mine w then s.completeWord k w else w }
  let missing := ((List.range n).map fun i => sector * 8 + first + i).filter fun a => !core.l1Has (8 * a)
  let lacks (w : CacheWord) : Bool := mine w && !(List.range 8).any fun i => w.held[i]?.getD false
  let refilled := ((AMap.getD core.l1 (l1Set (sector * 64)) []).flatMap fun b => b.words.filter lacks).map (s.completeWord k)
  let s := s.renewWords k refilled
  (s.setCore k { core with l1 := AMap.set core.l1 (l1Set (sector * 64)) set }).l1InsertWords k c stream
    (missing.map fun a => s.completeWord k (CacheWord.empty a))
/-- R137. The word that a write miss allocates: only the written bytes, or for a 1- or 2-byte store the whole word as it is below. -/
def State.newWord (s : State) (k a : Nat) (small : Bool) : CacheWord :=
  if small then s.completeWord k (CacheWord.empty a) else CacheWord.empty a
/-- R137. Writes one byte at CORE scope into the block that holds its word. -/
def State.l1Write (s : State) (k : Nat) (p : Nat × Byte) : State :=
  let core := s.core k
  match l1PutHit (AMap.getD core.l1 (l1Set p.1) []) p.1 p.2 with
  | some set => s.setCore k { core with l1 := AMap.set core.l1 (l1Set p.1) set }
  | none => s
/-- Bytes from an address on, each with its address. -/
def bytesAt (a : Nat) (bs : List Byte) : List (Nat × Byte) := ((List.range bs.length).zip bs).map fun p => (a + p.1, p.2)
/-- R137. Writes bytes from an address on at CORE scope: where the block of the word is there, into it; else into a new dirty block, or below
under policies 1 and 2.
(Assumption log 27: DEDUCED.) -/
def State.l1Store (s : State) (k c pa : Nat) (bs : List Byte) (policy : Nat) (small : Bool) : State :=
  let l := bytesAt pa bs
  let words := (List.range ((pa + bs.length - 1) / 8 - pa / 8 + 1)).map fun i => pa / 8 + i
  let absent := words.filter fun a => !(s.core k).l1Has (8 * a)
  let hits := l.filter fun p => !absent.contains (p.1 / 8)
  let fresh (a : Nat) : CacheWord := (l.filter fun p => p.1 / 8 = a).foldl (fun w p => w.put p.1 p.2 true) (s.newWord k a small)
  let s := (hits.foldl (fun s p => s.l1Write k p) s).heal (l1Word k pa) bs.length
  if policy = 0 ∨ policy = 3 then s.l1InsertWords k c (policy = 3) (absent.map fresh)
  else s.queueBytes k c (fun _ => policy) (l.filter fun p => absent.contains (p.1 / 8))
/-- R136. A read, be it a hit in part: the blocks it touches become the most recently used of their set.
(Assumption log 27: DEDUCED.) -/
def State.l1Touch (s : State) (k pa n : Nat) : State :=
  let core := s.core k
  let set := AMap.getD core.l1 (l1Set pa) []
  let hit (b : CacheBlock) : Bool := b.words.any fun w => decide (pa / 8 ≤ w.addr ∧ w.addr ≤ (pa + n - 1) / 8)
  if set.any hit then s.setCore k { core with l1 := AMap.set core.l1 (l1Set pa) (set.filter hit ++ set.filter fun b => !hit b) } else s
/-- R357. Writes back the dirty bytes of the sectors that `sel` selects, and keeps the blocks clean. -/
def State.writeBack (s : State) (k c : Nat) (sel : Nat → Bool) : State :=
  let core := s.core k
  let dirty := core.l1.flatMap fun e => ((sortWords (e.2.flatMap fun b => b.words)).flatMap CacheWord.dirtyBytes).filter fun p => sel (p.1 / 64)
  let clean (w : CacheWord) : CacheWord := if sel (w.addr / 8) then { w with dirty := Vector.replicate 8 false } else w
  let s := s.setCore k { core with l1 := core.l1.map fun e => (e.1, e.2.map fun b => { b with words := b.words.map clean }) }
  s.queueBytes k c (fun pa => blockPolicy (AMap.getD core.l1 (l1Set pa) []) pa) dirty
/-- R357. Drops the core's copies of every block that touches a sector `sel` selects, after writing back what is dirty in them.
(Assumption log 24: DEDUCED.) -/
def State.dropCopies (s : State) (k c : Nat) (sel : Nat → Bool) : State :=
  let s := s.writeBack k c sel
  s.modCore k fun core => { core with l1 := core.l1.map fun e => (e.1, e.2.filter fun b => !b.words.any fun w => sel (w.addr / 8)) }

/-- A word without its clean copies. -/
def CacheWord.dropClean (w : CacheWord) : CacheWord :=
  { w with held := Vector.ofFn fun i : Fin 8 => w.held[i] && w.dirty[i] }
/-- R347. Writes performed at a scope of a die (`wide` false) or of the module leave no older first-level copy in it: the other cores lose
their clean copies of the sectors that `sel` selects.
(Assumption log 24: DEDUCED.) -/
def State.purgeStale (s : State) (k : Nat) (wide : Bool) (sel : Nat → Bool) : State :=
  let word (w : CacheWord) : CacheWord := if sel (w.addr / 8) then w.dropClean else w
  let block (b : CacheBlock) : CacheBlock := { b with words := b.words.map word }
  let core (e : Nat × Core) : Nat × Core :=
    if e.1 ≠ k ∧ (wide ∨ e.1 / 128 = k / 128) then (e.1, { e.2 with l1 := e.2.l1.map fun x => (x.1, x.2.map block) }) else e
  { s with cores := s.cores.map core }

/-- R251. Writes of a context that have not reached their homes: its own on their way, and those that its core has written back for another
context. -/
def State.writesQueued (s : State) (k c : Nat) : Bool :=
  s.chans.any fun e => (e.2.q0 ++ e.2.q1).any fun r =>
    r.bytes.isSome && r.core = k && (r.ctx = c || (s.ctx k c).wrote.contains (r.addr / 64))

/-! ### Parties of a bank's order (R258) -/

/-- The number under which the engines that work for a context of a core stand in a bank's order, beside the contexts 0 to 3; and that of the
scheduler, which fills banks for a task (R219). -/
def engineParty (c : Nat) : Nat := if c < 4 then 4 + c else c
def schedParty : Nat := 8
/-- R216, R219. What the scheduler writes into a bank for a task has still to be performed, behind what reached the bank before (R258). -/
def Bank.filling (b : Bank) : Bool := b.queue.any fun it => it.ctx = schedParty
/-- R216. The placement of a context's task is not complete: one of its own banks still lacks a record or the descriptor. -/
def Core.placing (x : Core) (c : Nat) : Bool :=
  match (x.ctx c).task with | some t => !t.started && x.banks.any fun b => b.owner = some t.id && b.filling | none => false
/-- R358. An item of a context of a core, or of the engines that work for it. -/
def BankItem.mine (it : BankItem) (k c : Nat) : Bool := it.core = k && (it.ctx = c || it.ctx = engineParty c)
/-- A load of a bank's order. -/
def BankItem.isLoad (it : BankItem) : Bool := match it.work with | .load _ _ _ _ _ => true | _ => false
/-- Bytes to store, or to load: what a bank performs as soon as it is at the head of its order. -/
def BankItem.plain (it : BankItem) : Bool := match it.work with | .store _ => true | .load _ _ _ _ _ => true | _ => false
/-- R258. A trowel command. -/
def BankItem.command (it : BankItem) : Bool := match it.work with | .trowel _ _ _ _ => true | _ => false
/-- A byte with the stores of a list of items laid over it. -/
def overlayStores (l : List BankItem) (a : Nat) (b : Byte) : Byte :=
  l.foldl (fun b it => match it.work with
    | .store bs => (match bs.reverse.find? fun p => p.1 = a with | some p => p.2 | none => b)
    | _ => b) b
/-- The item of a part of a load, or of an atomic, of a context. -/
def BankItem.isPart (it : BankItem) (k c bid : Nat) (slot : Slot) (off : Nat) : Bool :=
  it.core = k && it.ctx = c && (match it.work with
    | .load b sl o _ _ => b = bid && sl = slot && o = off
    | .trowel (.atomic _ _ _) _ b _ => b = bid && slot = .e
    | _ => false)
/-- The request of a part of a load of a context. -/
def DramReq.isPart (r : DramReq) (k c bid : Nat) (slot : Slot) (off : Nat) : Bool :=
  r.core = k && r.ctx = c && r.bytes.isNone && !r.prefetch && r.bid = bid && r.slot = slot && r.off = off

/-! ### Pending loads -/

/-- R340. A physical address of another module. -/
def remotePa (pa : Nat) : Bool := decide (bits pa 47 46 = 1)
/-- The oldest bundle of a context that has not retired. -/
def Ctx.oldest (x : Ctx) : Nat := match x.inflight with | i :: _ => i.bid | [] => x.nextBid
/-- A bundle has retired. -/
def Ctx.past (x : Ctx) (b : Option Nat) : Bool := match b with | some b => decide (b < x.oldest) | none => true
/-- What is on its way to a bank. -/
def State.comingTo (s : State) (k b : Nat) : List BankItem := (s.transit.filter fun t => t.2.1 = k ∧ t.2.2.1 = b).map fun t => t.2.2.2
/-- What a bank has to perform before a part of a window load: of its order, and of what is on its way. -/
def State.aheadAt (s : State) (k c bid : Nat) (slot : Slot) (off k' b : Nat) : List BankItem × List BankItem :=
  let before (it : BankItem) : Bool := !it.isPart k c bid slot off
  let q := (s.bank k' b).queue
  let l := q.takeWhile before
  (l, if l.length < q.length then [] else (s.comingTo k' b).takeWhile before)
/-- R347, R350. A window load on its way may be bound now, as one that reaches its bank now: the context's accesses before it have reached the
bank, and it stands behind none of them, and behind no command or arrival that was there before it was sent, that is more than a store.
(Assumption log 99: DEDUCED.) -/
def State.windowFree (s : State) (k c bid : Nat) (slot : Slot) (off k' a : Nat) : Bool :=
  let l := s.aheadAt k c bid slot off k' (a / 65536)
  match ((s.bank k' (a / 65536)).queue ++ s.comingTo k' (a / 65536)).find? fun it => it.isPart k c bid slot off with
  | none => false
  | some it => !(l.2.any fun o => o.mine k c && !o.isLoad)
      && (l.1.dropWhile BankItem.plain).all fun o => !(o.mine k c && !o.isLoad) && (o.plain || decide (it.sent ≤ max o.sent o.came))
/-- A part whose value is still to be bound may be bound now, by itself.
(Assumption log 99: DEDUCED.) -/
def State.softPart (s : State) (k c bid : Nat) (slot : Slot) (q : Part) : Bool :=
  q.data.isNone && match q.loc with
  | some (.phys pa) => !remotePa pa && (s.ctx k c).past q.after
  | some (.window k' a) => k' ≠ k && s.windowFree k c bid slot q.off k' a
  | _ => false
/-- R350 to R353. A part that a later load of the context waits for: it is not bound and cannot be bound now. A part on a device link, and a
scheduler's answer, keep none waiting.
(Assumption log 99: DEDUCED.) -/
def State.hardPart (s : State) (k c bid : Nat) (slot : Slot) (d : LoadDest) (q : Part) : Bool :=
  q.data.isNone && match q.loc with
  | none => (match d with | .atomic _ => true | _ => false)
  | some (.phys pa) => !remotePa pa && !(s.ctx k c).past q.after
  | some _ => !s.softPart k c bid slot q
/-- A part of a load, or an atomic, stands in the order of a bank of the context's own core. -/
def State.stands (s : State) (k c bid : Nat) (slot : Slot) (off : Nat) : Bool :=
  (s.core k).banks.any fun b => b.queue.any fun it => it.isPart k c bid slot off
/-- R350 to R353. Something before bundle `bid` of a context has still to be performed; with `far`, something that does not stand in the order
of a bank of its core.
(Assumption log 99: DEDUCED.) -/
def State.hardBefore (s : State) (k c bid : Nat) (far : Bool) : Bool :=
  (s.ctx k c).pend.any fun p => decide (p.bid < bid) && match p.kind with
    | .load d parts => parts.any fun q => s.hardPart k c p.bid p.slot d q && !(far && s.stands k c p.bid p.slot q.off)
    | _ => false
/-- R347. A byte of a row of an armed pass as a part of a load reads it: with the writes that stand before it at the channel. -/
def State.rowByte (s : State) (k c bid : Nat) (slot : Slot) (off pa : Nat) : Byte :=
  let ch := s.chan (chanOfPc (homePc pa))
  let q := if homePc pa % 2 = 0 then ch.q0 else ch.q1
  (q.takeWhile fun r => !r.isPart k c bid slot off).foldl (fun b r => match r.bytes with
    | some bs => if r.addr ≤ pa then (bs[pa - r.addr]?).getD b else b
    | none => b) (Memory.get s.mem pa)
/-- The bytes of a place as a part of a load reads them now. -/
def State.placeNow (s : State) (k c bid : Nat) (slot : Slot) (q : Part) (w : Where) : List Byte :=
  match w with
  | .spad a => s.spadRead k a q.len
  | .window k' a =>
    let l := (s.aheadAt k c bid slot q.off k' (a / 65536)).1.takeWhile BankItem.plain
    (List.range q.len).map fun i => overlayStores l (a + i) (Memory.get s.mem (spadAddr k' (a + i)))
  | .phys pa => (List.range q.len).map fun i => if s.nearArmed pa then s.rowByte k c bid slot q.off (pa + i) else s.loadPhys k (pa + i)
/-- R350 to R353. Loads are performed in issue order: the parts before bundle `bid` that may be bound now are bound with the values of this moment;
their data come back when their accesses do.
(Assumption log 99: DEDUCED.) -/
def State.bindBefore (s : State) (k c bid : Nat) : State :=
  let now (p : Pend) (q : Part) : Part := match q.loc with
    | some w => if s.softPart k c p.bid p.slot q then { q with data := some (s.placeNow k c p.bid p.slot q w) } else q
    | none => q
  let pend (p : Pend) : Pend := match p.kind with
    | .load d parts => if p.bid < bid then { p with kind := .load d (parts.map (now p)) } else p
    | _ => p
  if (s.ctx k c).pend.any fun p => decide (p.bid < bid) && (match p.kind with | .load _ parts => parts.any (s.softPart k c p.bid p.slot) | _ => false)
  then s.modCtx k c fun x => { x with pend := x.pend.map pend }
  else s
/-- R366. A core's read of bytes at a physical address meets an uncorrectable error: in the core's own copy of a word, or where it has none, at its
home.
(Assumption log 83: PRESUMED.) -/
def State.badBytes (s : State) (k pa n : Nat) : Bool :=
  !s.poison.isEmpty && (List.range ((pa + n - 1) / 8 - pa / 8 + 1)).any fun i =>
    let w := pa / 8 * 8 + 8 * i
    if !s.nearArmed pa && (s.core k).l1Has w then s.poisoned (l1Word k w) 8 else s.poisoned w 8
/-- R109, R366. Data read at a physical address reach a pending load, or its uncorrectable error does, if its bundle has not retired.
(Assumption log 83: PRESUMED.) -/
def State.bindLoad (s : State) (k c bid : Nat) (slot : Slot) (off pa : Nat) (data : List Byte) (readyAt : Nat) : State :=
  let s := s.bindBefore k c bid
  if s.badBytes k pa data.length && !(s.ctx k c).past (some bid) then s.failLoad k c bid slot off causeEcc
  else s.fillLoad k c bid slot off data (some readyAt)
/-- R350 to R354. The parts at `off` of the pending load of a bundle's slot wait for no bundle. -/
def Ctx.partFree (x : Ctx) (bid : Nat) (slot : Slot) (off : Nat) : Bool :=
  x.pend.all fun p => p.bid ≠ bid || p.slot ≠ slot || match p.kind with | .load _ parts => parts.all fun q => q.off ≠ off || x.past q.after | _ => true
/-- R347, R350 to R354. The data of a part of a load at a physical address have come back: the value is bound if everything before it has been
performed, else when it has.
(Assumption log 99: DEDUCED.) -/
def State.returnLoad (s : State) (k c bid : Nat) (slot : Slot) (off pa : Nat) (data : List Byte) (readyAt : Nat) : State :=
  if remotePa pa || ((s.ctx k c).partFree bid slot off && !s.hardBefore k c bid false) then s.bindLoad k c bid slot off pa data readyAt
  else s.modCtx k c fun x => { x with pend := x.pend.map fun p => p.fill bid slot off none (some readyAt) }
/-- The parts of a load whose data have come back and whose value is not bound. -/
def Pend.unbound (p : Pend) : List (Nat × Slot × Part × Nat × Nat) :=
  match p.kind with
  | .load _ parts => parts.filterMap fun q => match q.data, q.loc, q.readyAt with | none, some (.phys pa), some t => some (p.bid, p.slot, q, pa, t) | _, _, _ => none
  | _ => []
/-- R347, R350 to R354. Values are bound that had to wait for accesses before them.
(Assumption log 99: DEDUCED.) -/
def State.bindReady (s : State) (k c : Nat) : State :=
  ((s.ctx k c).pend.flatMap Pend.unbound).foldl (fun s e =>
    s.returnLoad k c e.1 e.2.1 e.2.2.1.off e.2.2.2.1 (s.placeNow k c e.1 e.2.1 e.2.2.1 (.phys e.2.2.2.1)) e.2.2.2.2) s

/-! ### A sector read -/

/-- R340. The device link of a remote physical address. -/
def remoteLink (pa : Nat) : Nat := 6 + bits pa 45 42
/-- R340. The die that has the device link of a remote physical address: link div 4. -/
def remoteDie (pa : Nat) : Nat := bits pa 45 42 / 4
/-- R335, R339, R340. A core reaches the device link of a remote physical address, and it carries traffic. -/
def State.remoteFlows (s : State) (k pa : Nat) : Bool := s.diesJoined (k / 128) (remoteDie pa) && (s.link (remoteLink pa)).flows
/-- R337, R340, R341. Puts an access on the device link of its remote page, numbered modulo 2^32. -/
def State.queueLink (s : State) (r : DramReq) : State :=
  if !s.remoteFlows r.core r.addr then s.failReq r
  else s.modLink (remoteLink r.addr) fun l => { l with reqs := l.reqs ++ [⟨{ r with sent := s.sfc }, l.txSeq⟩], txSeq := (l.txSeq + 1) % 2 ^ 32 }
/-- R337, R343. The flits of a message of n bytes to another module are sent on a device link: 232 bytes of payload in each.
(Assumption log 63: DEDUCED.) -/
def State.sendFlits (s : State) (link n : Nat) : State := s.modLink link fun l => { l with txSeq := (l.txSeq + (n + 231) / 232) % 2 ^ 32 }
/-- R136, R143. Sends a sector read on its way: served by the first-level cache when every byte is held, else queued at its
pseudo-channel, or on the device link of a remote page. -/
def State.readSector (s : State) (r : DramReq) : State :=
  if remotePa r.addr then s.queueLink r
  else if s.nearArmed r.addr then s.queueDram r
  else
    let s := s.l1Touch r.core r.addr r.len
    match (s.core r.core).l1Read? r.addr r.len with
    | some data => s.returnLoad r.core r.ctx r.bid r.slot r.off r.addr data s.sfc
    | none => s.queueDram r

/-! ### Timetable windows, rows and spares (R20, R283, R317) -/

/-- R318. The global tick. -/
def State.tick (s : State) : Nat := s.sfc / 4
/-- R318. The timetable advances: the channel runs, at full power. -/
def Channel.advances (c : Channel) : Bool := c.running && c.power = .active
/-- The kind of the running entry; none during a refresh round. -/
def Channel.kind (c : Channel) : Option Nat := if c.refreshRound.isSome then none else (c.table[c.idx]?).map ttKind
/-- R318. The running entry is of a kind and open at a tick: the channel runs and no visit still takes its start. -/
def Channel.openFor (c : Channel) (kind tick : Nat) : Bool :=
  c.advances && c.visit.isNone && c.kind = some kind && decide (c.start ≤ tick ∧ tick < c.ends)
/-- R283. The row of a physical address in its channel: 2 x (bank + 16 x row) + PC.
(Assumption log 61: DESIGN CHOICE.) -/
def rowKey (pa : Nat) : Nat := 2 * homeRow pa + homePc pa % 2
/-- R283. The bank (16 x PC + bank) of a row. -/
def rowBank (key : Nat) : Nat := 16 * (key % 2) + key / 2 % 16
/-- R283. A frame has a byte in a row of a channel. -/
def frameOnRow (ch key frame size : Nat) : Bool :=
  (List.range (size / 64)).any fun i => homePc (frame + 64 * i) / 2 = ch && rowKey (frame + 64 * i) = key
/-- R280. The size of a page. -/
def Page.size (p : Page) : Nat := if p.small then 2 ^ 16 else 2 ^ 21
/-- R280, R283. Every page that maps onto a row with no spare left enters RETIRING, and the host is told which. -/
def State.retireRow (s : State) (ch key : Nat) : State :=
  let hit (p : Page) : Bool := (p.state = .mapped || p.state = .pinned) && frameOnRow ch key p.frame p.size
  let names := (s.pages.filter fun e => hit e.2).map fun e => e.1
  let s : State := { s with pages := s.pages.map fun e => if hit e.2 then (e.1, { e.2 with state := .retiring }) else e }
  s.report .event ch stEcc names
/-- R283. The row has corrected an error: with the fourth its copy to a spare starts, or its pages retire. -/
def State.correctedRow (s : State) (ch pa : Nat) : State :=
  let key := rowKey pa
  let c := s.chan ch
  let n := AMap.getD c.corrected key 0 + 1
  let s := s.modChan ch fun c => { c with corrected := AMap.set c.corrected key n }
  if n = 4 then
    if 8 ≤ AMap.getD c.spares (rowBank key) 0 then s.retireRow ch key
    else s.modChan ch fun c => { c with
      spares := AMap.set c.spares (rowBank key) (AMap.getD c.spares (rowBank key) 0 + 1), spareCopy := AMap.set c.spareCopy key 1 }
  else s
/-- R283, R366. A read of DRAM by an engine, the host or a walk of a row: an error that is corrected is counted for its row; the answer tells
whether an uncorrectable one was met. -/
def State.dramRead (s : State) (pa : Nat) : Bool × State :=
  let err := Config.dramError s.free
  let s := { s with free := s.free + 1 }
  (err = 2, if err = 1 then s.correctedRow (chanOfPc (homePc pa)) pa else s)
/-- R317. The channel of a physical address is in a WIN entry. -/
def State.winOpen (s : State) (pa : Nat) : Bool := (s.chan (chanOfPc (homePc pa))).openFor 1 s.tick
/-- R380. One transfer on a channel's die interface, with its link ECC correction or none; when more than 1,000 of the last 10^9 are corrected the
host is told.
(Assumption log 59: DEDUCED.) -/
def State.countTransfer (s : State) (ch : Nat) : State :=
  let c := s.chan ch
  let n := c.transfers + 1
  let recent := c.linkErrors.filter fun t => decide (n < t + 10 ^ 9)
  let err := Config.dramError s.free = 1
  let s := { s with free := s.free + 1 }.modChan ch fun c => { c with transfers := n, linkErrors := if err then n :: recent else recent }
  if err ∧ recent.length = 1000 then s.report .event ch stEcc [1001] else s
/-- R20, R366. Reads a sector from DRAM for an engine: an uncorrectable error stays with its first word; a copy stays in the last-level cache,
but for the storage of an armed pass.
(Assumption log 25: DEDUCED.) (Assumption log 83: PRESUMED.) -/
def State.fetchSector (s : State) (pa : Nat) : State :=
  let r := (s.countTransfer (chanOfPc (homePc pa))).dramRead pa
  let s := if r.1 then { r.2 with poison := pa / 64 * 64 :: r.2.poison } else r.2
  if s.nearArmed pa then s else s.llcPut pa 0
/-- R20, R334, R347. Reads the sectors that DRAM holds alone, as far as their channels are in a WIN entry, and has a channel of low power wake for
them; the answer tells whether all of them can be used now.
(Assumption log 25: DEDUCED.) -/
def State.fetchSectors (s : State) (l : List Nat) : Bool × State :=
  let there (s : State) (pa : Nat) : Bool := !s.nearArmed pa && s.llcHit pa
  let ask (s : State) (pa : Nat) : State :=
    if (s.chan (chanOfPc (homePc pa))).power = .active then s else s.modChan (chanOfPc (homePc pa)) fun c => { c with wanted := true }
  let s := l.foldl (fun s pa => if there s pa then s else if s.winOpen pa then s.fetchSector pa else ask s pa) s
  (l.all fun pa => s.winOpen pa || there s pa, s)
/-- R20, R329, R347. Whether sectors can be written at their homes now: always in the last-level cache; the storage of an armed pass in a WIN
entry of its channel. -/
def State.homeOpen (s : State) (l : List Nat) : Bool := l.all fun pa => !s.nearArmed pa || s.winOpen pa
/-- R347. Sectors written at their homes are in the last-level cache, but for the storage of an armed pass. -/
def State.landSectors (s : State) (l : List Nat) : State := l.foldl (fun s pa => if s.nearArmed pa then s else s.llcPut pa 0) s
/-- The 64-byte sectors of n bytes from an address on. -/
def sectorsOf (pa n : Nat) : List Nat := (List.range ((pa % 64 + n + 63) / 64)).map fun i => pa / 64 * 64 + 64 * i

/-! ### Bank arrival (R258, R268) -/

/-- A plain store of the context issued less than two cycles before `now` (R111). -/
def BankItem.recentStore (it : BankItem) (k c now : Nat) : Bool :=
  it.core = k && it.ctx = c && (match it.work with | .store _ => true | _ => false) && decide (now < it.issued + 2)
/-- R111, R258. Where a load of a context that issues at core cycle `now` takes its place in a bank's order: behind everything, or with `old` before
the context's stores of the cycle before. -/
def placeIn (q : List BankItem) (k c now : Nat) (old : Bool) : List BankItem × List BankItem :=
  if old then (q.takeWhile fun it => !it.recentStore k c now, q.dropWhile fun it => !it.recentStore k c now) else (q, [])
/-- R258. Appends to a bank's order. -/
def Bank.add (b : Bank) (it : BankItem) : Bank := { b with queue := b.queue ++ [it] }
/-- Adds a window access to those on their way.
(Assumption log 7: DEDUCED.) (Assumption log 22: DESIGN CHOICE.) -/
def State.pushTransit (s : State) (due k b : Nat) (it : BankItem) : State :=
  { s with transit := s.transit ++ [(due, k, b, { it with sent := s.sfc, cut := !s.diesJoined (it.core / 128) (k / 128) })] }
/-- R340. The cycles of the window access bound that have passed when an access is sent: a store or a command other than an atomic is sent
when its bundle retires, 12 cycles after issue. -/
def BankItem.spent (it : BankItem) : Nat :=
  match it.work with | .store _ => 12 | .trowel (.atomic _ _ _) _ _ _ => 0 | .trowel _ _ _ _ => 12 | _ => 0
/-- R135, R340, R347. A window access or command on its way to a bank: into the order of an own bank at once; else arrival within 64 cycles of
issue on the same die, 320 on another, and after everything the same context sent to that bank before.
(Assumption log 22: DESIGN CHOICE.) -/
def State.sendWindow (s : State) (k b : Nat) (it : BankItem) : State :=
  if k = it.core then s.modBank k b fun x => x.add { it with sent := s.sfc } else
  let bound := if k / 128 = it.core / 128 then 64 else 320
  let d := s.drawBelow (bound - it.spent)
  let own := s.transit.filter fun t => t.2.1 = k ∧ t.2.2.1 = b ∧ t.2.2.2.core = it.core ∧ t.2.2.2.ctx = it.ctx
  let due := own.foldl (fun m t => max m t.1) (s.sfc + 1 + d.1)
  d.2.pushTransit due k b it

/-! ### What an engine reads (R358) -/

/-- R258, R358. What an engine that works for a context reads after: every store that has reached the bank before something that takes longer,
and every store of the context. -/
def engineSees (q coming : List BankItem) (k c : Nat) : List BankItem :=
  q.takeWhile BankItem.plain ++ (q.dropWhile BankItem.plain ++ coming).filter fun it => it.mine k c
/-- R258, R358. A scratchpad byte as an engine that works for a context reads it. -/
def State.engineByte (s : State) (k c a : Nat) : Byte :=
  overlayStores (engineSees (s.bank k (a / 65536)).queue [] k c) a (Memory.get s.mem (spadAddr k a))
/-- R258, R358. A byte of a core's scratchpad as an engine that works for a context of core k reads it through the window: with the context's
stores on their way to the bank too. -/
def State.windowByte (s : State) (k c k' a : Nat) : Byte :=
  overlayStores (engineSees (s.bank k' (a / 65536)).queue (s.comingTo k' (a / 65536)) k c) a (Memory.get s.mem (spadAddr k' a))
/-- R258, R358. Scratchpad bytes as an engine that works for a context reads them. -/
def State.engineSpad (s : State) (k c a n : Nat) : List Byte := (List.range n).map fun i => s.engineByte k c (a + i)
/-- R258. An access by an engine or the scheduler takes its place in a bank's order as party p of a core. -/
def State.engineItem (s : State) (by' p : Nat) (work : BankWork) : BankItem :=
  { core := by', ctx := p, work := work, issued := 0, notBefore := 0, cycle := 0, ends := none, sent := s.sfc }
/-- R258. Party p of a core writes bytes of a bank: at once where nothing waits at the bank, else in the bank's order. -/
def State.engineWriteBy (s : State) (by' p k a : Nat) (bs : List Byte) : State :=
  if (s.bank k (a / 65536)).queue.isEmpty then s.spadWrite k a bs
  else s.modBank k (a / 65536) fun b => b.add (s.engineItem by' p (.store (bytesAt a bs)))
/-- R258. An engine that works for a context writes bytes of its core's scratchpad. -/
def State.engineWrite (s : State) (k c a : Nat) (bs : List Byte) : State := s.engineWriteBy k (engineParty c) k a bs
/-- R258. An engine that works for a context writes the OR of a word and a mask into it. -/
def State.engineOr (s : State) (k c a mask : Nat) : State :=
  if (s.bank k (a / 65536)).queue.isEmpty then s.spadUpdate k a (leValue (s.spadRead k a 8) ||| mask)
  else s.modBank k (a / 65536) fun b => b.add (s.engineItem k (engineParty c) (.orWord a mask))
/-- R258, R358. An item of a bank's order that an engine's access waits for: one that is more than a store, and reached the bank by moment t.
(Assumption log 36: DEDUCED.) -/
def BankItem.bars (it : BankItem) (t : Nat) : Bool := !it.plain && decide (max it.sent it.came ≤ t)
/-- R258, R358. A range meets a bank in whose order something stands that an engine's access at moment t waits for.
(Assumption log 36: DEDUCED.) -/
def Core.commandBefore (x : Core) (t : Nat) (ranges : List (Int × Nat)) : Bool :=
  (List.range 32).any fun b => ((x.bank b).queue.any fun it => it.bars t)
    && ranges.any fun r => decide (r.1 < (65536 * (b + 1) : Nat) ∧ ((65536 * b : Nat) : Int) < r.1 + r.2)
/-- R358. A core's copies of a byte of global memory, and its writes of it on their way, give way to an engine's write. -/
def State.dropByte (s : State) (k pa : Nat) : State :=
  let forget (w : CacheWord) : CacheWord :=
    if w.addr = pa / 8 then { w with held := w.held.setIfInBounds (pa % 8) false, dirty := w.dirty.setIfInBounds (pa % 8) false } else w
  let ch := chanOfPc (homePc pa)
  let cut (b : Byte) (r : DramReq) : DramReq := match r.bytes with
    | some bs => if r.core = k ∧ r.addr ≤ pa then { r with bytes := some (bs.set (pa - r.addr) b) } else r
    | none => r
  let b := Memory.get s.mem pa
  let strip (x : CacheBlock) : CacheBlock := { x with words := x.words.map forget }
  let clear (e : Nat × List CacheBlock) : Nat × List CacheBlock := if e.1 = l1Set pa then (e.1, e.2.map strip) else e
  let s := s.modCore k fun c => { c with l1 := c.l1.map clear }
  s.modChan ch fun x => { x with q0 := x.q0.map (cut b), q1 := x.q1.map (cut b) }
/-- R358, R181. An engine of core k writes a byte at its home: the home's byte, with the core's own older writes and copies of it gone. -/
def State.homeWrite (s : State) (k pa : Nat) (b : Byte) : State :=
  ({ s with mem := Memory.set s.mem pa b, touched := touch s.touched pa 1 s.nextSeq }).dropByte k pa

/-- R347, R390. A word is stored at its home, in the last-level cache, by the scheduler or a channel: no core keeps an older copy or write of
it on its way. -/
def State.homeStore (s : State) (pa : Nat) (bs : List Byte) : State :=
  let s := (s.put pa bs).llcPut pa 0
  s.cores.foldl (fun s e => (List.range bs.length).foldl (fun s i => s.dropByte e.1 (pa + i)) s) s

/-! ### Global stores (R137, R347, R355) -/

/-- A store to a physical address at CORE scope: control-core banks take it as a window access, remote pages over the link, the rest
through the first-level cache, or straight to their homes where there is none; the context has written the sector (R357).
(Assumption log 25: DEDUCED.) -/
def State.storePhys (s : State) (k c pa : Nat) (bs : List Byte) (policy : Nat) : State :=
  if bitAt pa 47 then
    s.sendWindow (bits pa 29 21) (bits pa 20 16)
      { core := k, ctx := c, work := .store (bytesAt (bits pa 20 0) bs), issued := 0, notBefore := 0, cycle := 0, ends := none }
  else if remotePa pa then s.queueLink (writeReq k c pa bs policy)
  else
    let s := if s.nearArmed pa || !isWorker k then s.queueDram (writeReq k c pa bs policy)
      else s.l1Store k c pa bs policy (bs.length < 4)
    s.modCtx k c fun x => { x with wrote := (pa / 64) :: x.wrote.erase (pa / 64) }

/-! ### Release and acquire (R252, R345, R356, R357) -/

/-- R345. A party (core and context) lies within a scope of another. -/
def withinScope (scope k c k' c' : Nat) : Bool :=
  if scope = 0 then k = k' && c = c' else if scope = 1 then k = k' else scope ≠ 2 || k / 128 = k' / 128
/-- R252, R357. A new entry of a core's release table; when the table is full the oldest entry's writes are written back first. -/
def State.addRelEntry (s : State) (k c : Nat) (e : RelEntry) : State :=
  let old := (s.core k).relTable
  let s := match old with
    | o :: _ => if 32 ≤ old.length then s.writeBack k c (fun n => o.sectors.contains n) else s
    | [] => s
  s.modCore k fun core =>
    { core with relTable := (if 32 ≤ old.length then old.drop 1 else old) ++ [{ e with id := core.nextRel }], nextRel := core.nextRel + 1 }
/-- R356. The release that a context makes now at a scope: it covers what the context wrote, and what its acquires have covered. -/
def State.releaseNow (s : State) (k c scope : Nat) : Release :=
  let x := s.ctx k c
  { core := k, ctx := c, scope := scope, entry := (s.core k).nextRel, time := s.sfc,
    sectors := x.wrote ++ x.cover.filter fun n => !x.wrote.contains n }
/-- R356. The releases of a word once `r` has been made: a REL takes the place of the last REL (R252); a release that a value of the word shows
joins those before it, since an acquire may still return an older value, and covers what its party's earlier ones cover.
(Assumption log 24: DEDUCED.) -/
def State.recordRelease (s : State) (var : Nat) (r : Release) : State :=
  let old := AMap.getD s.relHomes var []
  let own (p : Release) : Bool := decide (p.core = r.core ∧ p.ctx = r.ctx)
  let merged := if r.shown then (old.filter own).foldl (fun l p => l ++ p.sectors.filter fun n => !l.contains n) r.sectors else r.sectors
  let kept := old.filter fun p => if r.shown then !own p else p.shown
  { s with relHomes := AMap.set s.relHomes var (kept ++ [{ r with sectors := merged }]) }
/-- R252, R357. A release of the variable at a physical address: a new entry of the release table, and a release at the variable's home; `shown`
where it is no REL. -/
def State.releaseVar (s : State) (k c var scope : Nat) (shown : Bool) : State :=
  let r := { s.releaseNow k c scope with shown := shown }
  (s.addRelEntry k c { id := 0, var := var, scope := scope, sectors := (s.ctx k c).wrote }).recordRelease var r
/-- R356. The releases of a variable that an acquire by a context at a scope synchronises with: the parties lie within the narrower of the two
scopes. -/
def State.syncs (s : State) (k c var scope : Nat) : List Release :=
  (AMap.getD s.relHomes var []).filter fun r => withinScope (min r.scope scope) r.core r.ctx k c
/-- R357. The releaser writes back what its release covers. -/
def State.startRelease (s : State) (r : Release) : State :=
  if r.sectors.isEmpty then s else s.writeBack r.core 0 fun n => r.sectors.contains n
/-- R358. A store of a context, or of an engine that works for it, that was sent no later than a moment. -/
def BankItem.storeBy (it : BankItem) (r : Release) : Bool :=
  it.mine r.core r.ctx && decide (it.sent ≤ r.time) && (match it.work with | .store _ => true | .orWord _ _ => true | _ => false)
/-- R347, R356, R357. Everything that a release covers has been performed: written global memory is at its homes, and the stores to banks, and
to other modules, that the context sent before are done. -/
def State.released (s : State) (r : Release) : Bool :=
  !(s.chans.any fun e => (e.2.q0 ++ e.2.q1).any fun q => q.bytes.isSome && q.core = r.core && r.sectors.contains (q.addr / 64))
  && !(s.transit.any fun t => t.2.2.2.storeBy r) && !(s.cores.any fun e => e.2.banks.any fun b => b.queue.any fun it => it.storeBy r)
  && (r.scope < 4 || !s.links.any fun l => l.reqs.any fun q => q.req.bytes.isSome && q.req.core = r.core && q.req.ctx = r.ctx
        && decide (q.req.sent ≤ r.time))
/-- R357. An acquire of the variable at a physical address begins: the releasers that it synchronises with write back what they covered. -/
def State.acquireStart (s : State) (k c var scope : Nat) : State := (s.syncs k c var scope).foldl State.startRelease s
/-- R357. What the acquire's releases cover has been performed. -/
def State.acquireReady (s : State) (k c var scope : Nat) : Bool := (s.syncs k c var scope).all s.released
/-- R356, R357. A context has synchronised with a release: its core drops its copies of what the release covers, and its later releases cover
that too.
(Assumption log 24: DEDUCED.) -/
def State.takeRelease (s : State) (k c : Nat) (r : Release) : State :=
  (s.dropCopies k c fun n => r.sectors.contains n).modCtx k c fun x =>
    { x with cover := r.sectors ++ x.cover.filter fun n => !r.sectors.contains n }
/-- R357. The acquire completes: the acquirer's core drops its copies of what the releases cover and of the variable itself.
(Assumption log 24: DEDUCED.) -/
def State.acquireEnd (s : State) (k c var scope : Nat) : State :=
  (s.syncs k c var scope).foldl (fun s r => s.takeRelease k c r) (s.dropCopies k c fun n => n = var / 64)
/-- R246, R358. The later releases of a context cover an engine command's writes. -/
def State.covers (s : State) (k c : Nat) (sectors : List Nat) : State :=
  s.modCtx k c fun x => { x with cover := sectors ++ x.cover.filter fun n => !sectors.contains n }
/-- R253. The final store of a completion word by an engine or the scheduler is a release of the command's writes at a scope, made by core k
for context c. -/
def State.releaseWord (s : State) (k c var scope : Nat) (sectors : List Nat) : State :=
  s.recordRelease (var / 8 * 8) { core := k, ctx := c, scope := scope, entry := 0, time := s.sfc, sectors := sectors, shown := true }

end Sys2Proof.Machine
end

