-- ==== Sys2Proof/Machine/CardOps.lean ====
section
/-! DEFINITION. Reading a job card (spec/10 R176, R177), the edges between jobs and launches (R191), and a card's acceptance (R183). -/
namespace Sys2Proof.Machine

/-- The n-byte value at an offset of a card's bytes. -/
def rawVal (raw : List Byte) (off n : Nat) : Nat := leValue ((raw.drop off).take n)
/-- R177. CTRL. -/
def cardCtrl (raw : List Byte) : Nat := rawVal raw 0 8
def cardLen (raw : List Byte) : Nat := bits (cardCtrl raw) 25 10
def cardNfp (raw : List Byte) : Nat := bits (cardCtrl raw) 35 32
def cardBmen (raw : List Byte) : Bool := bitAt (cardCtrl raw) 31
def cardHen (raw : List Byte) : Bool := bitAt (cardCtrl raw) 36
def cardHawk (raw : List Byte) : Nat := bits (cardCtrl raw) 40 37
def cardHcnt (raw : List Byte) : Nat := bits (cardCtrl raw) 49 41
def cardSen (raw : List Byte) : Bool := bitAt (cardCtrl raw) 26
def cardSem (raw : List Byte) : Fin 16 := fin16 (bits (cardCtrl raw) 30 27)
def cardSrc (raw : List Byte) : Nat := rawVal raw 0x08 8
def cardDst (raw : List Byte) : Nat := rawVal raw 0x10 8
/-- R176. A level: an unsigned count and two signed strides. -/
def cardLevel (raw : List Byte) (l : Nat) : CardLevel :=
  { count := rawVal raw (0x28 + 12 * l) 4, sstr := sextNat 32 (rawVal raw (0x2C + 12 * l) 4),
    dstr := sextNat 32 (rawVal raw (0x30 + 12 * l) 4) }
/-- R176. The six levels. -/
def cardLevels (raw : List Byte) : List CardLevel := (List.range 6).map (cardLevel raw)
/-- R179. The number of copies. -/
def cardCopies (raw : List Byte) : Nat := (cardLevels raw).foldl (fun n l => n * l.count) 1
/-- R179. The copies of a card that have not started. -/
def Card.toStart (d : Card) : List Nat := if d.stopped then [] else (List.range (cardCopies d.raw - d.next)).map fun j => d.next + j
/-- R176. Footprint f. -/
def cardFootprint (raw : List Byte) (f : Nat) : Footprint :=
  let w := rawVal raw (0x78 + 16 * f) 8
  { base := rawVal raw (0x70 + 16 * f) 8, len := bits w 39 0, w := bitAt w 40 }
/-- R176. The footprints in use. -/
def cardFootprints (raw : List Byte) : List Footprint := (List.range (min 8 (cardNfp raw))).map (cardFootprint raw)

/-- R179. The loop indices of copy q, level 5 fastest. -/
def copyIndices (levels : List CardLevel) (q : Nat) : List Nat :=
  (levels.foldr (fun l (p : Nat × List Nat) => if l.count = 0 then (0, 0 :: p.2) else (p.1 / l.count, p.1 % l.count :: p.2)) (q, [])).2
/-- R179. The source and destination of copy q, exactly. -/
def copyAddrs (raw : List Byte) (q : Nat) : Int × Int :=
  let levels := cardLevels raw
  let idx := copyIndices levels q
  let sum (stride : CardLevel → Int) : Int := (List.zipWith (fun (l : CardLevel) (i : Nat) => (i : Int) * stride l) levels idx).foldl (· + ·) 0
  ((cardSrc raw : Int) + sum (fun l => l.sstr), (cardDst raw : Int) + sum (fun l => l.dstr))
/-- R135, R179. The banks of core k that a range of addresses from a on touches, by local or window address. -/
def rangeInBank (k b : Nat) (a : Int) (n : Nat) : Bool :=
  let meets (base : Nat) : Bool := decide (a < (base + 65536 : Nat) ∧ (base : Int) < a + n)
  meets (65536 * b) || meets (0xFFFFFC0000000 + k % 512 * 2 ^ 21 + 65536 * b)
/-- R36, R258. A copy of the card that is under way reads or writes bank b of its core k. -/
def Card.copiesAt (d : Card) (k b : Nat) : Bool :=
  d.copies.any fun q =>
    let ad := copyAddrs d.raw q.1
    rangeInBank k b ad.1 (cardLen d.raw) || rangeInBank k b ad.2 (cardLen d.raw)

/-- R184. How far copy q of a card has come. -/
def Card.run (d : Card) (q : Nat) : CopyRun := AMap.getD d.runs q {}

/-- R191. Two footprints share a byte and one of them is written. -/
def Footprint.conflicts (a b : Footprint) : Bool :=
  (a.w || b.w) && decide (0 < a.len ∧ 0 < b.len ∧ a.base < b.base + b.len ∧ b.base < a.base + a.len)
/-- R191. Some footprint of one list conflicts with some footprint of another. -/
def footprintsMeet (a b : List Footprint) : Bool := a.any fun x => b.any fun y => x.conflicts y

/-- R191, R227. The jobs and launches in flight in a queue of a die that a newcomer with these footprints depends on. -/
def State.edgesTo (s : State) (die q : Nat) (fps : List Footprint) : List Nat :=
  let jobs := s.cores.flatMap fun e =>
    if e.1 / 128 = die then
      (e.2.cards.filter fun c => c.queue = some q ∧ cardNfp c.raw ≤ 8 ∧ footprintsMeet (cardFootprints c.raw) fps).map fun c => c.id
    else []
  let launches := (s.launches.filter fun l => l.die = die ∧ l.queue = q ∧ l.fpOn ∧ footprintsMeet l.footprints fps).map fun l => l.seq
  jobs ++ launches

/-- R189. The pending value of a completion word or reply word. -/
def pendingWord : Nat := 0xFF00000000000000
/-- R187, R189. A completion word: status, units done saturating at 24 bits, detail. -/
def statusWord (status units detail : Nat) : Nat := status * 2 ^ 56 + min units 0xFFFFFF * 2 ^ 32 + detail % 2 ^ 32
/-- Writes an 8-byte word of a core's scratchpad in one store, for a context. -/
def State.spadWord (s : State) (k c a x : Nat) : State := s.engineWrite k c a (leBytes 8 x)

/-- R183. Footprint entries a JOB takes. -/
def jobEntries (queue : Option Nat) (raw : List Byte) : Nat :=
  match queue with | some _ => if cardNfp raw ≤ 8 then cardNfp raw else 0 | none => 0

/-- R216. The free footprint entries of a context's launch, reserved on its die. -/
def State.reserveFree (s : State) (k c : Nat) : Nat :=
  match (s.ctx k c).task.bind fun t => s.launch? t.launch with
  | some l => AMap.getD l.resFree (k / 128 % 4) 0
  | none => 0
/-- R216. Changes the free reserved entries of a context's launch on its die. -/
def State.modReserve (s : State) (k c : Nat) (f : Nat → Nat) : State :=
  let d := k / 128 % 4
  let change (l : Launch) : Launch := match AMap.get? l.resFree d with | some n => { l with resFree := AMap.set l.resFree d (f n) } | none => l
  match (s.ctx k c).task with | some t => s.modLaunch t.launch change | none => s
/-- R183, R216. A JOB of a context takes footprint entries when its bundle issues: from its launch's reservation, and from its die's table. -/
def State.takeFootprints (s : State) (k c mine fromDie : Nat) : State :=
  (s.modReserve k c fun n => n - mine).modDie (k / 128) fun d => { d with fpUsed := d.fpUsed + fromDie }
/-- R183, R216. Footprint entries are released: to the launch what came from its reservation, to the die the rest. -/
def State.freeFootprints (s : State) (k c mine fromDie : Nat) : State :=
  (s.modReserve k c fun n => n + mine).modDie (k / 128) fun d => { d with fpUsed := d.fpUsed - fromDie }
/-- R183. A card is accepted: snapshot, CWORD pending, BITMAP 0, edges of a JOB, which holds the footprint entries that it took. -/
def State.acceptCard (s : State) (k c addr : Nat) (queue : Option Nat) (n : Notify) (mine fromDie : Nat) : State :=
  let raw := s.engineSpad k c addr 256
  let bad := s.poisoned (spadAddr k addr) 256
  let deps := match queue with
    | some q => if cardNfp raw = 0 ∨ 8 < cardNfp raw then [] else s.edgesTo (k / 128) q (cardFootprints raw)
    | none => []
  let card : Card :=
    { id := s.nextSeq, ctx := c, addr := addr, queue := queue, raw := raw, deps := deps, failedDep := none, drawn := mine, fromDie := fromDie,
      since := s.sfc,
      notify := { n with sem := if cardSen raw then some (cardSem raw) else none },
      started := bad, next := 0, copies := [], barred := [], okCount := 0, fault := if bad then some (0, stEcc, 0) else none, stopped := bad, silent := false, chunkDone := 0 }
  let s := (s.spadWord k c (addr + 0x18) pendingWord).spadWord k c (addr + 0x20) 0
  let s := { s with nextSeq := s.nextSeq + 1 }
  s.modCore k fun x => { x with cards := x.cards ++ [card] }

end Sys2Proof.Machine
end

