-- ==== Sys2Proof/Machine/Issue.lean ====
section
/-! DEFINITION. Issuing a bundle (spec/02 R27 to R44, 05 R81 to R95, 08 R147, 11 R196 to R200): what a slot sees, what it answers, and
the one operation that checks, blocks, traps or issues a bundle's slots. A slot instruction's meaning is a SlotSpec; how bundles are
checked, how their results wait and how they retire is written once, here and in Retire.lean. -/
namespace Sys2Proof.Machine

/-- What a slot sees when its bundle reaches issue: the state, the core and context, the bundle's header, the MODP of its E slot,
its address, the address that follows, and the stencil entry it came from. -/
structure View where
  s : State
  k : Nat
  c : Nat
  hdr : Header
  modp : Option Modifiers
  addr : Nat
  next : Nat
  sten : Option Nat

/-- The core. -/
def View.core (v : View) : Core := v.s.core v.k
/-- The context. -/
def View.ctx (v : View) : Ctx := v.core.ctx v.c
/-- The registers at issue. -/
def View.r (v : View) : Regs := v.ctx.regs
/-- The core cycle. -/
def View.now (v : View) : Nat := v.core.cycle
/-- R83. The entry the header's ARR bit for a slot arrives on (bit 6 C down to bit 0 E). -/
def arrivesOn (h : Header) (sl : Slot) : Option (Fin 16) :=
  let i := match sl with | .c => some 6 | .a => some 5 | .b => some 4 | .v => some 3 | .m => some 2 | .d => some 1 | .e => some 0 | .k => none
  match i with
  | some i => if bitAt h.arr i then some h.bar else none
  | none => none
/-- The header of a bundle that only holds slots: no wait, no arrival, no stamp (R83). -/
def plainHeader : Header := ⟨false, 0, 0, false, 0, 0, 0, 255⟩

/-- A piece of a load: its place in the result, its length, its effective address and where it lies; and whether it reads what a store of the
cycle before has yet to overwrite (R111). -/
structure Piece where
  off : Nat
  len : Nat
  ea : Nat
  loc : Where
  old : Bool := false
  deriving DecidableEq, Repr

/-- A load of a slot: latency, destination, landing slot, pieces, policy and alias class, and a fault found by its landing cycle. -/
structure LoadOut where
  lat : Nat
  dest : LoadDest
  ln : Option (Fin 32) := none
  pieces : List Piece
  policy : Nat := 0
  ac : Nat := 0
  /-- Parts that something other than a memory access fills (R230). -/
  extra : List Part := []

/-- R245. When a slot's arrival is sent: at retire, when its result lands, or by the engine that completes its command. -/
inductive ArriveAt | retire | landing | engine
  deriving DecidableEq, Repr

/-- What a slot answers when its bundle issues: results with their latencies, loads, effects at retire, retire conditions, changes to
registers and state that the next bundle sees, a transfer of control, cycles with no issue after it, and semaphore counts taken; `sets` says that the
change to registers is what the slot instruction itself writes, and so is voted (R363). -/
structure SlotOut where
  res : List (Nat × Dest) := []
  loads : List LoadOut := []
  eff : List Effect := []
  conds : List RetireCond := []
  regs : Regs → Regs := id
  state : State → Nat → State := fun s _ => s
  target : Option Nat := none
  idle : Nat := 0
  takes : List (Fin 16 × Nat) := []
  arrive : ArriveAt := .retire
  sets : Bool := false

/-- The meaning of a slot instruction: the illegal encoding that only the core and context tell (R92), the trap it raises (the first in
R200's order), whether it blocks (R28), whether it makes a
precise stop (R371), and what it does.
(Assumption log 9: DEDUCED.) -/
structure SlotSpec where
  enc : View → Option Trap := fun _ => none
  trap : View → Option Trap := fun _ => none
  block : View → Bool := fun _ => false
  stop : View → Option Nat := fun _ => none
  out : View → SlotOut := fun _ => {}

/-- A slot of a bundle with its meaning and its opcode field. -/
structure SlotUse where
  slot : Slot
  opcode : Nat
  spec : SlotSpec

/-! ### Traps that slots raise -/

/-- R94. TRAPINFO of ILLEGAL_BUNDLE. -/
def illegalInfo (sten : Option Nat) (opcode : Nat) (r : Reason) : Nat :=
  r.code + 256 * opcode + (match sten with | some i => 2 ^ 16 + 2 ^ 17 * i | none => 0)
/-- R94, R95. An ILLEGAL_BUNDLE of a slot found from its operands; the slot's opcode is put in when it is taken. -/
def illegal (sl : Slot) (r : Reason) : Trap := ⟨causeIllegal, sl.code, r.code, 1⟩
/-- R94. The trap of an illegal encoding. -/
def encodingTrap (i : Illegal) (sten : Option Nat) : Trap := ⟨causeIllegal, i.slot, illegalInfo sten i.opcode i.reason, 1⟩
/-- R200. A fault detected at issue. -/
def issueFault (cause slot info : Nat) : Trap := ⟨cause, slot, info, 5⟩
/-- R200. A fault detected by the landing cycle. -/
def landFault (cause slot info : Nat) : Trap := ⟨cause, slot, info, 6⟩

/-- R200. The first trap of a list in the order of causes; within a rank, the order of the list (slots C, A, B, V, M, K, D, E).
(Assumption log 10: DEDUCED.) -/
def firstTrap : List Trap → Option Trap
  | [] => none
  | t :: l =>
    match firstTrap l with
    | some u => if u.rank < t.rank then some u else some t
    | none => some t

/-! ### Loop-back and the next address (R81, R222) -/

/-- R222. The level that counts at a move from line L, innermost first: its registers changed and the line that follows. -/
def loopBack (r : Regs) (line : Nat) : Nat → Regs
  | 0 => { r with pc := 32 * (line + 1) }
  | n + 1 =>
    match r.loops[n]?, r.lc[n]?, r.li[n]? with
    | some l, some lc, some li =>
      if l.active ∧ l.last = line then
        if lc ≠ 0 then { r with lc := r.lc.setIfInBounds n (lc - 1), li := r.li.setIfInBounds n (li + 1), pc := 32 * l.first }
        else loopBack { r with loops := r.loops.setIfInBounds n { l with active := false } } line n
      else loopBack r line n
    | _, _, _ => loopBack r line n
/-- R81, R222. Moves on from a bundle address to the one that follows. -/
def advance (r : Regs) (addr next : Nat) : Regs :=
  if next / 32 = addr / 32 then { r with pc := next } else loopBack r (addr / 32) 6

/-! ### Loads -/

/-- The last unretired bundle of a context before a given one whose effects or conditions satisfy a test. -/
def Ctx.lastUnretired (c : Ctx) (bid : Nat) (f : Issued → Bool) : Option Nat :=
  (c.inflight.reverse.find? fun i => decide (i.bid < bid) && f i).map fun i => i.bid
/-- R251, R267, R357. A bundle that later accesses may not pass. -/
def Issued.gates (i : Issued) : Bool :=
  i.conds.any fun x => match x with | .fence _ => true | .tfence _ _ => true | .acquire _ _ => true | _ => false
/-- R261 to R266. The ranges of a bank that a command at an address reads or writes. -/
def TrowelOp.spans (op : TrowelOp) (a : Nat) : List (Nat × Nat) :=
  match op with
  | .store o _ _ _ => [(a, if o = 0x0B then 1024 else 512)]
  | .range o _ n xb =>
    (a, 512 * n) :: (if o = 0x0E ∨ o = 0x0F then [(xb.toNat % 2 ^ 21, 4)] else if o = 0x10 then [(xb.toNat % 2 ^ 21, 1024)] else [])
  | .atomic _ _ _ => [(a, 4)]
  | .hostAtomic _ wide _ _ _ => [(a, if wide then 8 else 4)]
/-- A command at an address touches one of n bytes from a on. -/
def TrowelOp.touches (op : TrowelOp) (addr a n : Nat) : Bool := (op.spans addr).any fun p => decide (p.1 < a + n ∧ a < p.1 + p.2)
/-- R347. A withheld access to a bank of core k that comes before a later access of the context: a trowel command, a window store, or a
scratchpad store, which a piece that issues at core cycle `now` and reads its old bytes waits for only where it is old enough for R111. -/
def Effect.atBank (e : Effect) (self k b now : Nat) (old : Bool) : Bool :=
  match e with
  | .trowel k' _ _ addr _ _ => k' = k && addr / 65536 = b
  | .windowStore _ k' _ _ l => k' = k && l.any fun p => p.1 / 65536 = b
  | .spadStore l cyc => self = k && (!old || decide (cyc + 2 ≤ now)) && l.any fun p => p.1 / 65536 = b
  | _ => false
/-- R347, R354. A withheld global store in an alias class, or to an armed pass's rows of a channel. -/
def Effect.inClass (e : Effect) (ac : Nat) (row : Nat → Bool) : Bool :=
  match e with | .globalStore _ l _ _ ac' _ => ac' = ac || l.any fun p => row p.1 | _ => false
/-- R111. The context's unretired scratchpad stores as a bundle that issues now sees them: two or more cycles old.
(Assumption log 8: DEDUCED.) -/
def overlaySpad (c : Ctx) (now a : Nat) (b : Byte) : Byte :=
  c.inflight.foldl (fun b i => i.eff.foldl (fun b e => match e with
    | .spadStore l cyc => if cyc + 2 ≤ now then (match l.reverse.find? fun p => p.1 = a with | some p => p.2 | none => b) else b
    | _ => b) b) b
/-- R111. The bytes of a bank that a load which issues at core cycle `now` reads as they stood before the context's stores of the cycle before:
no later command of the context writes them.
(Assumption log 8: DEDUCED.) -/
def State.oldByte (s : State) (k c now a : Nat) : Bool :=
  let x := s.ctx k c
  let atomic (bid : Nat) : Bool := x.held.any fun h => h.bid = bid && (match h.work with
    | .atomic k' _ it => k' = k && (match it.work with | .trowel op addr _ _ => op.touches addr a 1 | _ => false) | _ => false)
  let queued := (s.bank k (a / 65536)).queue.foldl (fun b it =>
    if it.core = k ∧ it.ctx = c then (match it.work with
      | .store l => b || (it.recentStore k c now && l.any fun p => p.1 = a)
      | .trowel op addr _ _ => b && !op.touches addr a 1
      | _ => b) else b) false
  x.inflight.foldl (fun b i =>
    let b := i.eff.foldl (fun b e => match e with
      | .spadStore l cyc => b || (decide (now < cyc + 2) && l.any fun p => p.1 = a)
      | .trowel k' _ op addr _ _ => b && !(k' = k && op.touches addr a 1)
      | _ => b) b
    b && !atomic i.bid) queued
/-- R111. Some store of the cycle before is to a bank. -/
def State.recentAt (s : State) (k c now b : Nat) : Bool :=
  ((s.bank k b).queue.any fun it => it.recentStore k c now)
  || (s.ctx k c).inflight.any fun i => i.eff.any fun e => match e with | .spadStore l cyc => decide (now < cyc + 2) && l.any fun p => p.1 / 65536 = b | _ => false
/-- R111. A piece as runs of bytes that read what a store of the cycle before has yet to overwrite, and runs of the others.
(Assumption log 8: DEDUCED.) -/
def Piece.runs (p : Piece) (a : Nat) (isOld : Nat → Bool) : List Piece :=
  (List.range p.len).foldr (fun i l => match l with
    | q :: r => if q.old = isOld (a + i) then { q with off := p.off + i, loc := .spad (a + i), len := q.len + 1 } :: r
        else { p with off := p.off + i, len := 1, loc := .spad (a + i), old := isOld (a + i) } :: q :: r
    | [] => [{ p with off := p.off + i, len := 1, loc := .spad (a + i), old := isOld (a + i) }]) []
/-- R111. The pieces of a load of a context that issues now. -/
def State.splitPiece (s : State) (k c : Nat) (p : Piece) : List Piece :=
  let now := (s.core k).cycle
  match p.loc with
  | .spad a => if s.recentAt k c now (a / 65536) then p.runs a (s.oldByte k c now) else [p]
  | _ => [p]
/-- R111, R358. Scratchpad bytes as a bundle that issues now reads them without a load: with the context's stores of two or more cycles before,
and with what its core's engines have written, that the bank has yet to perform.
(Assumption log 8: DEDUCED.) -/
def State.spadIssue (s : State) (k c a n : Nat) : List Byte :=
  let x := s.ctx k c
  let now := (s.core k).cycle
  (List.range n).map fun i =>
    let q := (s.bank k ((a + i) / 65536)).queue.filter fun it => it.core = k && (4 ≤ it.ctx || (it.ctx = c && decide (it.issued + 2 ≤ now)))
    overlaySpad x now (a + i) (overlayStores q (a + i) (Memory.get s.mem (spadAddr k (a + i))))
/-- R183, R358. Scratchpad bytes as an engine command of a bundle that issues now reads them when it retires: with all the context's stores so far. -/
def State.spadRetire (s : State) (k c a n : Nat) : List Byte :=
  let x := s.ctx k c
  (List.range n).map fun i =>
    let q := (s.bank k ((a + i) / 65536)).queue.filter fun it => it.core = k && (4 ≤ it.ctx || it.ctx = c)
    overlaySpad x ((s.core k).cycle + 2) (a + i) (overlayStores q (a + i) (Memory.get s.mem (spadAddr k (a + i))))
/-- R258, R358. An engine command whose bundle issues now reads its own core's bytes only after the context's trowel commands in their banks, if
there are any. -/
def View.afterCommands (v : View) (a n : Nat) : List RetireCond :=
  let ahead (b : Nat) : Bool := ((v.s.bank v.k b).queue.any fun it => it.command && it.core = v.k && it.ctx = v.c)
    || (v.ctx.inflight.any fun i => i.eff.any fun e => match e with | .trowel k _ _ x _ _ => k = v.k && x / 65536 = b | _ => false)
    || v.ctx.held.any fun h => match h.work with | .atomic k b' _ => k = v.k && b' = b | _ => false
  ((List.range 32).filter fun b => decide (a < 65536 * (b + 1) ∧ 65536 * b < a + n) && ahead b).map .commands
/-- R141. The latest unretired store of the context before bundle `bid` to a global byte: the byte, and whether its alias class is the load's. -/
def overlayGlobal (c : Ctx) (bid ac pa : Nat) : Option (Byte × Bool) :=
  (c.inflight.filter fun i => i.bid < bid).foldl (fun r i => i.eff.foldl (fun r e => match e with
    | .globalStore _ l _ _ ac' _ => (l.foldl (fun r p =>
        if p.1 ≤ pa ∧ pa < p.1 + p.2.length then (match p.2[pa - p.1]? with | some b => some (b, decide (ac' = ac)) | none => r) else r) r)
    | _ => r) r) none
/-- R111, R135. The latest unretired window store of the context before bundle `bid` to a byte of a core's scratchpad. -/
def overlayWindow (c : Ctx) (bid k a : Nat) : Option Byte :=
  (c.inflight.filter fun i => i.bid < bid).foldl (fun r i => i.eff.foldl (fun r e => match e with
    | .windowStore _ k' _ _ l => if k' = k then ((l.reverse.find? fun p => p.1 = a).map fun p => p.2).orElse fun _ => r else r
    | _ => r) r) none

/-- R366. An item of a bank's order, or a withheld effect, gives a whole 8-byte word of a core's scratchpad new contents. -/
def storeRenews (l : List (Nat × Byte)) (w : Nat) : Bool := (List.range 8).all fun i => l.any fun p => p.1 = w / 8 * 8 + i
def TrowelOp.renews (op : TrowelOp) (addr w : Nat) : Bool :=
  match op with | .range 0x0D _ n _ => decide (addr ≤ w / 8 * 8 ∧ w / 8 * 8 + 8 ≤ addr + 512 * n) | _ => false
/-- R366. A word of the own scratchpad has new contents by the time a load that issues now reads it. -/
def View.renewed (v : View) (w : Nat) : Bool :=
  let queued := (v.s.bank v.k (w / 65536)).queue.any fun it => match it.work with
    | .store l => !it.recentStore v.k v.c v.now && storeRenews l w
    | .trowel op a _ _ => op.renews a w
    | _ => false
  queued || v.ctx.inflight.any fun i => i.eff.any fun e => match e with
    | .spadStore l cyc => decide (cyc + 2 ≤ v.now) && storeRenews l w
    | .trowel k _ op a _ _ => k = v.k && op.renews a w
    | _ => false
/-- R109, R366. The uncorrectable error of a read of the own scratchpad by a bundle that retires at issue: it is met by the issue, since the
bundle has retired when the bank reads.
(Assumption log 83: PRESUMED.) -/
def View.nearEcc (v : View) (w : Where) (n ea slot : Nat) : Option Trap :=
  match w with
  | .spad a =>
    if v.s.poisoned (spadAddr v.k a) n && !(List.range ((a + n - 1) / 8 - a / 8 + 1)).all fun i =>
        !v.s.poisoned (spadAddr v.k (a / 8 * 8 + 8 * i)) 8 || v.renewed (a / 8 * 8 + 8 * i)
    then some (landFault causeEcc slot ea) else none
  | _ => none
/-- The item a load of local or window bytes is in a bank's order. -/
def loadItem (k c bid : Nat) (slot : Slot) (off addr len now : Nat) : BankItem :=
  { core := k, ctx := c, work := .load bid slot off addr len, issued := now, notBefore := 0, cycle := 0, ends := none }

/-- R141. The bytes of a piece that the context's own unretired stores of other alias classes give, as parts laid over the piece: by a free choice
for each 8-byte word. -/
def forwardParts (x : Ctx) (free bid ac : Nat) (q : Part) : List Part :=
  match q.loc with
  | some (.phys pa) => (List.range q.len).filterMap fun i =>
      match overlayGlobal x bid ac (pa + i) with
      | some (b, false) => if Config.draw (free + (pa + i) / 8) % 2 = 0 then some ⟨q.off + i, 1, q.ea + i, none, some [b], some 0, ac, none⟩ else none
      | _ => none
  | _ => []
/-- R141. Lays the bytes of racing stores over the pieces at `off` of the pending load of a bundle's slot. -/
def State.forward (s : State) (k c bid : Nat) (slot : Slot) (off : Nat) : State :=
  let x := s.ctx k c
  let more (parts : List Part) : List Part :=
    parts ++ (parts.filter fun q => q.off = off && q.data.isNone).flatMap fun q => forwardParts x s.free bid q.ac q
  s.modCtx k c fun x => { x with pend := x.pend.map fun p =>
    if p.bid = bid ∧ p.slot = slot then (match p.kind with | .load d parts => { p with kind := .load d (more parts) } | _ => p) else p }
/-- R36. The time by which a conflict with the copy sequencer delays the data of a local load: none while no copy under way touches the bank.
(Assumption log 7: DEDUCED.) -/
def State.copyDelay (s : State) (k b : Nat) : Nat := if (s.core k).cards.any fun d => d.copiesAt k b then Config.draw s.free else 0
/-- R258, R347. Sends one piece of a load to where it is read; the pending load is already in the context. A local load is performed at once where
nothing stands before it in its bank's order and everything before it in the context has been performed. -/
def State.sendLoad (s : State) (k c bid : Nat) (slot : Slot) (off len policy issued : Nat) (old : Bool) (loc : Where) : State :=
  match loc with
  | .spad a =>
    let b := a / 65536
    let q := placeIn (s.bank k b).queue k c issued old
    if q.1.isEmpty && !s.hardBefore k c bid false then
      s.bindLoad k c bid slot off (spadAddr k a) (s.spadRead k a len) (s.sfc + s.copyDelay k b)
    else s.modBank k b fun y => { y with queue := q.1 ++ [loadItem k c bid slot off a len issued] ++ q.2 }
  | .window k' a => s.sendWindow k' (a / 65536) (loadItem k c bid slot off a len issued)
  | .phys pa =>
    (s.forward k c bid slot off).readSector { core := k, ctx := c, bid := bid, slot := slot, off := off, addr := pa, len := len, bytes := none,
                                              policy := policy, prefetch := false }

/-! ### The order in which accesses are sent (R251, R259, R268, R347 to R354) -/

/-- R347. A load of global memory that has not been sent: it finds its order when its value is bound. -/
def Held.free (h : Held) : Bool := match h.work with | .load _ _ _ _ _ _ (.phys _) => true | _ => false
/-- An access that has not been sent may go on its way: its address is translated, the bundle that it waits for has retired, and for an access to
a bank, those before it have gone. What has to be performed before a load of the own core's banks then stands in their orders, where the load is
performed after it; before one of another core's bank it has been performed. `kept` are the accesses before it that stay.
(Assumption log 99: DEDUCED.) -/
def State.maySend (s : State) (k c : Nat) (kept : List Held) (h : Held) : Bool :=
  let gone := kept.all fun g => g.free || decide (h.bid ≤ g.bid)
  decide (h.notBefore ≤ s.sfc) && (s.ctx k c).past h.after && match h.work with
  | .load _ _ _ _ _ _ (.phys _) => true
  | .load _ _ _ _ _ _ (.spad _) => gone && !s.hardBefore k c h.bid true
  | .load _ _ _ _ _ _ (.window k' _) => gone && !s.hardBefore k c h.bid (k' = k)
  | .atomic _ _ _ => gone
/-- R258, R259. Sends an access: a load to where it is read, an atomic into the order of an own bank, in the next cycle, or toward another
core's. -/
def State.sendHeld (s : State) (k c : Nat) (h : Held) : State :=
  match h.work with
  | .load slot off len policy issued old loc => s.sendLoad k c h.bid slot off len policy issued old loc
  | .atomic k' b it => s.sendWindow k' b { it with notBefore := s.sfc + 1 }
/-- Sends, in issue order, every access of a list that may go; the others stay. -/
def State.sendAll (s : State) (k c : Nat) (kept : List Held) : List Held → State
  | [] => s.modCtx k c fun x => { x with held := kept }
  | h :: l => if s.maySend k c kept h then (s.sendHeld k c h).sendAll k c kept l else s.sendAll k c (kept ++ [h]) l
/-- R147, R259, R268. The accesses of a context that have not been sent go on their way as far as they may, and values that waited are bound. -/
def State.sendReady (s : State) (k c : Nat) : State :=
  let s := s.bindReady k c
  match (s.ctx k c).held with
  | [] => s
  | l => s.sendAll k c [] l
/-- R276. The SFC value from which an address is translated for a core. -/
def State.translated (s : State) (k ea : Nat) : Nat × State :=
  match spaceOf ea with
  | .global va => (match translate s (k / 128) va with | some l => s.tlbTime k va l.size | none => (s.sfc, s))
  | _ => (s.sfc, s)
/-- R251, R267, R268, R347, R357. The bundle that a piece of a load waits for before it is sent: one that gates every later access, or holds back
an access to the piece's bank. -/
def Ctx.sendAfter (x : Ctx) (k bid now : Nat) (p : Piece) : Option Nat :=
  x.lastUnretired bid fun i => i.gates || i.eff.any fun e => match p.loc with
    | .spad a => e.atBank k k (a / 65536) now p.old
    | .window k' a => e.atBank k k' (a / 65536) now false
    | .phys _ => false
/-- R347, R350 to R354. The bundle that the value of a piece of a load waits for: one that holds back a store in its alias class, or to the same
channel where both are to rows of armed passes. -/
def State.bindAfter (s : State) (k c bid ac : Nat) (w : Where) : Option Nat :=
  match w with
  | .phys pa =>
    let row (a : Nat) : Bool := s.nearArmed pa && s.nearArmed a && chanOfPc (homePc a) = chanOfPc (homePc pa)
    (s.ctx k c).lastUnretired bid fun i => i.eff.any fun e => e.inClass ac row
  | _ => none
/-- Adds one piece of a load of a bundle to the accesses to be sent. -/
def sendPiece (s : State) (k c bid : Nat) (slot : Slot) (policy : Nat) (p : Piece) : State :=
  let now := (s.core k).cycle
  let t := s.translated k p.ea
  t.2.modCtx k c fun x => { x with held := x.held ++
    [{ bid := bid, after := x.sendAfter k bid now p, notBefore := t.1, work := .load slot p.off p.len policy now p.old p.loc }] }

/-- A pending load for a slot's load. -/
def LoadOut.pend (l : LoadOut) (s : State) (k c bid : Nat) (slot : Slot) (arrive : Option (Fin 16)) : Pend :=
  { due := (s.ctx k c).cycle + l.lat, bid := bid, slot := slot, ln := l.ln, arrive := arrive, fault := none,
    kind := .load l.dest (((l.pieces.flatMap (s.splitPiece k c)).map fun p =>
      ⟨p.off, p.len, p.ea, some p.loc, none, none, l.ac, s.bindAfter k c bid l.ac p.loc⟩) ++ l.extra) }
/-- R35, R110, R147. A bundle is waited for: an access, or the value of a load, waits until it or a later bundle has retired, and a load that needs
that lands by context cycle n, or the core's clock stands still.
(Assumption log 99: DEDUCED.) -/
def State.pressed (s : State) (k c bid n : Nat) : Bool :=
  let x := s.ctx k c
  let on (b : Option Nat) : Bool := match b with | some b => decide (bid ≤ b) | none => false
  let waits (g : Pend) : Bool := (x.held.any fun h => h.bid = g.bid && on h.after)
    || (match g.kind with | .load _ parts => parts.any fun q => q.data.isNone && on q.after | _ => false)
  let lacks (p : Pend) : Bool := match p.kind with | .load _ parts => parts.any fun q => q.data.isNone | _ => false
  x.pend.any fun g => waits g && ((s.core k).frozen || x.pend.any fun p => decide (g.bid ≤ p.bid ∧ p.due ≤ n) && lacks p)
/-- A pending load. -/
def Pend.isLoad (p : Pend) : Bool := match p.kind with | .load _ _ => true | _ => false
/-- R230. A scheduler's answer that has not been given. -/
def Pend.answer (p : Pend) : Bool :=
  match p.kind with | .load (.scalar _ _ _) parts => parts.any fun q => q.loc.isNone && q.data.isNone | _ => false
/-- R34. The data of a part are there. -/
def Part.back (p : Part) (sfc : Nat) : Bool := p.data.isSome && (match p.readyAt with | some t => decide (t ≤ sfc) | none => false)
/-- R35. Every part of a load has come back. -/
def Pend.back (p : Pend) (sfc : Nat) : Bool := match p.kind with | .load _ parts => parts.all fun q => q.back sfc | _ => true
/-- R147. The values of a context's loads before bundle `bid` are bound. -/
def Ctx.loadsBound (x : Ctx) (bid : Nat) : Bool :=
  x.pend.all fun p => decide (bid ≤ p.bid) || (match p.kind with
    | .load _ parts => parts.all fun q => q.bound || (match q.loc with | some _ => false | none => true)
    | _ => true)

/-! ### The cluster-pair compare (R364) -/

/-- R364. The lanes of cluster c in a mask, as a number. -/
def clusterLanes (m : VPred) (c : Nat) : Nat := (List.range 16).foldl (fun n i => if m[16 * c + i]?.getD false then n + 2 ^ i else n) 0
/-- R364. A mismatch of the lanes written in a pair's two clusters, if there is one: the pair and the lanes that differ are free among those
written.
(Assumption log 85: DEDUCED.) -/
def pairMismatch (sl : Slot) (free : Nat) (m : VPred) : Option Trap :=
  let pairs := (List.range 4).filter fun p => clusterLanes m (2 * p + 1) ≠ 0
  if pairs.isEmpty ∨ Config.upset free = 0 then none
  else
    let w := (Config.freeWord free).toNat
    let p := pairs[w % 4 % pairs.length]?.getD 0
    let lanes := clusterLanes m (2 * p + 1)
    let differ := if (w / 4) &&& lanes = 0 then lanes else (w / 4) &&& lanes
    some ⟨causeLockstep, sl.code, p + 2 ^ 16 * differ, 6⟩

/-- R364. The fault of a pending result: its own, or the mismatch of a D-slot landing under LS = 1.
(Assumption log 85: DEDUCED.) -/
def State.comparePair (s : State) (k c : Nat) (p : Pend) : Option Trap × State :=
  match p.fault, p.kind with
  | none, .load (.vector _ m) _ =>
    if (s.ctx k c).lockstep && p.slot = .d then (pairMismatch .d s.free m, { s with free := s.free + 1 }) else (none, s)
  | f, _ => (f, s)

/-! ### The save image of a pre-empted context (R201, R202) -/

/-- The physical address of a byte of a context's save area, where it translates to DRAM of this module that the core's die reaches (R335).
(Assumption log 48: DEDUCED.) -/
def State.areaByte (s : State) (k va : Nat) : Option Nat :=
  match translate s (k / 128) va with
  | some l => if l.remote || bitAt l.pa 47 || !s.diesJoined (k / 128) (homeDie l.pa) then none else some l.pa
  | none => none
/-- The bytes of a context's image as they stand, for one part; none if some byte is not in this module's DRAM. -/
def State.imageBytes (s : State) (k area off n : Nat) : Option (List Byte) :=
  (List.range n).mapM fun i => (s.areaByte k (area + off + i)).map fun pa => s.enginePhys k pa
/-- Splits bytes into n-byte little-endian values. -/
def valuesOf (n : Nat) (bs : List Byte) : List Nat := (List.range (bs.length / n)).map fun i => leValue ((bs.drop (n * i)).take n)
/-- R202. A hawk as 20 bytes.
(Assumption log 98: DESIGN CHOICE.) -/
def Hawk.image (h : Hawk) : List Byte := [h.base, h.cap, h.rd, h.wr, h.filled].flatMap (leBytes 4)
/-- A hawk of an image. -/
def Hawk.ofImage (w : List Nat) : Hawk := ⟨w[0]?.getD 0, w[1]?.getD 0, w[2]?.getD 0, w[3]?.getD 0, w[4]?.getD 0⟩
/-- Writes bytes of a save image at their homes. -/
def State.imageWrite (s : State) (k va : Nat) (bs : List Byte) : State :=
  ((List.range bs.length).zip bs).foldl (fun s b =>
    match s.areaByte k (va + b.1) with | some pa => s.homeWrite k pa b.2 | none => s) s
/-- R202. The report part of a barrier entry in an image, and back.
(Assumption log 98: DESIGN CHOICE.) -/
def BarState.image (b : BarState) : List Byte :=
  leBytes 1 b.w.toNat ++ leBytes 1 (match b.ph with | none => 0 | some false => 1 | some true => 2) ++ leBytes 1 0 ++ leBytes 4 b.out
def BarState.ofImage (bs : List Byte) : BarState :=
  let ph := leValue ((bs.drop 1).take 1)
  ⟨decide (leValue (bs.take 1) ≠ 0), if ph = 0 then none else some (decide (ph = 2)), leValue ((bs.drop 3).take 4)⟩
/-- R202. The place in an image of the report part of a barrier entry. -/
def barOffset (i : Nat) : Nat := 0x400 + 440 + 16 * i + 9
/-- R201, R245. The report part of a barrier entry of a context changes; that of a SAVED one in its image too. -/
def State.modBar (s : State) (k c : Nat) (i : Fin 16) (f : BarState → BarState) : State :=
  let x := s.ctx k c
  let s := s.modCtx k c fun y => { y with bars := y.bars.set i (f y.bars[i]) }
  if x.status = .saved then
    match s.imageBytes k x.area (barOffset i.val) 7 with
    | some bs => s.imageWrite k (x.area + barOffset i.val) (f (BarState.ofImage bs)).image
    | none => s
  else s

/-! ### Arrivals (R244, R246) -/

/-- R244. Sends one arrival on an entry: W and PH, the arrival counted as outstanding, the release at PKG scope, and the arrival on its
way to the word's bank. -/
def State.sendArrival (s : State) (k c : Nat) (entry : Fin 16) : State :=
  match (s.ctx k c).regs.barAddr[entry] with
  | none => s
  | some addr =>
    let s := s.modBar k c entry fun b => { w := true, ph := if b.w then b.ph else none, out := b.out + 1 }
    match spaceOf addr with
    | .spad a =>
      let s := s.releaseVar k c (spadAddr k a) 3 true
      s.modBank k (a / 65536) fun b => b.add
        { core := k, ctx := c, work := .arrival a entry, issued := 0, notBefore := s.sfc + 2, cycle := 0, ends := none, sent := s.sfc }
    | .window k' a =>
      let s := s.releaseVar k c (spadAddr k' a) 3 true
      s.sendWindow k' (a / 65536)
        { core := k, ctx := c, work := .arrival a entry, issued := 0, notBefore := 0, cycle := 0, ends := none }
    | _ => s

/-- R248. Raises a semaphore of a context, saturating at 255. -/
def Ctx.signal (x : Ctx) (i : Fin 16) (n : Nat) : Ctx :=
  { x with sm := x.sm.set i (BitVec.ofNat 8 (min 255 (x.sm[i].toNat + n))) }

/-- R201, R248. A semaphore of a context is raised; that of a SAVED one in its image too. -/
def State.raise (s : State) (k c : Nat) (i : Fin 16) (n : Nat) : State :=
  let x := s.ctx k c
  let s := s.modCtx k c fun y => y.signal i n
  if x.status = .saved then
    match s.imageBytes k x.area (0x408 + i.val) 1 with
    | some bs => s.imageWrite k (x.area + 0x408 + i.val) [BitVec.ofNat 8 (min 255 (leValue bs + n))]
    | none => s
  else s

/-- R173, R187, R245, R293. An engine tells a context of a completion. -/
def State.notify (s : State) (n : Notify) : State :=
  let s := match n.sem with | some i => s.raise n.core n.ctx i 1 | none => s
  match n.arrive with | some e => s.sendArrival n.core n.ctx e | none => s

end Sys2Proof.Machine
end

