-- ==== Sys2Proof/Machine/Effects.lean ====
section
/-! DEFINITION. What a bundle does when it retires (spec/11 R196): each withheld effect, the state changes of contexts at retire
(SLEEP, YIELD, END), and bank modes (spec/16 R256, R257). -/
namespace Sys2Proof.Machine

/-- R148. Element address and pointers of a hawk. -/
def Hawk.free (h : Hawk) : Nat := h.cap - h.filled
/-- R151. HADVR. -/
def Hawk.advR (h : Hawk) (n : Nat) : Hawk := { h with rd := if h.cap = 0 then 0 else (h.rd + n) % h.cap, filled := h.filled - n }
/-- R151. HADVW. -/
def Hawk.advW (h : Hawk) (n : Nat) : Hawk := { h with wr := if h.cap = 0 then 0 else (h.wr + n) % h.cap, filled := h.filled + n }
/-- R186, R201. An engine advances a hawk of a context; that of a SAVED one in its image too. -/
def State.advanceHawk (s : State) (k c : Nat) (h : Fin 16) (n : Nat) : State :=
  let x := s.ctx k c
  let s := s.modCtx k c fun y => { y with hawks := y.hawks.set h (y.hawks[h].advW n) }
  if x.status = .saved then
    match s.imageBytes k x.area (0x418 + 20 * h.val) 20 with
    | some bs => s.imageWrite k (x.area + 0x418 + 20 * h.val) ((Hawk.ofImage (valuesOf 4 bs)).advW n).image
    | none => s
  else s
/-- R149. HSET. -/
def Hawk.set (base cap : Nat) : Hawk := ⟨base, cap, 0, 0, 0⟩
/-- The hawk effects of a bundle on one hawk. -/
def Effect.onHawk (e : Effect) (h : Fin 16) (x : Hawk) : Hawk :=
  match e with
  | .hawkSet i base cap => if i = h then Hawk.set base cap else x
  | .hawkRd i n => if i = h then x.advR n else x
  | .hawkWr i n => if i = h then x.advW n else x
  | _ => x
/-- R151. A hawk as bundles that issue now see it: with the advances of bundles that have not retired. -/
def Ctx.hawk (c : Ctx) (h : Fin 16) : Hawk :=
  c.inflight.foldl (fun x i => i.eff.foldl (fun x e => e.onHawk h x) x) c.hawks[h]

/-! ### Handler classes and SLEEP (R205, R344) -/

/-- R209. HARMk.ARM. -/
def Regs.armed (r : Regs) (k : Nat) : Bool := match r.harm[k]? with | some w => w.getLsbD 0 | none => false
/-- R205. Delivery of a message to a context: MSGINFO, ARM cleared, the program counter at the handler's line. -/
def Ctx.takeMessage (c : Ctx) (bank : Nat) (m : FifoMsg) : Ctx :=
  c.modRegs fun r => { r with
    msginfo := BitVec.ofNat 64 (m.cls * 2 ^ 37 + m.len % 65536 * 2 ^ 21 + (bank * 65536 + m.addr) % 2 ^ 21),
    pc := match r.harm[m.cls]? with | some w => lineOf w | none => r.pc,
    harm := r.harm.setIfInBounds m.cls (match r.harm[m.cls]? with | some w => w &&& ~~~1#64 | none => 0) }
/-- R344. Releases the messages a context has taken; space is reclaimed from the front of the FIFO. -/
def Core.releaseMessages (k : Core) (c : Nat) : Core :=
  { k with banks := Vector.ofFn fun b : Fin 32 =>
      let q := k.banks[b].fifo.map fun m => if m.taker = some c then { m with taker := some 4 } else m
      { k.banks[b] with fifo := q.dropWhile fun m => m.taker = some 4 } }
/-- R205. The waiting message of the lowest class that a context has armed: its bank and place. Of several of one class, the one in the
lowest-numbered bank, and there the oldest, is given first (the spec orders them by class alone).
(Assumption log 102: DESIGN CHOICE.) -/
def Core.waitingFor (k : Core) (c : Nat) : Option (Nat × FifoMsg) :=
  (List.range 8).findSome? fun cls =>
    if (k.ctx c).regs.armed cls then
      (List.range 32).findSome? fun b => ((k.bank b).fifo.find? fun m => m.taker.isNone ∧ m.cls = cls).map fun m => (b, m)
    else none
/-- Marks a message of a bank as taken by a context. -/
def Bank.take (b : Bank) (c : Nat) (m : FifoMsg) : Bank :=
  { b with fifo := b.fifo.map fun x => if x = m then { x with taker := some c } else x }
/-- R205, R343, R356. Hands a message of a bank to a context, whose handler's start synchronises with the SEND. -/
def State.handOver (s : State) (k c b : Nat) (m : FifoMsg) : State :=
  let s := match m.rel with | some r => s.takeRelease k c r | none => s
  s.modCore k fun x => (x.modBank b fun y => y.take c m).modCtx c fun y => y.takeMessage b m
/-- R205, R206. SLEEP at retire: a waiting message is delivered with no DORMANT interval, else the context goes DORMANT. -/
def State.sleep (s : State) (k c : Nat) : State :=
  let s := s.modCore k fun x => x.releaseMessages c
  match (s.core k).waitingFor c with
  | some (b, m) => s.handOver k c b m
  | none => s.modCore k fun x => (x.modCtx c fun y => { y with status := .dormant }).leavePort c
/-- R206, R29, R31. YIELD at retire. -/
def Core.yield (k : Core) (c : Nat) : Core :=
  if (k.ctx c).regs.detmode ∨ (k.ctx c).status ≠ .running then k
  else
    let k := k.modCtx c fun x => { x with status := .ready }
    k.leavePort c

/-! ### Bank modes (R256, R257) -/

/-- The code of a mode in BANKMODE. -/
def modeOf (m : Nat) : BankMode := if m = 1 then .cache else if m = 2 then .fifo else .scratch
/-- R257. The trap of a BANKMODE that finds the bank not owned or switching. -/
def bankModeTrap (k : Core) (c b : Nat) : Option Trap :=
  if !k.holds c b then some (issueFault causeNotOwned 7 (b * 65536))
  else if (k.bank b).mode = .toCache ∨ (k.bank b).mode = .fromCache then some (illegal .e .badValue)
  else none
/-- R256, R344. A bank enters a plain mode; the FIFO pointers reset when it enters FIFO mode. -/
def Bank.enter (b : Bank) (m : BankMode) : Bank :=
  { b with mode := m, notify := none, fifo := if m = .fifo ∧ b.mode ≠ .fifo then [] else b.fifo,
           fifoNext := if m = .fifo ∧ b.mode ≠ .fifo then 0 else b.fifoNext }
/-- R256, R257. A BANKMODE at retire. -/
def State.startBankMode (s : State) (k b : Nat) (m : BankMode) (n : Notify) : State :=
  let old := (s.bank k b).mode
  if m = .cache ∧ old ≠ .cache then
    s.modBank k b fun x => { x with mode := .toCache, nextMode := .cache, since := s.nextSeq, notify := some n }
  else if old = .cache ∧ m ≠ .cache then
    s.modBank k b fun x => { x with mode := .fromCache, nextMode := m, notify := some n }
  else (s.modBank k b fun x => x.enter m).notify n

/-- R218. BANKREL at retire: each owned bank of the mask leaves BANKOWN; it passes on at its hand-over. -/
def Core.releaseBanks (x : Core) (c m : Nat) : Core :=
  let f (b : Fin 32) : Bank := if bitAt m b.val && x.holds c b.val then { x.banks[b] with releasing := true } else x.banks[b]
  { x with banks := Vector.ofFn f }
/-- R165. Clears the two rows of a pair of a tile in the enabled clusters' columns. -/
def clearPair (acc : AMap (Vector Word32 64)) (tile pair : Nat) (clusters : BitVec 8) : AMap (Vector Word32 64) :=
  (List.range 8).foldl (fun m cl =>
    if clusters.getLsbD cl then
      let row := tile * 64 + 2 * pair + cl / 4
      let old := AMap.getD m row (Vector.replicate 64 0)
      AMap.set m row (Vector.ofFn fun j : Fin 64 => if j.val / 16 = cl % 4 then 0 else old[j])
    else m) acc

/-! ### Retire effects -/

/-- The reply word a skim or step command writes as pending at retire (R296, R310, R313). -/
def SkimOp.reply? : SkimOp → Option Nat
  | .sku _ _ _ => none
  | .skr _ r => some r
  | .wld d lfmt _ _ => some (d + (if lfmt = 0 then 2048 else if lfmt = 1 ∨ lfmt = 2 then 1024 else if lfmt = 5 then 384 else 512))
  | .stepc _ r => r
  | .lwm _ _ _ => none
  | .stepq r => some r
/-- Writes a reply word as pending. -/
def State.pendReply (s : State) (k c : Nat) (r : Option Nat) : State :=
  match r with | some a => s.spadWord k c a pendingWord | none => s
/-- Changes a slice of a region. -/
def State.modSlice (s : State) (r i : Nat) (f : Slice → Slice) : State :=
  match AMap.get? s.regions r with
  | some g => { s with regions := AMap.set s.regions r { g with slices := g.slices.modify i f } }
  | none => s
/-- Changes a region. -/
def State.modRegion (s : State) (r : Nat) (f : Region → Region) : State :=
  match AMap.get? s.regions r with
  | some g => { s with regions := AMap.set s.regions r (f g) }
  | none => s

/-- R286, R297, R341. A COATW completes as it retires: its region is gone, or one of its slices cannot be reached. -/
def State.endCoatw (s : State) (k c : Nat) (w : CoatWait) (status detail : Nat) : State :=
  ((s.releaseWord k c (spadAddr k w.reply) 3 []).spadWord k c w.reply (statusWord status 0 detail)).notify w.cmd.notify
/-- R196. One effect of a retiring bundle. -/
def State.applyEffect (s : State) (k c addr : Nat) (e : Effect) : State :=
  match e with
  | .sem i n => s.modCtx k c fun x => x.signal i n
  | .arrive i => s.sendArrival k c i
  | .hawkSet i base cap => s.modCtx k c fun x => { x with hawks := x.hawks.set i (Hawk.set base cap) }
  | .hawkRd i n => s.modCtx k c fun x => { x with hawks := x.hawks.set i (x.hawks[i].advR n) }
  | .hawkWr i n => s.modCtx k c fun x => { x with hawks := x.hawks.set i (x.hawks[i].advW n) }
  | .spadStore l cyc =>
    match l with
    | [] => s
    | p :: _ => s.modBank k (p.1 / 65536) fun b => b.add
        { core := k, ctx := c, work := .store l, issued := cyc, notBefore := 0, cycle := cyc + 1, ends := none, sent := s.sfc }
  | .globalStore _ l _ policy _ _ => l.foldl (fun s p => s.storePhys k c p.1 p.2 policy) s
  | .flush l => s.writeBack k c fun n => l.contains n
  | .windowStore _ k' _ _ l =>
    match l with
    | [] => s
    | p :: _ => s.sendWindow k' (p.1 / 65536)
        { core := k, ctx := c, work := .store l, issued := 0, notBefore := 0, cycle := 0, ends := none }
  | .trowel k' far op a bid arr =>
    let it : BankItem := { core := k, ctx := c, work := .trowel op a bid arr, issued := (s.core k).cycle, notBefore := s.sfc + 1,
                           cycle := 0, ends := none, far := far }
    s.sendWindow k' (a / 65536) it
  | .matrix bid => s.modCore k fun x => { x with mq := x.mq.map fun i => if i.ctx = c ∧ i.bid = bid then { i with eligible := true, since := s.sfc } else i }
  | .book i d t => if t < AMap.getD (s.core k).bookAt i 0 then s
      else (s.modCore k fun x => { x with book := AMap.set x.book i d, bookAt := AMap.set x.bookAt i t }).heal (bookWord k i) 8
  | .accClear tile pair clusters => s.modCore k fun x => { x with acc := clearPair x.acc tile pair clusters }
  | .card a q n mine fromDie => s.acceptCard k c a q n mine fromDie
  | .release var scope store => s.releaseVar k c var scope store
  | .bwait i => s.modCtx k c fun x => { x with bars := x.bars.set i { x.bars[i] with w := false } }
  | .bankRel m => s.modCore k fun x => x.releaseBanks c m
  | .bankMode b m n _ => s.startBankMode k b (modeOf m) n
  | .sleep => s.sleep k c
  | .yield => s.modCore k fun x => x.yield c
  | .endTask => s.modCore k fun x => (x.releaseMessages c).modCtx c fun y => { y with ending := true, status := .blocked }
  | .mslot n w => s.modCore k fun x => { x with mslot := x.mslot.set n w }
  | .xlroot w => s.modDie (k / 128) fun d => { d with xlroot := w }
  | .trace t p => s.traceRec { type := t, core := k, ctx := c, addr := addr, sfc := s.sfc, payload := p }
  | .skim r i cmd =>
    (s.modSlice r i fun x => { x with reserved := x.reserved - 1, transit := x.transit ++ [{ cmd with retiredAt := s.sfc }] }).pendReply k c cmd.op.reply?
  | .coatw r w =>
    let s := s.pendReply k c (some w.reply)
    match AMap.get? s.regions r with
    | some g =>
      if g.slices.all fun sl => s.diesJoined (k / 128) (sl.pc / 256) then s.modRegion r fun g => { g with coatw := g.coatw ++ [w] }
      else s.endCoatw k c w stLink 0
    | none => s.endCoatw k c w stAttr w.last
  | .chan ch cmd =>
    let s := { s with nextSeq := s.nextSeq + 1 }.modChan ch fun x => { x with cmds := x.cmds ++ [{ cmd with id := s.nextSeq }] }
    s.pendReply k c (some cmd.reply)
  | .send src len m =>
    let scope := if m.remote.isSome then 4 else 3
    let rel := s.releaseNow k c scope
    let s := (s.addRelEntry k c { id := 0, var := spadAddr k m.reply, scope := scope, sectors := (s.ctx k c).wrote }).startRelease rel
    if s.poisoned (spadAddr k src) len then
      ((s.releaseWord k c (spadAddr k m.reply) 3 []).spadWord k c m.reply (statusWord stEcc 0 0)).notify m.notify
    else
    let d := s.drawBelow (if m.remote.isSome then 4500 else if m.core / 128 = k / 128 then 64 else 320)
    let m := { m with bytes := s.engineSpad k c src len, readyAt := s.sfc + 1 + d.1, id := s.nextSeq, rel := some rel }
    let s' := match m.remote with | some l => d.2.sendFlits (6 + l) len | none => d.2
    { s' with messages := s.messages ++ [m], nextSeq := s.nextSeq + 1 }.pendReply k c (some m.reply)

/-- R196. The effects of a retiring bundle, in slot order. -/
def State.applyEffects (s : State) (k c addr : Nat) (l : List Effect) : State :=
  l.foldl (fun s e => s.applyEffect k c addr e) s

/-- R135, R257, R260, R341. What an access of a core to another core's bank, or by a window address to its own, finds: its die link DOWN, or a
bank that is no plain storage; an own bank on its way to CACHE still completes what was issued before. -/
def State.windowCause (s : State) (k k' a : Nat) : Option Nat :=
  let m := (s.bank k' (a / 65536)).mode
  if !s.diesJoined (k / 128) (k' / 128) then some causeXlate
  else if m.plain || (k = k' && m = .toCache) then none else some causeAttr
/-- R340, R341. What a global access of a core finds at a physical address when it is sent. -/
def State.physCause (s : State) (k pa : Nat) : Option Nat :=
  if bitAt pa 47 then s.windowCause k (bits pa 29 21) (bits pa 20 0)
  else if remotePa pa then (if s.remoteFlows k pa then none else some causeXlate)
  else if s.diesJoined (k / 128) (homeDie pa) then none else some causeXlate
/-- R257, R260, R341. The traps that an effect raises at retire, each with the place of its bytes in the operand: a bank mode or a link may have
changed since its bundle issued. -/
def State.effectTraps (s : State) (k c : Nat) (e : Effect) : List (Nat × Trap) :=
  match e with
  | .bankMode b _ _ info => (bankModeTrap (s.core k) c b).toList.map fun t => (0, if t.rank = 1 then { t with info := info } else t)
  | .windowStore slot k' off ea l => (l.head?.bind fun p => s.windowCause k k' p.1).toList.map fun x => (off, landFault x slot ea)
  | .globalStore slot l eas _ _ _ => (l.zip eas).filterMap fun p => (s.physCause k p.1.1).map fun x => (p.2.1, landFault x slot p.2.2)
  | .trowel k' far _ a _ _ => if !far then []
      else (s.windowCause k k' a).toList.map fun x => (0, landFault x 7 (0xFFFFFC0000000 + k' * 2 ^ 21 + a))
  | _ => []

end Sys2Proof.Machine
end

