-- ==== Sys2Proof/Machine/Commit.lean ====
section
/-! DEFINITION. Retire, rollback and trap entry of a context's bundles (spec/11 R196 to R199), and the one operation that issues a
bundle's slots (spec/02 R27 to R43, 05 R95, 15 R243 to R249, 23 R363, R364, R371). -/
namespace Sys2Proof.Machine

/-! ### Retire and rollback -/

/-- A bank item that belongs to a bundle number `bid` or later of a context. -/
def BankItem.ofBundle (it : BankItem) (k c bid : Nat) : Bool :=
  it.core = k && it.ctx = c && (match it.work with
    | .load b _ _ _ _ => decide (bid ≤ b)
    | .trowel (.atomic _ _ _) _ b _ => decide (bid ≤ b) && it.ends.isNone
    | _ => false)
/-- R197. Loads and atomics of discarded bundles leave the orders they wait in.
(Assumption log 91: DEDUCED.) -/
def State.dropRequests (s : State) (k c bid : Nat) : State :=
  let keep (r : DramReq) : Bool := !(r.core = k && r.ctx = c && r.bytes.isNone && decide (bid ≤ r.bid))
  let clearBank (b : Bank) : Bank := { b with queue := b.queue.filter fun it => !it.ofBundle k c bid }
  { s with
    cores := s.cores.map fun e => (e.1, { e.2 with banks := e.2.banks.map clearBank })
    chans := s.chans.map fun e => (e.1, { e.2 with q0 := e.2.q0.filter keep, q1 := e.2.q1.filter keep })
    links := s.links.map fun l => { l with reqs := l.reqs.filter fun r => keep r.req }
    transit := s.transit.filter fun t => !t.2.2.2.ofBundle k c bid
    sched := s.sched.filter fun r => !(r.core = k && r.ctx = c && decide (bid ≤ r.bid)) }
/-- R183, R287. The admission entries and the footprint entries that discarded bundles of a context had reserved are released.
(Assumption log 91: DEDUCED.) -/
def State.unreserve (s : State) (k c : Nat) (l : List Issued) : State :=
  l.foldl (fun s i => i.eff.foldl (fun s e => match e with
    | .skim r sl _ => s.modSlice r sl fun x => { x with reserved := x.reserved - 1 }
    | .card _ _ _ mine fromDie => s.freeFootprints k c mine fromDie
    | _ => s) s) s
/-- R249. Gives back the semaphore counts that discarded bundles took.
(Assumption log 91: DEDUCED.) -/
def Ctx.restoreTakes (x : Ctx) (l : List Issued) : Ctx :=
  l.foldl (fun x i => i.takes.foldl (fun x t => x.signal t.1 t.2) x) x
/-- R141, R197. A pending load without what racing stores of bundle `bid` and later ones may have given it. -/
def Pend.withoutRaces (p : Pend) (bid : Nat) : Pend :=
  match p.kind with
  | .load d parts => { p with kind := .load d (parts.filter fun q => !(q.loc.isNone && q.after.any fun b => decide (bid ≤ b))) }
  | _ => p
/-- R197. Bundle b and every later bundle of the context leave nothing behind.
(Assumption log 91: DEDUCED.) -/
def State.rollback (s : State) (k c : Nat) (b : Issued) : State :=
  let gone := (s.ctx k c).inflight.filter fun i => b.bid ≤ i.bid
  let s := if gone.isEmpty ∧ (s.ctx k c).pend.isEmpty then s else (s.dropRequests k c b.bid).unreserve k c gone
  s.modCore k fun core =>
    { core with mq := core.mq.filter fun i => !(i.ctx = c && decide (b.bid ≤ i.bid)) }.modCtx c fun x =>
      { x.restoreTakes gone with
        ending := x.ending && !gone.any fun i => i.eff.contains .endTask
        regs := b.snap, pend := (x.pend.filter fun (p : Pend) => p.bid < b.bid).map fun (p : Pend) => p.withoutRaces b.bid, inflight := x.inflight.filter fun i => i.bid < b.bid,
        held := x.held.filter fun h => h.bid < b.bid }

/-- The state of a context that has entered a trap (R198, R199): a blocked context whose bundle trapped is no longer blocked. -/
def Core.afterTrap (k : Core) (c : Nat) : Core :=
  let x := k.ctx c
  if x.status = .trapped then k.leavePort c
  else if x.status = .blocked then
    k.modCtx c fun y => { y with status := if k.port = some (ctxNo c) then .running else .ready }
  else k
/-- R196 to R199. Bundle b of a context traps: everything from b on is rolled back, and the trap is entered; of a context that goes TRAPPED,
firmware is notified. -/
def State.trapBundle (s : State) (k c : Nat) (b : Issued) (t : Trap) : State :=
  let s := s.rollback k c b
  let s := s.modCore k fun core => (core.modCtx c fun x => x.enterTrap b.addr b.next core.cycle t).afterTrap c
  let s := if (s.ctx k c).status = .trapped then { s with notices := s.notices ++ [(k, c, t.cause)] } else s
  s.traceRec { type := 2, core := k, ctx := c, addr := b.addr, sfc := s.sfc, payload := t.cause }

/-- R251, R347. A write of a context to a row of an armed pass that its channel has yet to perform. -/
def State.rowWrites (s : State) (k c : Nat) : Bool :=
  s.chans.any fun e => (e.2.q0 ++ e.2.q1).any fun r => r.bytes.isSome && r.core = k && r.ctx = c && s.nearArmed r.addr
/-- R251, R347. Nothing of the context that a FENCE waits for is left to perform at its scope: single-copy storage performs an access at
every scope at once, a write of cached global memory is performed at DIE scope and wider at its home. -/
def State.fenced (s : State) (k c scope : Nat) : Bool :=
  !(s.cores.any fun e => e.2.banks.any fun b => b.queue.any fun it => it.mine k c)
  && !(s.transit.any fun t => t.2.2.2.mine k c) && !s.rowWrites k c
  && (scope < 2 || (!s.writesQueued k c && !s.links.any fun l => l.reqs.any fun r => r.req.core = k && r.req.ctx = c && r.req.bytes.isSome))
/-- R251. An arrival of an earlier bundle still waits for a result to land. -/
def Ctx.owesArrival (x : Ctx) (bid : Nat) : Bool := x.pend.any fun p => decide (p.bid < bid) && p.arrive.isSome
/-- R267. No trowel command of the context in the mask's local banks, and with `remote` none that a window address named. -/
def State.tfenced (s : State) (k c mask : Nat) (remote : Bool) : Bool :=
  let mine (it : BankItem) : Bool := it.core = k && it.ctx = c && (match it.work with | .trowel _ _ _ _ => true | _ => false)
  !((List.range 32).any fun b => bitAt mask b && (s.bank k b).queue.any mine)
  && !(remote && ((s.cores.any fun e => e.2.banks.any fun b => b.queue.any fun it => mine it && it.far)
                  || s.transit.any fun t => mine t.2.2.2 && t.2.2.2.far))
/-- R35. The data of every load of a bundle of a context are there; the context cycle in which the last of them lands. -/
def Ctx.allBack (x : Ctx) (bid sfc : Nat) : Bool := x.pend.all fun p => p.bid ≠ bid || p.back sfc
def Ctx.landsAt (x : Ctx) (bid : Nat) : Nat := x.pend.foldl (fun n p => if p.bid = bid then max n p.due else n) 0
/-- Whether a retire condition of the oldest bundle holds. The checks of a bundle end when its context cycle or its landing has come, or before
that when they are waited for (R6, R110): the data of its loads are then back.
(Assumption log 88: DEDUCED.) (Assumption log 99: DEDUCED.) -/
def State.condHolds (s : State) (k c bid : Nat) (r : RetireCond) : Bool :=
  match r with
  | .cycle n => decide (n ≤ (s.ctx k c).cycle) || s.pressed k c bid n
  | .landed => !((s.ctx k c).pend.any fun p => p.bid = bid && p.isLoad)
      || ((s.ctx k c).allBack bid s.sfc && s.pressed k c bid ((s.ctx k c).landsAt bid))
  | .fence scope => s.fenced k c scope && !(s.ctx k c).owesArrival bid
  | .tfence m rem => s.tfenced k c m rem
  | .acquire var scope => s.acquireReady k c var scope
  | .commands b => !((s.bank k b).queue.any fun it => it.command && it.core = k && it.ctx = c)
/-- What a condition sets going when its bundle is the oldest: a FENCE at DIE scope or wider writes back the core's dirty blocks, an
acquire has the last releaser write back (R251, R357). -/
def State.condStart (s : State) (k c : Nat) (r : RetireCond) : State :=
  match r with
  | .fence scope => if 2 ≤ scope then s.writeBack k c (fun _ => true) else s
  | .acquire var scope => s.acquireStart k c var scope
  | _ => s
/-- What a condition does when it has been met. -/
def State.condEnd (s : State) (k c : Nat) (r : RetireCond) : State :=
  match r with
  | .acquire var scope => s.acquireEnd k c var scope
  | .fence scope => if 2 ≤ scope then s.purgeStale k (decide (3 ≤ scope)) (fun n => (s.ctx k c).wrote.contains n || (s.ctx k c).cover.contains n) else s
  | _ => s

/-- R250. A count that a bundle adds to a semaphore when it retires some cycles after its issue is seen from the next cycle on. -/
def Effect.count (e : Effect) : Option (Fin 16 × Nat) := match e with | .sem i n => some (i, n) | _ => none
/-- R350 to R353. What an effect does keeps its place behind every earlier load of the context (the columns REL, ACQ, JOB, SKU, SKR and WLD).
A trowel command keeps it at its bank. -/
def Effect.ordered (e : Effect) : Bool :=
  match e with
  | .arrive _ => true | .release _ _ _ => true | .bwait _ => true | .matrix _ => true | .book _ _ _ => true | .card _ _ _ _ _ => true
  | .bankMode _ _ _ _ => true | .skim _ _ _ => true | .coatw _ _ => true | .chan _ _ => true | .send _ _ _ => true
  | _ => false
/-- R350 to R353. A bundle retires only when every load before it has its value: a fence or an acquire, or one with an effect that is ordered
behind loads. -/
def Issued.ordered (i : Issued) : Bool := i.gates || i.eff.any Effect.ordered
/-- R110, R146, R364. The first fault among the loads of a bundle whose checks end before its landing cycle.
(Assumption log 85: DEDUCED.) -/
def State.earlyFault (s : State) (k c : Nat) : List Pend → Option Trap × State
  | [] => (none, s)
  | p :: l =>
    let r := s.comparePair k c p
    match r.1 with
    | some t => (some t, r.2)
    | none => r.2.earlyFault k c l
/-- R146. The failure of a bundle's accesses to report, as a retiring bundle finds it: by slot, then the cause that stands first in the table,
then the lowest place in the operand. -/
def firstFailure : List (Nat × Trap) → Option Trap
  | [] => none
  | (o, t) :: l =>
    let worse (u : Nat × Trap) : Bool := decide (u.2.slot < t.slot ∨ (u.2.slot = t.slot ∧ (lateOrder u.2.cause < lateOrder t.cause
      ∨ (lateOrder u.2.cause = lateOrder t.cause ∧ u.1 < o))))
    if l.any worse then firstFailure l else some t
/-- R147, R196, R350. The oldest issued bundle of a context retires, if what it waits for has come, and with effects that are ordered behind loads
the loads before it have their values; a fault of it traps instead.
(Assumption log 88: DEDUCED.) -/
def State.retireOldest (s : State) (k c : Nat) : State :=
  match (s.ctx k c).inflight with
  | [] => s
  | b :: _ =>
    match b.fault with
    | some t => s.trapBundle k c b t
    | none =>
      let s := b.conds.foldl (fun s r => s.condStart k c r) s
      if (b.conds.all fun r => s.condHolds k c b.bid r) && (!b.ordered || (s.ctx k c).loadsBound b.bid) then
        let r := if b.conds.contains .landed then s.earlyFault k c ((s.ctx k c).pend.filter fun p => p.bid = b.bid && p.isLoad) else (none, s)
        let s := r.2
        match r.1.orElse fun _ => if b.final then none else firstFailure (b.eff.flatMap fun e => s.effectTraps k c e) with
        | some t => s.trapBundle k c b t
        | none =>
          let s := b.conds.foldl (fun s r => s.condEnd k c r) s
          let s := s.modCtx k c fun x => { x with
            inflight := x.inflight.drop 1, retired := x.retired + 1, raised := x.raised ++ b.eff.filterMap Effect.count }
          (s.applyEffects k c b.addr (b.eff.filter fun e => e.count.isNone)).sendReady k c
      else s

/-! ### Barrier entries (R243) -/

/-- R243. The barrier-map address of an entry under a claim mask. -/
def mapAddr (claim entry : Nat) : Nat := Nat.log2 claim * 0x10000 + 0xFF00 + 8 * entry
/-- R212. The claim mask of a context's kernel. -/
def View.claim (v : View) : Nat :=
  match v.ctx.task with
  | some t => match AMap.get? v.s.kernels t.kernel with | some kn => kn.claim | none => 0
  | none => 0
/-- R243, R366. The address an entry is or becomes bound to, or the trap of a failed binding with TRAPSLOT `slot`. -/
def View.bind (v : View) (entry : Fin 16) (slot : Nat) : Except Trap Nat :=
  match v.r.barAddr[entry] with
  | some a => .ok a
  | none =>
    let bad : Trap := ⟨causeIllegal, slot, Reason.badValue.code, 1⟩
    if v.claim = 0 then .error bad
    else
      let m := mapAddr v.claim entry.val
      if !v.core.usable v.c (m / 65536) then .error (issueFault causeNotOwned slot m)
      else
        let x := leValue (v.s.spadIssue v.k v.c m 8)
        match v.nearEcc (.spad m) 8 m slot with
        | some t => .error t
        | none =>
        if x = 0 then .error bad
        else if x % 8 ≠ 0 then .error (issueFault causeMisaligned slot x)
        else match spaceOf x with
          | .global _ => .error (issueFault causeAttr slot x)
          | .bad => .error (issueFault causeXlate slot x)
          | _ => .ok x
/-- R243. The trap of a binding. -/
def View.bindTrap (v : View) (entry : Fin 16) (slot : Nat) : Option Trap :=
  match v.bind entry slot with | .error t => some t | .ok _ => none
/-- R243. The registers with an entry bound. -/
def View.bound (v : View) (entry : Fin 16) (r : Regs) : Regs :=
  match v.bind entry 0 with | .ok a => { r with barAddr := r.barAddr.set entry (some a) } | .error _ => r

/-! ### Stamps (R39 to R42) -/

/-- R39. The frame origin as the bundle sees it: a task's first bundle starts its frame. -/
def View.origin (v : View) : Nat :=
  match v.ctx.task with
  | some t => if t.started then v.r.origin.toNat else v.r.startAt.getD v.s.sfc
  | none => v.r.origin.toNat
/-- R39. FRAMEPOS.
(Assumption log 95: DEDUCED.) -/
def framePos (sfc origin len : Nat) : Nat := if len = 0 then 0 else (sfc - origin) % len
/-- R42. The SFC value a stamp names.
(Assumption log 95: DEDUCED.) -/
def View.stampTarget (v : View) : Nat :=
  match v.ctx.target with
  | some t => t
  | none =>
    let l := v.r.framelen.toNat
    let f := (v.s.sfc - v.origin) / l
    let f := match v.r.prevStamp with | some p => if v.hdr.stamp ≤ p then f + 1 else f | none => f
    v.origin + f * l + v.hdr.stamp
/-- R42. The stamp governs this bundle.
(Assumption log 95: DEDUCED.) -/
def View.stamped (v : View) : Bool := v.r.detmode && v.hdr.stamp ≠ 255
/-- R42. OVERRUN: the position has passed, or the stamp lies outside the frame.
(Assumption log 95: DEDUCED.) -/
def View.overrun (v : View) : Option Trap :=
  if v.stamped && (decide (v.r.framelen.toNat ≤ v.hdr.stamp) || decide (v.stampTarget < v.s.sfc)) then
    some ⟨causeOverrun, 0, v.hdr.stamp + 256 * framePos v.s.sfc v.origin v.r.framelen.toNat, 4⟩
  else none

/-! ### Soft errors in voted and compared results (R363, R364) -/

/-- R363. TRAPINFO of VOTE for a result: its number, and its kind in [6:5]; what is no register or scalar access counts as kind 0, number 0.
(Assumption log 85: DEDUCED.) -/
def Dest.voteInfo (d : Dest) : Nat :=
  match d with
  | .x r _ => r.val
  | .p r _ => r.val + 32
  | .vp r _ _ => r.val + 32
  | .v r _ _ => r.val + 64
  | _ => 0
/-- R363. TRAPINFO of VOTE for the address of a load of the B slot; a result that the scheduler brings to the C slot is an x register.
(Assumption log 85: DEDUCED.) -/
def LoadOut.voteInfo (l : LoadOut) (sl : Slot) : Nat :=
  match l.dest with | .scalar r _ _ => if sl = .b then r.val + 96 else r.val | _ => 0
/-- R363. The values of an effect that are voted: address and data of a B-slot store, or a C-slot effect.
(Assumption log 85: DEDUCED.) -/
def Effect.voted (e : Effect) (sl : Slot) : List Nat :=
  match e with
  | .spadStore _ _ => [96, 96]
  | .globalStore _ _ _ _ _ _ => [96, 96]
  | .windowStore _ _ _ _ _ => [96, 96]
  | _ => if sl = .c then [0] else []
/-- R363. Everything that a slot produces and that is voted, as TRAPINFO names it; a slot whose guard is false produces nothing.
(Assumption log 85: DEDUCED.) -/
def SlotOut.voted (o : SlotOut) (sl : Slot) : List Nat :=
  (o.res.map fun r => r.2.voteInfo) ++ (o.loads.map fun l => l.voteInfo sl) ++ (o.eff.flatMap fun e => e.voted sl)
    ++ (if o.target.isSome then [0] else []) ++ (if o.sets then [0] else [])
    ++ if sl = .c then (o.takes.map fun _ => 0) ++ o.conds.map fun _ => 0 else []
/-- R363. The votes on values: one differing copy is counted, three differing copies trap.
(Assumption log 85: DEDUCED.) -/
def voteValues (free : Nat) : List (Slot × Nat) → Nat × Option Trap
  | [] => (0, none)
  | v :: l =>
    let r := voteValues (free + 1) l
    let u := Config.upset free
    if u = 0 then r else if u = 1 then (r.1 + 1, r.2) else (r.1, some ⟨causeVote, v.1.code, v.2, 6⟩)
/-- R363. The votes of a critical bundle: on every value of its C, A, B and V slots. -/
def voteSlots (critical : Bool) (free : Nat) (l : List (Slot × SlotOut)) : Nat × Option Trap :=
  voteValues free (l.flatMap fun o =>
    if critical && (o.1 = .c || o.1 = .a || o.1 = .b || o.1 = .v) then (o.2.voted o.1).map fun n => (o.1, n) else [])
/-- R364. The lanes that a result writes; none for a result that no cluster writes as its partner's copy. -/
def Dest.pairLanes (d : Dest) : Option VPred :=
  match d with | .v _ m _ => some m | .vp _ m _ => some m | _ => none
/-- R364. The compares of V-slot results and MDRAIN under LS = 1.
(Assumption log 85: DEDUCED.) -/
def comparePairs (ls : Bool) (free : Nat) : List (Slot × SlotOut) → Option Trap
  | [] => none
  | (sl, o) :: l =>
    let found := if ls && (sl = .v || sl = .m) then
      o.res.findSome? fun r => r.2.pairLanes.bind fun m => pairMismatch sl (free + 8) m else none
    found.orElse fun _ => comparePairs ls (free + 1) l

/-! ### Issue -/

/-- R28, R29. The RUNNING context blocks: BLOCKED, and the port passes to the next READY context after this cycle and the next. -/
def State.blockCtx (s : State) (k c : Nat) : State :=
  s.modCore k fun core =>
    let core := core.modCtx c fun x => { x with status := .blocked }
    if (core.ctx c).regs.detmode then core
    else match core.nextReady c with
      | some _ => core.passPort c 2
      | none => core

/-- The place of a trapping or issuing bundle as an issued bundle. -/
def View.asIssued (v : View) : Issued :=
  { bid := v.ctx.nextBid, addr := v.addr, next := v.next, snap := v.r, eff := [], conds := [], fault := none, takes := [] }
/-- R196, R198. The bundle traps at issue. A trap is entered once every earlier bundle has retired; until then the context issues
nothing. -/
def View.trapNow (v : View) (t : Trap) : State :=
  if v.ctx.inflight.isEmpty then v.s.trapBundle v.k v.c v.asIssued t
  else v.s.modCtx v.k v.c fun x =>
    { x with inflight := x.inflight ++ [{ v.asIssued with fault := some t }], nextBid := x.nextBid + 1, target := none }

/-- R249. The amounts a bundle takes from each semaphore, wait field and WAITS together. -/
def takesOf (h : Header) (outs : List (Slot × SlotOut)) : List (Fin 16 × Nat) :=
  (if h.wen then [(h.wsem, h.wcnt + 1)] else []) ++ outs.flatMap fun o => o.2.takes
/-- R249. Every named semaphore holds the sum of what is taken from it. -/
def Ctx.canTake (x : Ctx) (l : List (Fin 16 × Nat)) : Bool :=
  l.all fun t => decide ((l.filter fun u => u.1 = t.1).foldl (fun n u => n + u.2) 0 ≤ x.sm[t.1].toNat)
/-- R249. Subtracts the amounts. -/
def Ctx.take (x : Ctx) (l : List (Fin 16 × Nat)) : Ctx :=
  l.foldl (fun x t => { x with sm := x.sm.set t.1 (BitVec.ofNat 8 (x.sm[t.1].toNat - t.2)) }) x

/-- R32. The pending results of a slot. -/
def slotPends (v : View) (bid : Nat) (o : Slot × SlotOut) : List Pend :=
  let arr := if o.2.arrive = .landing then arrivesOn v.hdr o.1 else none
  let res := o.2.res.map fun r =>
    ({ due := v.ctx.cycle + r.1, bid := bid, slot := o.1, kind := .value r.2, ln := none, arrive := arr, fault := none } : Pend)
  let loads := o.2.loads.map fun l => l.pend v.s v.k v.c bid o.1 arr
  res ++ loads
/-- R245. The arrivals a bundle sends at retire. -/
def retireArrivals (v : View) (outs : List (Slot × SlotOut)) : List Effect :=
  [Slot.c, .a, .b, .v, .m, .d, .e].filterMap fun sl =>
    match arrivesOn v.hdr sl with
    | none => none
    | some e =>
      match outs.find? fun o => o.1 = sl with
      | some o => if o.2.arrive = .retire then some (.arrive e) else none
      | none => some (.arrive e)
/-- R39, R238. The first bundle of a task: its frame origin, and its group RUNNING. -/
def State.startTask (s : State) (k c : Nat) : State :=
  match (s.ctx k c).task with
  | none => s
  | some t =>
    if t.started then s
    else
      let s := s.modCtx k c fun x => { x with
        task := some { t with started := true }, regs := { x.regs with origin := BitVec.ofNat 64 (x.regs.startAt.getD s.sfc) } }
      s.modLaunch t.launch fun l => if l.group = .bound then { l with group := .running } else l

/-- The loads of a bundle, with their slots, are to be sent, and go on their way as far as they may. -/
def sendLoads (v : View) (bid : Nat) (s : State) (l : List (Slot × LoadOut)) : State :=
  if l.isEmpty then s
  else (l.foldl (fun s o => (o.2.pieces.flatMap (v.s.splitPiece v.k v.c)).foldl (fun s p => sendPiece s v.k v.c bid o.1 o.2.policy p) s) s).sendReady v.k v.c
/-- R276. The addresses of global stores are looked up as they issue. -/
def State.lookUp (s : State) (k : Nat) (e : Effect) : State :=
  match e with | .globalStore _ _ eas _ _ _ => eas.foldl (fun s a => (s.translated k a.2).2) s | _ => s
/-- R27, R32, R196. The bundle issues: its results and loads are under way, its register changes stand for the next bundle, and its
effects happen now if nothing holds its retire back, else when it retires. -/
def commit (v : View) (outs : List (Slot × SlotOut)) : State :=
  let s := v.s.startTask v.k v.c
  let bid := v.ctx.nextBid
  let old := (s.ctx v.k v.c).regs
  let takes := takesOf v.hdr outs
  let named := if v.hdr.arr ≠ 0 then v.bound v.hdr.bar old else old
  let stamped := if v.stamped then { named with prevStamp := some v.hdr.stamp } else named
  let changed := outs.foldl (fun r o => o.2.regs r) { stamped with startAt := none, resumePos := none }
  let regs := match outs.findSome? fun o => o.2.target with
    | some t => { changed with pc := t }
    | none => advance changed v.addr v.next
  let idle := outs.foldl (fun n o => max n o.2.idle) 0
  let eff := (outs.flatMap fun o => o.2.eff) ++ retireArrivals v outs
  let conds := outs.flatMap fun o => o.2.conds
  let direct := v.ctx.inflight.isEmpty && conds.isEmpty && (!(eff.any Effect.ordered) || v.ctx.loadsBound bid)
  let s := s.modCtx v.k v.c fun x =>
    { x.take takes with
      regs := regs, pend := x.pend ++ outs.flatMap (slotPends v bid), nextBid := bid + 1, issueAt := v.now + 1 + idle, lastIssue := v.now + 1,
      target := none, retired := if direct then x.retired + 1 else x.retired,
      inflight := if direct then x.inflight else x.inflight ++
        [{ bid := bid, addr := v.addr, next := v.next, snap := old, eff := eff, conds := conds, fault := none, takes := takes }] }
  let s := { s with free := s.free + 16 }
  let s := outs.foldl (fun s o => o.2.state s bid) s
  let s := eff.foldl (fun s e => s.lookUp v.k e) s
  let s := sendLoads v bid s (outs.flatMap fun o => o.2.loads.map fun l => (o.1, l))
  if direct then s.applyEffects v.k v.c v.addr eff else s

/-- R94. A trap with its slot's opcode in TRAPINFO where the cause is ILLEGAL_BUNDLE. -/
def View.withOpcode (v : View) (opcode : Nat) (t : Trap) : Trap :=
  if t.rank = 1 then { t with info := t.info + illegalInfo v.sten opcode .resOp - 1 } else t
/-- R15. The slots and E-slot commands of the scalar subset, which control cores run: no vector unit, matrix engine or copy sequencer.
(Assumption log 97: DEDUCED.) -/
def scalarSubset (slot : Slot) (opcode : Nat) : Bool :=
  match slot with
  | .c => true | .a => true | .b => true
  | .e => !(opcode = 0x02 || opcode = 0x03 || (0x08 ≤ opcode && opcode ≤ 0x0B) || opcode = 0x20)
  | _ => opcode = 0
/-- R92, R95, R15. The illegal encoding of a slot that only its core and context tell: outside a control core's subset, or the slot's own.
(Assumption log 97: DEDUCED.) -/
def View.encTrap (v : View) (u : SlotUse) : Option Trap :=
  if !isWorker v.k && !scalarSubset u.slot u.opcode then some (encodingTrap ⟨.resOp, u.slot.code, u.opcode⟩ v.sten)
  else (u.spec.enc v).map (v.withOpcode u.opcode)
/-- R243. The header's own fault: the binding of its barrier register. -/
def View.headerTrap (v : View) : List Trap :=
  if v.hdr.arr ≠ 0 then (v.bindTrap v.hdr.bar 0).toList.map (v.withOpcode 0) else []
/-- R95, R243. A failed binding that makes the header illegal. -/
def View.headerIllegal (v : View) : Option Trap := v.headerTrap.find? fun t => t.rank = 1
/-- R43. The LATE that the bundle raises when data due in its cycle were not back.
(Assumption log 11: DEDUCED.) (Assumption log 94: DEDUCED.) -/
def View.lateTrap (v : View) : List Trap := v.ctx.late.toList.map fun n => ⟨causeLate, 0, n, 7⟩
/-- R95, R200. The first of the traps that the bundle raises at issue.
(Assumption log 10: DEDUCED.) -/
def View.issueTrap (v : View) (uses : List SlotUse) : Option Trap :=
  firstTrap (v.headerTrap ++ (uses.filterMap fun u => (u.spec.trap v).map (v.withOpcode u.opcode)) ++ v.overrun.toList ++ v.lateTrap)

/-- R239. A task of a deterministic group whose start is not fixed yet. -/
def View.unbound (v : View) : Bool :=
  match v.ctx.task.bind fun t => (v.s.launch? t.launch).map fun l => (t, l) with
  | some (t, l) => l.deterministic && l.start.isNone && !t.started
  | none => false
/-- R28, R41, R44, R239. The start of the bundle's group or frame, or the frame position at which a restored context resumes, has not come. -/
def View.beforeStart (v : View) : Bool :=
  v.unbound || (match v.r.startAt with | some t => decide (v.s.sfc < t) | none => false)
    || (match v.r.resumePos with
      | some p => v.r.detmode && decide (framePos v.s.sfc v.r.origin.toNat v.r.framelen.toNat ≠ p) | none => false)
/-- R28. The bundle blocks: its group or frame start has not come, a slot blocks, or the semaphores do not hold what it takes. A slot whose
operands make it illegal does not block (R95). -/
def View.blocks (v : View) (uses : List SlotUse) (outs : List (Slot × SlotOut)) : Bool :=
  v.beforeStart || (uses.any fun u => u.spec.block v && !((u.spec.trap v).any fun t => t.rank = 1))
  || !v.ctx.canTake (takesOf v.hdr outs)

/-- R42, R44. The bundle is kept for the SFC value that its stamp names; a restored context has reached the position at which it resumes. -/
def View.aim (v : View) : State := v.s.modCtx v.k v.c fun x => { x with target := some v.stampTarget, regs := { x.regs with resumePos := none } }
/-- R371. A precise stop: the bundle does not issue, and the context is pre-empted once its earlier bundles have retired and what is pending has
landed (R37). As a BRK in front of the bundle it comes before a LATE of its cycle (R200). -/
def View.preciseStop (v : View) (tag : Nat) : State :=
  let s := v.s.modCtx v.k v.c fun x => { x with preempt := some x.area, stopped := true, late := none }
  s.traceRec { type := 6, core := v.k, ctx := v.c, addr := v.addr, sfc := s.sfc, payload := tag }

/-- R200, R371. The precise stop that a slot makes, where no trap that comes before it is raised. -/
def View.stopTag (v : View) (uses : List SlotUse) : Option Nat :=
  match uses.findSome? fun u => u.spec.stop v with
  | some tag => if (v.issueTrap uses).any fun t => t.rank ≤ 2 then none else some tag
  | none => none
/-- R27, R28, R42, R200. A bundle of legal encodings at issue: blocked, then placed by its stamp, then stopped, trapped or issued. -/
def issueBundle (v : View) (uses : List SlotUse) : State :=
  match v.headerIllegal.orElse fun _ => uses.findSome? v.encTrap with
  | some t => v.trapNow t
  | none =>
  if v.ctx.late.isSome then
    (match v.stopTag uses, v.issueTrap uses with | some tag, _ => v.preciseStop tag | none, some t => v.trapNow t | none, none => v.s) else
  if v.beforeStart then v.s.blockCtx v.k v.c else
  let outs := uses.map fun u => (u.slot, u.spec.out v)
  if v.blocks uses outs then
    let s := if v.stamped then v.aim else v.s.modCtx v.k v.c fun x => { x with regs := { x.regs with resumePos := none } }
    s.blockCtx v.k v.c
  else if v.overrun.isSome then
    match v.stopTag uses with
    | some tag => v.preciseStop tag
    | none =>
    match v.issueTrap (uses.filter fun u => match u.spec.trap v with | some t => t.rank ≤ 3 | none => false) with
    | some t => v.trapNow t
    | none => v.s
  else if v.stamped && decide (v.s.sfc < v.stampTarget) then v.aim
  else match v.stopTag uses, v.issueTrap uses with
    | some tag, _ => v.preciseStop tag
    | none, some t => v.trapNow t
    | none, none =>
      let votes := voteSlots v.hdr.crit v.s.free outs
      let v' := { v with s := v.s.modCore v.k fun core =>
        { core with votecnt := BitVec.ofNat 32 (min (2 ^ 32 - 1) (core.votecnt.toNat + votes.1)) } }
      match firstTrap ((match votes.2 with | some t => [t] | none => []) ++
          (match comparePairs v.ctx.lockstep v.s.free outs with | some t => [t] | none => [])) with
      | some t => v'.trapNow t
      | none => commit (if v.hdr.crit then v' else v) outs

/-! ### The bundle at the program counter -/

/-- R210. The code line that holds a bundle address, if the kernel has it. -/
def State.fetchLine (s : State) (t : Task) (addr : Nat) : Option Nat :=
  match AMap.get? s.kernels t.kernel with
  | some kn => (kn.code[addr / 32]?).map fun b => b.toNat
  | none => none

/-- The RUNNING context that holds a core's issue port, if it may issue in this cycle: the core is not frozen or halted, the switch is
over, and no trap, pre-emption, kill or held-back SLEEP, YIELD or END stops it. -/
def Core.issuer (k : Core) : Option Nat :=
  match k.port with
  | none => none
  | some c =>
    let x := k.ctx c.val
    if k.frozen || k.halted || decide (k.cycle < k.portAt) || decide (k.cycle < x.issueAt) || x.status ≠ .running
      || x.preempt.isSome || x.killing || x.ending
      || x.inflight.any (fun i => i.fault.isSome || i.eff.any fun e => match e with
          | .sleep => true | .yield => true | .endTask => true | _ => false)
    then none else some c.val

/-- The view of a bundle with header h at the program counter of a core's issuing context; `line` is its code line. -/
def State.viewAt (s : State) (k c line : Nat) (h : Header) (modp : Option Modifiers) (sten : Option Nat) : View :=
  let pc := (s.ctx k c).regs.pc
  { s := s, k := k, c := c, hdr := h, modp := modp, addr := pc, next := nextAddr line pc, sten := sten }

/-- The meaning of one slot instruction by itself: the issue of a bundle that holds it and nothing else, by the RUNNING context of the
core in focus. Without a context that may issue, nothing issues. -/
def issueOne (slot : Slot) (opcode : Nat) (modp : Option Modifiers) (spec : SlotSpec) (s : State) : Out :=
  match if s.overheated then none else (s.core s.focus).issuer with
  | none => .next s
  | some c =>
    let line := match (s.ctx s.focus c).task with
      | some t => (s.fetchLine t (s.ctx s.focus c).regs.pc).getD (2 ^ 255)
      | none => 2 ^ 255
    .next (issueBundle (s.viewAt s.focus c line plainHeader modp none) [⟨slot, opcode, spec⟩])

end Sys2Proof.Machine
end

