-- ==== Sys2Proof/Machine/Operands.lean ====
section
/-! DEFINITION. Every operand form of the slots: registers, immediates, displacements, effective addresses, and the checks and places
of memory operands (spec/05 R84 to R90, 06 R96 to R109, 08 R134 to R146). -/
namespace Sys2Proof.Machine

/-- R87. The slot of a scalar instruction. -/
def laneSlot : Lane2 → Slot | .a => .a | .b => .b
/-- R100. A signed 12-bit immediate. -/
def imm12 (i : BitVec 12) : Word64 := i.signExtend 64
/-- R103. A signed 9-bit immediate. -/
def imm9 (i : BitVec 9) : Word64 := i.signExtend 64
/-- R101. LUI's immediate. -/
def imm17 (i : BitVec 17) : Word64 := i.signExtend 64 <<< 12
/-- R97. The value of a scalar register at issue. -/
def View.x (v : View) (i : Fin 32) : Word64 := v.r.rx i
/-- R97. The unsigned value of a scalar register. -/
def View.xn (v : View) (i : Fin 32) : Nat := (v.x i).toNat
/-- R107. base + signed byte offset. -/
def View.ea12 (v : View) (xa : Fin 32) (i : BitVec 12) : Nat := (v.x xa + imm12 i).toNat
/-- R142, R261. base + signed offset in 64-byte units. -/
def View.ea13 (v : View) (xa : Fin 32) (i : BitVec 13) : Nat := (v.x xa + i.signExtend 64 * 64).toNat
/-- R84. A line reached by a signed displacement from the bundle's line, as an integer. -/
def View.lineAt (v : View) (d : Int) : Int := (v.addr / 32 : Nat) + d
/-- R84, R85. The C slot's predicate.
(Assumption log 9: DEDUCED.) -/
def View.on (v : View) (g : Guard) : Bool := v.r.guard g

/-- R90, R139, R140. The modifiers of the D-slot operation: MODP if the bundle has one, else MEMDEF. -/
def memdefOf (m : BitVec 11) : Modifiers :=
  { ord := bits m.toNat 10 8, scope := bits m.toNat 7 5, policy := bits m.toNat 4 3, ac := bits m.toNat 2 0 }
/-- R139. The modifiers of a scalar access. -/
def View.scalarMods (v : View) : Modifiers := memdefOf v.r.memdef
/-- R140. The modifiers of a D-slot access. -/
def View.vectorMods (v : View) : Modifiers := v.modp.getD (memdefOf v.r.memdef)

/-! ### Where an operand lies -/

/-- A cause and its rank (5 at issue, 6 by the landing cycle). -/
structure Fail where
  cause : Nat
  rank : Nat
  deriving DecidableEq, Repr

/-- R275. XLROOT as a bundle sees it: with the writes of bundles that have not retired. -/
def View.xlroot (v : View) : Word32 :=
  v.ctx.inflight.foldl (fun w i => i.eff.foldl (fun w e => match e with | .xlroot y => y | _ => w) w) (v.s.die (v.k / 128)).xlroot

/-- R135, R256, R341. A byte of another core's bank: its die is joined to the core's, and its bank holds plain storage.
(Assumption log 23: DEDUCED.) -/
def View.windowPlace (v : View) (k a : Nat) : Except Fail Where :=
  if !v.s.diesJoined (v.k / 128) (k / 128) then .error ⟨causeXlate, 6⟩
  else if (v.s.bank k (a / 65536)).mode.plain then .ok (.window k a) else .error ⟨causeAttr, 6⟩
/-- R134, R135, R146, R277, R340, R341. The place of a byte address that one context accesses, or why it cannot; `badRank` is when an
address outside every space is found.
(Assumption log 23: DEDUCED.) -/
def View.locate (v : View) (badRank ea : Nat) (write : Bool) : Except Fail Where :=
  match spaceOf ea with
  | .spad a => if v.core.usable v.c (a / 65536) then .ok (.spad a) else .error ⟨causeNotOwned, 5⟩
  | .window k a => v.windowPlace k a
  | .bad => .error ⟨causeXlate, if 2 ^ 52 ≤ ea then badRank else 6⟩
  | .global va =>
    match v.s.translateUnder (v.k / 128) v.xlroot.toNat va with
    | none => .error ⟨causeXlate, 6⟩
    | some l =>
      if !l.allows write then .error ⟨causeAttr, 6⟩
      else if bitAt l.pa 47 then v.windowPlace (bits l.pa 29 21) (bits l.pa 20 0)
      else if l.remote && !v.s.remoteFlows v.k l.pa then .error ⟨causeXlate, 6⟩
      else if !l.remote && !v.s.diesJoined (v.k / 128) (homeDie l.pa) then .error ⟨causeXlate, 6⟩
      else .ok (.phys l.pa)

/-- A place in memory that is not the own scratchpad. -/
def Where.far : Where → Bool | .spad _ => false | _ => true
/-- The 8-byte word that holds a place, as a synchronisation variable (R252, R253, R355). -/
def Where.var (w : Where) (k : Nat) : Nat :=
  (match w with | .spad a => spadAddr k a | .window k' a => spadAddr k' a | .phys pa => pa) / 8 * 8

/-- R109, R146. The trap of a slot's failed access. -/
def Fail.trap (f : Fail) (slot ea : Nat) : Trap := ⟨f.cause, slot, ea, f.rank⟩

/-- R146. The place of a cause in the order in which causes are reported. -/
def Fail.order (f : Fail) : Nat :=
  if f.cause = causeMisaligned then 0
  else if f.cause = causeXlate ∧ f.rank = 5 then 1
  else if f.cause = causeNotOwned then 2
  else if f.cause = causeXlate then 3
  else if f.cause = causeAttr then 4
  else 5
/-- R146. The failure to report among the lanes', lowest lane first within a cause.
(Assumption log 20: DEDUCED.) -/
def firstFail : List (Nat × Fail) → Option (Nat × Fail)
  | [] => none
  | x :: l =>
    match firstFail l with
    | some y => if y.2.order < x.2.order then some y else some x
    | none => some x

/-- The pieces of an access of listed parts (offset in the result, address, length), or its failure. -/
def View.pieces (v : View) (badRank : Nat) (write : Bool) (parts : List (Nat × Nat × Nat)) : Except (Nat × Fail) (List Piece) :=
  let found := parts.map fun p => (p, v.locate badRank p.2.1 write)
  match firstFail (found.filterMap fun f => match f.2 with | .error e => some (f.1.2.1, e) | .ok _ => none) with
  | some e => .error e
  | none => .ok (found.filterMap fun f => match f.2 with | .ok w => some { off := f.1.1, len := f.1.2.2, ea := f.1.2.1, loc := w } | .error _ => none)

/-! ### Requests (R143) -/

/-- A physical piece of a load that takes a request until its data are served: a sector that misses, or a gather's lane. -/
def Part.asks (q : Part) (core : Core) (sfc : Nat) : Bool :=
  match q.loc, q.readyAt with
  | some (.phys pa), none => q.len = 4 || (core.l1Read? pa q.len).isNone
  | some (.phys _), some t => decide (sfc < t)
  | _, _ => false
/-- R184. The requests that a card has out: one for each sector sent and not served of the copies under way. -/
def Card.requests (d : Card) : Nat := d.copies.foldl (fun n q => n + (d.run q.1).reqs.length) 0
/-- R143, R152, R184. The requests a core has outstanding: the pieces of D-slot loads, the sectors and lanes of D-slot stores of bundles that
have not retired, prefetches, and sectors of copies.
(Assumption log 19: DEDUCED.) -/
def State.requestsOut (s : State) (k : Nat) : Nat :=
  let core := s.core k
  let asks (r : DramReq) : Bool := r.core = k && r.prefetch
  let loads (x : Ctx) : Nat := x.pend.foldl (fun n p => match p.kind with
    | .load _ parts => if p.slot = .d then n + (parts.filter fun q => q.asks core s.sfc).length else n
    | _ => n) 0
  let stores (x : Ctx) : Nat := x.inflight.foldl (fun n i => i.eff.foldl (fun n e => match e with
    | .globalStore _ _ _ _ _ need => n + need | _ => n) n) 0
  [0, 1, 2, 3].foldl (fun n c => n + loads (core.ctx c) + stores (core.ctx c)) 0
    + s.chans.foldl (fun n e => n + ((e.2.q0 ++ e.2.q1).filter asks).length) 0
    + s.links.foldl (fun n l => n + (l.reqs.filter fun r => asks r.req).length) 0
    + core.cards.foldl (fun n d => n + d.requests) 0
/-- R143. The requests that the pieces of a vector need: one for each global sector that misses in the first-level cache.
(Assumption log 19: DEDUCED.) -/
def View.requestsFor (v : View) (l : List Piece) : Nat :=
  (l.filter fun p => match p.loc with | .phys pa => (v.core.l1Read? pa p.len).isNone | _ => false).length
/-- R143. The requests that the lanes of a gather or scatter need: one for each global lane. -/
def lanesFor (l : List Piece) : Nat := (l.filter fun p => match p.loc with | .phys _ => true | _ => false).length
/-- R143. Too few requests are free.
(Assumption log 19: DEDUCED.) -/
def View.lacksRequests (v : View) (need : Nat) : Bool := decide (0 < need) && decide (768 < v.s.requestsOut v.k + need)
/-- R366. An uncorrectable error lies in the bytes of a place.
(Assumption log 83: PRESUMED.) -/
def View.poisonedAt (v : View) (w : Where) (n : Nat) : Bool :=
  match w with
  | .spad a => (v.nearEcc (.spad a) n 0 0).isSome
  | .window k a => v.s.poisoned (spadAddr k a) n
  | .phys pa => !remotePa pa && v.s.poisoned pa n
/-- R145. A landing slot still holds a landing not yet written. -/
def View.slotBusy (v : View) (ln : Fin 32) : Bool := v.ctx.pend.any fun p => p.ln = some ln

/-! ### Ordering of an access (R355) and its retire (R110, R147) -/

/-- R90. The access has acquire, or release, ordering.
(Assumption log 17: DEDUCED.) -/
def Modifiers.acquires (m : Modifiers) : Bool := m.ord % 2 = 1
def Modifiers.releases (m : Modifiers) : Bool := 2 ≤ m.ord
/-- R355. The release part of an access.
(Assumption log 17: DEDUCED.) -/
def releasePart (m : Modifiers) (k : Nat) (w : Option Where) : List Effect :=
  match w with | some w => if m.releases then [.release (w.var k) m.scope true] else [] | none => []
/-- R355. The acquire part of an access.
(Assumption log 17: DEDUCED.) -/
def acquirePart (m : Modifiers) (k : Nat) (w : Option Where) : List RetireCond :=
  match w with | some w => if m.acquires then [.acquire (w.var k) m.scope] else [] | none => []

/-- R141. A global store as it comes to be performed, as pieces of place in the operand, effective address, physical address and bytes: of each 8-byte
word that an unretired store of another alias class writes too, by a free choice its own bytes or the earlier store's stay. -/
def View.racedStore (v : View) (ac off ea pa : Nat) (bs : List Byte) : List ((Nat × Nat) × Nat × List Byte) :=
  let lost (a : Nat) : Bool := match overlayGlobal v.ctx v.ctx.nextBid ac a with
    | some (_, false) => Config.draw (v.s.free + a / 8) % 2 = 1 | _ => false
  if (List.range bs.length).any fun i => lost (pa + i) then
    (runsOf ((bytesAt pa bs).filter fun p => !lost p.1)).map fun r => ((off + (r.1 - pa), ea + (r.1 - pa)), r.1, r.2)
  else [((off, ea), pa, bs)]
/-- A part of a store: its place in the operand, its effective address, where it lies and its bytes. -/
abbrev StorePart := Nat × Nat × Where × List Byte
/-- The global pieces of a store. -/
def physPieces (l : List StorePart) : List (Nat × List Byte) :=
  l.filterMap fun p => match p.2.2.1 with | .phys pa => some (pa, p.2.2.2) | _ => none
/-- R141. The loads of earlier bundles that have not landed may return bytes of a later store of another alias class, by a free choice for each
8-byte word. -/
def State.raceLoads (s : State) (k c bid ac : Nat) (l : List (Nat × List Byte)) : State :=
  let byte (a : Nat) : Option Byte := l.findSome? fun p => if p.1 ≤ a then p.2[a - p.1]? else none
  let seen (q : Part) : List Part := match q.loc with
    | some (.phys pa) => if q.ac = ac then [] else (List.range q.len).filterMap fun i =>
        if Config.draw (s.free + (pa + i) / 8) % 2 = 0 then
          (byte (pa + i)).map fun b => ⟨q.off + i, 1, q.ea + i, none, some [b], some 0, q.ac, some bid⟩
        else none
    | _ => []
  if l.isEmpty then s
  else s.modCtx k c fun x => { x with pend := x.pend.map fun p => match p.kind with
    | .load d parts => if p.bid < bid then { p with kind := .load d (parts ++ parts.flatMap seen) } else p
    | _ => p }
/-- R258. The scratchpad bytes of a store, one withheld write for each bank. -/
def nearStores (near : List (Nat × Byte)) (now : Nat) : List Effect :=
  (List.range 32).filterMap fun b =>
    let mine := near.filter fun p => p.1 / 65536 = b
    if mine.isEmpty then none else some (Effect.spadStore mine now)
/-- The withheld write of a part that lies in a core's bank by a window address. -/
def farStore (slot : Nat) (p : StorePart) : Option Effect :=
  match p.2.2.1 with | .window k a => some (Effect.windowStore slot k p.1 p.2.1 (bytesAt a p.2.2.2)) | _ => none
/-- R144. The store effects of bytes at places, by slot code: scratchpad bytes, window bytes of a core, and physical pieces with the requests they
take; bytes that reach the own core's banks by local and by window addresses keep the order of the parts. What a release store writes, its
synchronisation variable, goes on to its home (R355). -/
def storeEffects (v : View) (m : Modifiers) (slot need : Nat) (l : List StorePart) : List Effect :=
  let nearOf (p : StorePart) : List (Nat × Byte) := match p.2.2.1 with | .spad a => bytesAt a p.2.2.2 | _ => []
  let phys := l.flatMap fun p => match p.2.2.1 with | .phys pa => v.racedStore m.ac p.1 p.2.1 pa p.2.2.2 | _ => []
  let ownWindow := l.any fun p => match p.2.2.1 with | .window k _ => k = v.k | _ => false
  let global := if (physPieces l).isEmpty then []
    else [Effect.globalStore slot (phys.map fun p => p.2) (phys.map fun p => p.1) m.policy m.ac need]
  let flush := if m.releases && !phys.isEmpty then [Effect.flush (phys.map fun p => p.2.1 / 64)] else []
  if ownWindow then global ++ flush ++ l.flatMap fun p => nearStores (nearOf p) v.now ++ (farStore slot p).toList
  else nearStores (l.flatMap nearOf) v.now ++ global ++ flush ++ l.filterMap (farStore slot)

end Sys2Proof.Machine
end

