-- ==== Sys2Proof/Machine/Flags.lean ====
section
/-! DEFINITION. The machine has no flags (spec/06 R97): comparisons write predicates. Here are the condition codes of the scalar
comparisons (R103), the integer comparisons of lanes (spec/07 R128), and the truth tables of predicate logic (R105, R133). -/
namespace Sys2Proof.Machine

/-- R86, R103. The conditions EQ, NE, LT, GE, LTN, GEN by code. -/
def cond64 (code : Nat) (a b : Word64) : Bool :=
  match code with
  | 0 => a == b
  | 1 => a != b
  | 2 => decide (a.toInt < b.toInt)
  | 3 => decide (b.toInt ≤ a.toInt)
  | 4 => decide (a.toNat < b.toNat)
  | 5 => decide (b.toNat ≤ a.toNat)
  | _ => false

/-- R105, R133. Bit 2a + b of a truth table. -/
def truthTable (t : BitVec 4) (a b : Bool) : Bool := t.getLsbD (2 * a.toNat + b.toNat)

end Sys2Proof.Machine
end

