-- ==== Sys2Proof/Machine/Num.lean ====
section
/-! DEFINITION. Number formats and arithmetic (spec/03 R47 to R63): exact values, decoding, rounding once into a format, the
correctly rounded functions, and block-scaled E2M1X. -/
namespace Sys2Proof.Machine

/-- An exact value: a NaN, an infinity, or (-1)^neg x m x 2^e; m = 0 is a signed zero. -/
inductive FVal
  | nan
  | inf (neg : Bool)
  | fin (neg : Bool) (m : Nat) (e : Int)
  deriving DecidableEq, Repr

/-- R51. The rounding modes by code: nearest even, toward zero, toward minus infinity, toward plus infinity. -/
inductive RMode | rn | rz | rd | ru
  deriving DecidableEq, Repr
/-- R51. The mode of a rounding field. -/
def rmode (c : Nat) : RMode := match c with | 0 => .rn | 1 => .rz | 2 => .rd | _ => .ru

/-- An exact zero. -/
def FVal.zero (neg : Bool) : FVal := .fin neg 0 0
/-- The value of an integer. -/
def FVal.ofInt (y : Int) : FVal := .fin (decide (y < 0)) y.natAbs 0
/-- The value with its sign inverted. -/
def FVal.negate : FVal → FVal
  | .nan => .nan | .inf s => .inf !s | .fin s m e => .fin (!s) m e
/-- The value with its sign cleared. -/
def FVal.abs : FVal → FVal
  | .nan => .nan | .inf _ => .inf false | .fin _ m e => .fin false m e
/-- A NaN. -/
def FVal.isNan : FVal → Bool | .nan => true | _ => false
/-- The sign. -/
def FVal.sign : FVal → Bool | .nan => false | .inf s => s | .fin s _ _ => s

/-- 2^n for a shift that may be negative: m x 2^e in units of 2^q, when q ≤ e. -/
def scaleTo (m : Nat) (e q : Int) : Nat := m * 2 ^ (e - q).toNat
/-- The signed integer of a finite value in units of 2^q, when q ≤ e. -/
def signedIn (neg : Bool) (m : Nat) (e q : Int) : Int := if neg then -(scaleTo m e q : Int) else scaleTo m e q
/-- The comparison of two values neither of which is NaN; -0 and +0 compare equal. -/
def FVal.compare : FVal → FVal → Ordering
  | .nan, _ => .eq
  | _, .nan => .eq
  | .inf a, .inf b => if a = b then .eq else if a then .lt else .gt
  | .inf a, _ => if a then .lt else .gt
  | _, .inf b => if b then .gt else .lt
  | .fin s m e, .fin t n f =>
    let q := min e f
    let x := signedIn s m e q
    let y := signedIn t n f q
    if x < y then .lt else if y < x then .gt else .eq

/-! ### Rounding (R51 to R54) -/

/-- Whether rounding moves the magnitude up to the next unit: `odd` of the kept part, the remainder against half a unit, and whether
anything nonzero was cut off. -/
def roundsUp (rm : RMode) (neg odd : Bool) (half : Ordering) (inexact : Bool) : Bool :=
  match rm with
  | .rn => match half with | .gt => true | .eq => odd | .lt => false
  | .rz => false
  | .rd => neg && inexact
  | .ru => !neg && inexact
/-- m x 2^e (plus a little less than one unit of it if `sticky`) rounded to a whole number of units of 2^q. -/
def roundMag (rm : RMode) (neg : Bool) (m : Nat) (e : Int) (sticky : Bool) (q : Int) : Nat :=
  if q ≤ e then scaleTo m e q
  else
    let sh := (q - e).toNat
    let keep := m / 2 ^ sh
    let rest := m % 2 ^ sh
    let half : Ordering := if 2 * rest < 2 ^ sh then .lt else if 2 ^ sh < 2 * rest ∨ sticky then .gt else .eq
    keep + (roundsUp rm neg (keep % 2 == 1) half (rest ≠ 0 || sticky)).toNat

/-- A format with an exponent field: the bits of its significand, the exponent of its smallest unit, the code of its largest finite
magnitude, its sign bit, its NaN, and its infinity if it has one. -/
structure FloatFmt where
  prec : Nat
  qmin : Int
  maxCode : Nat
  signBit : Nat
  nan : Nat
  inf : Option Nat
  deriving DecidableEq, Repr

/-- R47, R53. The formats with an exponent field, by number. -/
def floatFmt (fmt : Nat) : FloatFmt :=
  match fmt with
  | 1 => ⟨8, -133, 0x7F7F, 15, 0x7FC0, some 0x7F80⟩
  | 2 => ⟨11, -24, 0x7BFF, 15, 0x7E00, some 0x7C00⟩
  | 7 => ⟨4, -9, 0x7E, 7, 0x7F, none⟩
  | _ => ⟨24, -149, 0x7F7FFFFF, 31, 0x7FC00000, some 0x7F800000⟩

/-- R49, R52, R54. The code of an infinite result. -/
def FloatFmt.infCode (f : FloatFmt) (neg sat : Bool) : Nat :=
  match f.inf with
  | some c => c + neg.toNat * 2 ^ f.signBit
  | none => if sat then f.maxCode + neg.toNat * 2 ^ f.signBit else f.nan
/-- R52, R54. The code of a finite result that overflows. -/
def FloatFmt.overflow (f : FloatFmt) (rm : RMode) (neg sat : Bool) : Nat :=
  if sat then f.maxCode + neg.toNat * 2 ^ f.signBit
  else match f.inf with
    | none => f.nan
    | some _ =>
      let toMax := match rm with | .rn => false | .rz => true | .rd => !neg | .ru => neg
      if toMax then f.maxCode + neg.toNat * 2 ^ f.signBit else f.infCode neg sat
/-- R51, R52, R54. The code of an exact value rounded once. -/
def FloatFmt.encode (f : FloatFmt) (rm : RMode) (sat : Bool) (v : FVal) (sticky : Bool) : Nat :=
  match v with
  | .nan => f.nan
  | .inf s => f.infCode s sat
  | .fin s m e =>
    if m = 0 then s.toNat * 2 ^ f.signBit
    else
      let q := max f.qmin ((Nat.log2 m : Int) + e - (f.prec - 1 : Nat))
      let code := (q - f.qmin).toNat * 2 ^ (f.prec - 1) + roundMag rm s m e sticky q
      if f.maxCode < code then f.overflow rm s sat else code + s.toNat * 2 ^ f.signBit
/-- R49, R53. The exact value of a code. -/
def FloatFmt.decode (f : FloatFmt) (c : Nat) : FVal :=
  let s := bitAt c f.signBit
  let x := c % 2 ^ f.signBit
  if f.maxCode < x then (if f.inf = some x then .inf s else .nan)
  else
    let h := 2 ^ (f.prec - 1)
    if x < h then .fin s x f.qmin else .fin s (h + x % h) (f.qmin + (x / h - 1 : Nat))

/-! ### Tapered formats (R55 to R57) -/

/-- R55. The leading bits of the low n bits of m that equal b. -/
def runLength (m : Nat) (b : Bool) : Nat → Nat
  | 0 => 0
  | n + 1 => if bitAt m n = b then runLength m b n + 1 else 0
/-- R55. The magnitude of a nonzero magnitude field: significand and exponent. -/
def taperMag (n : Nat) (eb : Bool) (m : Nat) : Nat × Int :=
  let b := bitAt m (n - 1)
  let k := runLength m b n
  let big : Int := if b then (k : Int) - 1 else -(k : Int)
  let rest := n - k - 1
  let e := if eb && 1 ≤ rest then bits m (rest - 1) (rest - 1) else 0
  let rest := if eb then rest - 1 else rest
  let f := m % 2 ^ rest
  let x : Int := if eb then 2 * big + e else big
  (2 ^ rest + f, x - rest)
/-- R55. The value of a T8 or T6 code. -/
def taperDecode (n : Nat) (eb : Bool) (c : Nat) : FVal :=
  let m := c % 2 ^ n
  if m = 0 then (if bitAt c n then .nan else .zero false)
  else let x := taperMag n eb m; .fin (bitAt c n) x.1 x.2
/-- R57. The first magnitude field from k on that is nearest to x, ties to the even field; 12 fraction bits hold every magnitude. -/
def taperSearch (n : Nat) (eb : Bool) (m : Nat) (e : Int) (k : Nat) : Nat → Nat
  | 0 => 2 ^ n - 1
  | fuel + 1 =>
    if 2 ^ n ≤ k + 1 then 2 ^ n - 1
    else
      let a := taperMag n eb k
      let b := taperMag n eb (k + 1)
      let mid := scaleTo a.1 a.2 (-13) + scaleTo b.1 b.2 (-13)
      let o := (FVal.fin false m e).compare (.fin false mid (-14))
      if o = .lt ∨ (o = .eq ∧ k % 2 = 0) then k else taperSearch n eb m e (k + 1) fuel
/-- R57. The code of a value. -/
def taperEncode (n : Nat) (eb : Bool) (v : FVal) : Nat :=
  match v with
  | .nan => 2 ^ n
  | .inf s => s.toNat * 2 ^ n + (2 ^ n - 1)
  | .fin s m e => if m = 0 then 0 else s.toNat * 2 ^ n + taperSearch n eb m e 1 (2 ^ n)

/-! ### Integers (R61) -/

/-- The width of a format's element in bits; E2M1X has 4, T6 has 6. -/
def fmtBits (fmt : Nat) : Nat :=
  match fmt with | 0 => 32 | 1 => 16 | 2 => 16 | 3 => 32 | 4 => 32 | 5 => 16 | 6 => 8 | 7 => 8 | 8 => 6 | 9 => 4 | _ => 8
/-- An integer format. -/
def fmtInt (fmt : Nat) : Bool := fmt = 3 || fmt = 4 || fmt = 5
/-- The bounds of an integer format. -/
def intLow (fmt : Nat) : Int := if fmt = 3 then -2 ^ 31 else if fmt = 5 then -2 ^ 15 else 0
def intHigh (fmt : Nat) : Int := if fmt = 3 then 2 ^ 31 - 1 else if fmt = 5 then 2 ^ 15 - 1 else 2 ^ 32 - 1
/-- R61. An integer brought into an integer format: saturated, or its low bits. -/
def intInto (fmt : Nat) (sat : Bool) (y : Int) : Nat :=
  if sat then wrapNat (fmtBits fmt) (max (intLow fmt) (min (intHigh fmt) y)) else wrapNat (fmtBits fmt) y
/-- The integer of an integer format's code. -/
def intOf (fmt c : Nat) : Int := if fmt = 4 then (c % 2 ^ 32 : Nat) else sextNat (fmtBits fmt) c
/-- R61, R120. The magnitude of a finite value rounded to an integer. -/
def roundInt (rm : RMode) (neg : Bool) (m : Nat) (e : Int) : Nat := roundMag rm neg m e false 0
/-- R61. A value other than an integer's rounded into an integer format: the nearest bound outside the range, 0 for NaN. -/
def floatToInt (fmt : Nat) (rm : RMode) (v : FVal) : Nat :=
  match v with
  | .nan => 0
  | .inf s => wrapNat (fmtBits fmt) (if s then intLow fmt else intHigh fmt)
  | .fin s m e =>
    let y : Int := roundInt rm s m e
    wrapNat (fmtBits fmt) (max (intLow fmt) (min (intHigh fmt) (if s then -y else y)))

/-! ### All formats -/

/-- R47 to R59. The exact value of an element's code (E2M1X elements but for the escape). -/
def decodeNum (fmt c : Nat) : FVal :=
  match fmt with
  | 3 => .ofInt (intOf 3 c)
  | 4 => .ofInt (intOf 4 c)
  | 5 => .ofInt (intOf 5 c)
  | 6 => taperDecode 7 true c
  | 8 => taperDecode 5 false c
  | 9 =>
    let s := bitAt c 3
    let x := bits c 2 1
    let m := bits c 0 0
    if x = 0 then .fin (s && m = 1) m (-1) else .fin s (2 + m) (x - 2)
  | 10 => if c % 256 = 255 then .nan else .fin false 1 ((c % 256 : Nat) - 127)
  | f => (floatFmt f).decode (c % 2 ^ fmtBits f)
/-- R51 to R61. An exact value rounded once into a format; `sticky` says that its magnitude is a little larger. -/
def encodeNum (fmt : Nat) (rm : RMode) (sat : Bool) (v : FVal) (sticky : Bool := false) : Nat :=
  match fmt with
  | 3 => floatToInt 3 rm v
  | 4 => floatToInt 4 rm v
  | 5 => floatToInt 5 rm v
  | 6 => taperEncode 7 true v
  | 8 => taperEncode 5 false v
  | f => (floatFmt f).encode rm sat v sticky
/-- R51 to R61, R123. A code of one format converted into another. -/
def convert (src dst : Nat) (rm : RMode) (sat : Bool) (c : Nat) : Nat :=
  if fmtInt src && fmtInt dst then intInto dst sat (intOf src c)
  else encodeNum dst rm sat (decodeNum src c)

/-! ### Arithmetic on exact values (R49, R119) -/

/-- Addition; an exact zero sum of unlike signs is -0 only when rounding toward minus infinity. -/
def FVal.add (rm : RMode) (a b : FVal) : FVal :=
  match a, b with
  | .nan, _ => .nan
  | _, .nan => .nan
  | .inf s, .inf t => if s = t then .inf s else .nan
  | .inf s, _ => .inf s
  | _, .inf t => .inf t
  | .fin s m e, .fin t n f =>
    if m = 0 ∧ n = 0 then .zero (if s = t then s else rm = .rd)
    else
      let q := min e f
      let y := signedIn s m e q + signedIn t n f q
      if y = 0 then .zero (rm = .rd) else .fin (decide (y < 0)) y.natAbs q
/-- Multiplication. -/
def FVal.mul (a b : FVal) : FVal :=
  match a, b with
  | .nan, _ => .nan
  | _, .nan => .nan
  | .inf s, .inf t => .inf (s != t)
  | .inf s, .fin t n _ => if n = 0 then .nan else .inf (s != t)
  | .fin s m _, .inf t => if m = 0 then .nan else .inf (s != t)
  | .fin s m e, .fin t n f => .fin (s != t) (m * n) (e + f)
/-- Division: the quotient to 64 bits or more and whether a remainder is left. -/
def FVal.div (a b : FVal) : FVal × Bool :=
  match a, b with
  | .nan, _ => (.nan, false)
  | _, .nan => (.nan, false)
  | .inf _, .inf _ => (.nan, false)
  | .inf s, .fin t _ _ => (.inf (s != t), false)
  | .fin s _ _, .inf t => (.zero (s != t), false)
  | .fin s m e, .fin t n f =>
    if n = 0 then (if m = 0 then (.nan, false) else (.inf (s != t), false))
    else if m = 0 then (.zero (s != t), false)
    else
      let sh := Nat.log2 n + 64
      let x := m * 2 ^ sh
      (.fin (s != t) (x / n) (e - f - sh), x % n ≠ 0)
/-- Newton's step for the integer square root, from above. -/
def isqrtFrom (n r : Nat) : Nat → Nat
  | 0 => r
  | fuel + 1 => let r' := (r + n / r) / 2; if r' < r then isqrtFrom n r' fuel else r
/-- The integer square root. -/
def isqrt (n : Nat) : Nat := if n = 0 then 0 else isqrtFrom n (2 ^ (Nat.log2 n / 2 + 1)) (Nat.log2 n + 2)
/-- m x 2^e with an even exponent and a significand of 256 bits or more. -/
def evenScaled (m : Nat) (e : Int) : Nat × Int :=
  let odd := (e % 2).toNat
  (m * 2 ^ odd * 2 ^ 256, e - odd - 256)
/-- R62. The square root. -/
def FVal.sqrt (a : FVal) : FVal × Bool :=
  match a with
  | .nan => (.nan, false)
  | .inf s => (if s then .nan else .inf false, false)
  | .fin s m e =>
    if m = 0 then (.zero s, false)
    else if s then (.nan, false)
    else
      let x := evenScaled m e
      let r := isqrt x.1
      (.fin false r (x.2 / 2), r * r ≠ x.1)
/-- R62. The reciprocal square root. -/
def FVal.rsqrt (a : FVal) : FVal × Bool :=
  match a with
  | .nan => (.nan, false)
  | .inf s => (if s then .nan else .zero false, false)
  | .fin s m e =>
    if m = 0 then (.inf s, false)
    else if s then (.nan, false)
    else
      let odd := (e % 2).toNat
      let n := m * 2 ^ odd
      let t := Nat.log2 n + 128
      let r := isqrt (2 ^ (2 * t) / n)
      (.fin false r (-(e - odd) / 2 - t), r * r * n ≠ 2 ^ (2 * t))
/-- R62. The reciprocal. -/
def FVal.rcp (a : FVal) : FVal × Bool := FVal.div (.fin false 1 0) a

/-- The fraction bits that the exponential and the logarithm work with. -/
def workBits : Nat := 512
/-- 2^(0.f) for the k low bits of f, in units of 2^-workBits: y is the present factor 2^(2^-i). -/
def pow2Frac (f y acc : Nat) : Nat → Nat
  | 0 => acc
  | k + 1 =>
    let y := isqrt (y * 2 ^ workBits)
    pow2Frac f y (if bitAt f k then acc * y / 2 ^ workBits else acc) k
/-- R62. The power of two; an integer gives its power exactly, and beyond 2^±1000 only the size matters. -/
def FVal.exp2 (a : FVal) : FVal × Bool :=
  match a with
  | .nan => (.nan, false)
  | .inf s => (if s then .zero false else .inf false, false)
  | .fin s m e =>
    if m = 0 then (.fin false 1 0, false)
    else if 10 ≤ (Nat.log2 m : Int) + e then (.fin false 1 (if s then -1000 else 1000), false)
    else if 0 ≤ e then
      let y := scaleTo m e 0
      (.fin false 1 (if s then -(y : Int) else y), false)
    else
      let k := (-e).toNat
      let y : Int := if s then -(m : Int) else m
      let i := y / (2 : Int) ^ k
      let f := (y % (2 : Int) ^ k).toNat
      if f = 0 then (.fin false 1 i, false)
      else (.fin false (pow2Frac f (2 * 2 ^ workBits) (2 ^ workBits) k) (i - workBits), true)
/-- The next k bits of log2 of y, a value from 1 up to 2 in units of 2^-workBits. -/
def log2Frac (y acc : Nat) : Nat → Nat
  | 0 => acc
  | k + 1 =>
    let z := y * y / 2 ^ workBits
    if 2 * 2 ^ workBits ≤ z then log2Frac (z / 2) (2 * acc + 1) k else log2Frac z (2 * acc) k
/-- R62. The logarithm: exact for a power of two, else to 160 fraction bits. -/
def FVal.log2 (a : FVal) : FVal × Bool :=
  match a with
  | .nan => (.nan, false)
  | .inf s => (if s then .nan else .inf false, false)
  | .fin s m e =>
    if m = 0 then (.inf true, false)
    else if s then (.nan, false)
    else
      let k := Nat.log2 m
      let i := (k : Int) + e
      if m = 2 ^ k then (.ofInt i, false)
      else
        let n := i * (2 : Int) ^ 160 + log2Frac (m * 2 ^ workBits / 2 ^ k) 0 160
        if 0 ≤ n then (.fin false n.toNat (-160), true) else (.fin true (-n - 1).toNat (-160), true)
/-- R120. Rounding to an integral value; the sign is kept. -/
def FVal.rint (rm : RMode) (a : FVal) : FVal :=
  match a with
  | .fin s m e => .fin s (roundInt rm s m e) 0
  | x => x
/-- R50. The IEEE 754-2019 minimum. -/
def FVal.minimum (a b : FVal) : FVal :=
  if a.isNan || b.isNan then .nan
  else match a.compare b with
    | .lt => a | .gt => b
    | .eq => if a.sign then a else b
/-- R50. The IEEE 754-2019 maximum. -/
def FVal.maximum (a b : FVal) : FVal :=
  if a.isNan || b.isNan then .nan
  else match a.compare b with
    | .lt => b | .gt => a
    | .eq => if a.sign then b else a
/-- R58. Scaling by 2^(s - 127); NaN for 0xFF. -/
def FVal.scale (v : FVal) (s : Nat) : FVal :=
  if s = 255 then .nan
  else match v with
    | .fin t m e => .fin t m (e + (s : Int) - 127)
    | x => x
/-- R63. One chunk: the accumulator and the exact products summed and rounded once to FP32. -/
def chunkSum (init : Option FVal) (terms : List FVal) : Nat :=
  let p := terms.foldl (fun s x => match s with | none => some x | some y => some (FVal.add .rn y x)) none
  match init, p with
  | none, some y => encodeNum 0 .rn false y
  | some a, some y => encodeNum 0 .rn false (FVal.add .rn a y)
  | some a, none => encodeNum 0 .rn false a
  | none, none => 0
/-- R121, R128. The conditions of floating-point comparison by code. -/
def condFloat (code : Nat) (a b : FVal) : Bool :=
  let un := a.isNan || b.isNan
  let o := a.compare b
  match code with
  | 0 => !un && o == .eq
  | 1 => un || o != .eq
  | 2 => !un && o == .lt
  | 3 => !un && o != .lt
  | 4 => !un && o != .gt
  | 5 => !un && o == .gt
  | 6 => !un
  | _ => un

/-! ### E2M1X blocks (R59, R60) -/

/-- R59. The values of a block: elements, scale code, outlier slots.
(Assumption log 31: DEDUCED.) -/
def blockDecode (c : Nat) (ol : List Nat) : List Nat → Nat → List FVal
  | [], _ => []
  | x :: l, j =>
    if x % 16 = 8 then
      (match ol[j]? with | some o => if j ≤ 3 then decodeNum 1 o else .nan | none => .nan) :: blockDecode c ol l (j + 1)
    else (if c = 255 then .nan else (decodeNum 9 x).scale c) :: blockDecode c ol l j
/-- R60. NaN or infinite. -/
def FVal.special : FVal → Bool | .fin _ _ _ => false | _ => true
/-- R60. A magnitude greater than another's, specials above every finite value. -/
def FVal.outranks (a b : FVal) : Bool :=
  match a.special, b.special with
  | true, true => false | true, false => true | false, true => false
  | false, false => a.abs.compare b.abs == .gt
/-- R60. Element i is among the first four by magnitude, ties to the lower index. -/
def isCandidate (x : List FVal) (i : Nat) : Bool :=
  match x[i]? with
  | none => false
  | some v =>
    decide (((List.range x.length).filter fun j => match x[j]? with
      | some w => w.outranks v || (j < i && !v.outranks w)
      | none => false).length < 4)
/-- R60. M ≤ 6 x 2^e. -/
def fitsScale (m : FVal) (e : Int) : Bool := m.compare (.fin false 6 e) != .gt
/-- R60. The least exponent from `e` on that fits, at most 127. -/
def leastScale (m : FVal) (e : Int) : Nat → Int
  | 0 => e
  | fuel + 1 => if fitsScale m e then e else leastScale m (e + 1) fuel
/-- R60. The nearest E2M1 magnitude code of a magnitude, ties to the even code (the even mantissa bit), saturating at 6. -/
def e2m1Search (v : FVal) (k : Nat) : Nat → Nat
  | 0 => 7
  | fuel + 1 =>
    match decodeNum 9 k, decodeNum 9 (k + 1) with
    | .fin _ m e, .fin _ n f =>
      let mid := FVal.fin false (scaleTo m e (-1) + scaleTo n f (-1)) (-2)
      let o := v.compare mid
      if o = .lt ∨ (o = .eq ∧ k % 2 = 0) then k else e2m1Search v (k + 1) fuel
    | _, _ => 7
/-- R60. An element code at a scale exponent. -/
def e2m1Encode (v : FVal) (e : Int) : Nat :=
  match v with
  | .fin s m x => let k := e2m1Search (.fin false m (x - e)) 0 7; if k = 0 then 0 else k + (if s then 8 else 0)
  | _ => 0
/-- R60. A block of values: element codes, the scale code, the four outlier slots. -/
def blockEncode (x : List FVal) : List Nat × Nat × List Nat :=
  let specials := (List.range x.length).filter fun i => match x[i]? with | some v => v.special | none => false
  let slots (l : List Nat) : List Nat :=
    let o := l.filterMap fun i => (x[i]?).map fun v => encodeNum 1 .rn false v
    (o ++ List.replicate 4 0).take 4
  if 4 < specials.length then
    let o := specials.take 4
    ((List.range x.length).map fun i => if o.contains i then 8 else 0, 255, slots o)
  else
    let m := (List.range x.length).foldl (fun m i => match x[i]? with
      | some v => if isCandidate x i then m else if v.outranks m then v.abs else m
      | none => m) (FVal.zero false)
    let e := leastScale m (-127) 254
    let o := (List.range x.length).filter fun i => match x[i]? with
      | some v => isCandidate x i && (v.special || !fitsScale v.abs e)
      | none => false
    ((List.range x.length).map fun i => if o.contains i then 8 else match x[i]? with | some v => e2m1Encode v e | none => 0,
     (e + 127).toNat, slots o)

end Sys2Proof.Machine
end

