-- ==== Sys2Proof/Machine/Vector.lean ====
section
/-! DEFINITION. The V slot (spec/07): floating-point and integer arithmetic on the elements of lanes, comparisons, conversions, data
movement within and between clusters, reductions, and predicate logic. -/
namespace Sys2Proof.Machine

/-! ### Masks and results (R113 to R116) -/

/-- R114. The lanes an instruction writes: cluster mask, lane predicate and negate bit, sampled at issue. -/
def View.mask (v : View) (g : Guard) : VPred := laneMask v.r.clm v.ctx.lockstep (v.r.rvp g.p) g.neg
/-- A lane of a vector register. -/
def View.lane (v : View) (r : Fin 32) (j : Nat) : Word32 := (v.r.rv r)[j]?.getD 0
/-- R114. An operation that writes each written lane with a value of the lane it takes its work from. -/
def vecSpec (lat : Nat) (g : Guard) (vd : Fin 32) (f : View → Nat → Word32) : SlotSpec :=
  { out := fun v =>
      { res := [(lat, .v vd (v.mask g) (Vector.ofFn fun i : Fin 128 => f v (srcLane v.ctx.lockstep i.val)))], arrive := .landing } }
/-- R114. An operation that writes predicate bits. -/
def vpredSpec (lat : Nat) (g : Guard) (pd : Fin 8) (f : View → Nat → Bool) : SlotSpec :=
  { out := fun v =>
      { res := [(lat, .vp pd (v.mask g) (Vector.ofFn fun i : Fin 128 => f v (srcLane v.ctx.lockstep i.val)))], arrive := .landing } }

/-! ### Elements of a lane (R48, R123) -/

/-- R123. The elements of a lane in a format. -/
def lanesOf (fmt : Nat) : Nat := match fmt with | 0 => 1 | 3 => 1 | 4 => 1 | 6 => 4 | 7 => 4 | _ => 2
/-- R48. Element i of a lane. -/
def element (fmt : Nat) (w : Word32) (i : Nat) : Nat :=
  let b := 32 / lanesOf fmt
  w.toNat / 2 ^ (b * i) % 2 ^ b
/-- R48. A lane with element i from the list, in order. -/
def packElements (fmt : Nat) (l : List Nat) : Word32 :=
  let b := 32 / lanesOf fmt
  BitVec.ofNat 32 (l.foldr (fun x acc => x % 2 ^ b + 2 ^ b * acc) 0)
/-- R119. Each element by itself. -/
def mapElements (fmt : Nat) (f : Nat → Nat) : Word32 := packElements fmt ((List.range (lanesOf fmt)).map f)
/-- The exact value of element i. -/
def elementVal (fmt : Nat) (w : Word32) (i : Nat) : FVal := decodeNum fmt (element fmt w i)
/-- A function of one operand, rounded once. -/
def unary (fmt : Nat) (rm : RMode) (sat : Bool) (f : FVal → FVal × Bool) (a : Word32) : Word32 :=
  mapElements fmt fun i => let r := f (elementVal fmt a i); encodeNum fmt rm sat r.1 r.2
/-- A function of two operands, rounded once. -/
def binary (fmt : Nat) (rm : RMode) (sat : Bool) (f : FVal → FVal → FVal × Bool) (a b : Word32) : Word32 :=
  mapElements fmt fun i => let r := f (elementVal fmt a i) (elementVal fmt b i); encodeNum fmt rm sat r.1 r.2
/-- A function of three operands, rounded once. -/
def ternary (fmt : Nat) (rm : RMode) (sat : Bool) (f : FVal → FVal → FVal → FVal) (a b c : Word32) : Word32 :=
  mapElements fmt fun i => encodeNum fmt rm sat (f (elementVal fmt a i) (elementVal fmt b i) (elementVal fmt c i))

/-! ### Floating point (R119 to R124) -/

def vnopSpec : SlotSpec := {}
def vaddSpec (g : Guard) (fmt : Fin 8) (vd va vb : Fin 32) (rm : Fin 4) (sat : Bool) : SlotSpec :=
  vecSpec 4 g vd fun v j => binary fmt.val (rmode rm.val) sat (fun a b => (.add (rmode rm.val) a b, false)) (v.lane va j) (v.lane vb j)
def vsubSpec (g : Guard) (fmt : Fin 8) (vd va vb : Fin 32) (rm : Fin 4) (sat : Bool) : SlotSpec :=
  vecSpec 4 g vd fun v j => binary fmt.val (rmode rm.val) sat (fun a b => (.add (rmode rm.val) a b.negate, false)) (v.lane va j) (v.lane vb j)
def vmulSpec (g : Guard) (fmt : Fin 8) (vd va vb : Fin 32) (rm : Fin 4) (sat : Bool) : SlotSpec :=
  vecSpec 4 g vd fun v j => binary fmt.val (rmode rm.val) sat (fun a b => (.mul a b, false)) (v.lane va j) (v.lane vb j)
def vfmaSpec (g : Guard) (fmt : Fin 8) (vd va vb vc : Fin 32) (rm : Fin 4) (sat : Bool) : SlotSpec :=
  vecSpec 4 g vd fun v j => ternary fmt.val (rmode rm.val) sat (fun a b c => .add (rmode rm.val) (.mul a b) c)
    (v.lane va j) (v.lane vb j) (v.lane vc j)
def vfmsSpec (g : Guard) (fmt : Fin 8) (vd va vb vc : Fin 32) (rm : Fin 4) (sat : Bool) : SlotSpec :=
  vecSpec 4 g vd fun v j => ternary fmt.val (rmode rm.val) sat (fun a b c => .add (rmode rm.val) (.mul a b) c.negate)
    (v.lane va j) (v.lane vb j) (v.lane vc j)
def vfnmaSpec (g : Guard) (fmt : Fin 8) (vd va vb vc : Fin 32) (rm : Fin 4) (sat : Bool) : SlotSpec :=
  vecSpec 4 g vd fun v j => ternary fmt.val (rmode rm.val) sat (fun a b c => .add (rmode rm.val) (.mul a.negate b) c)
    (v.lane va j) (v.lane vb j) (v.lane vc j)
def vminSpec (g : Guard) (fmt : Fin 8) (vd va vb : Fin 32) : SlotSpec :=
  vecSpec 2 g vd fun v j => binary fmt.val .rn false (fun a b => (.minimum a b, false)) (v.lane va j) (v.lane vb j)
def vmaxSpec (g : Guard) (fmt : Fin 8) (vd va vb : Fin 32) : SlotSpec :=
  vecSpec 2 g vd fun v j => binary fmt.val .rn false (fun a b => (.maximum a b, false)) (v.lane va j) (v.lane vb j)
def vabsSpec (g : Guard) (fmt : Fin 8) (vd va : Fin 32) : SlotSpec :=
  vecSpec 2 g vd fun v j => unary fmt.val .rn false (fun a => (a.abs, false)) (v.lane va j)
def vnegSpec (g : Guard) (fmt : Fin 8) (vd va : Fin 32) : SlotSpec :=
  vecSpec 2 g vd fun v j => unary fmt.val .rn false (fun a => (a.negate, false)) (v.lane va j)
/-- R121. -/
def vcmpSpec (g : Guard) (fmt pd : Fin 8) (va vb : Fin 32) (cond : Fin 8) (part : Bool) : SlotSpec :=
  vpredSpec 2 g pd fun v j =>
    condFloat cond.val (elementVal fmt.val (v.lane va j) part.toNat) (elementVal fmt.val (v.lane vb j) part.toNat)
/-- R122. The selecting predicate is apart from the mask. -/
def vselSpec (g : Guard) (vd va vb : Fin 32) (ps : Fin 8) (inv : Bool) : SlotSpec :=
  vecSpec 2 g vd fun v j => if (v.r.rvp ps)[j]?.getD false != inv then v.lane va j else v.lane vb j
def vdivSpec (g : Guard) (fmt : Fin 8) (vd va vb : Fin 32) (rm : Fin 4) (sat : Bool) : SlotSpec :=
  vecSpec 14 g vd fun v j => binary fmt.val (rmode rm.val) sat FVal.div (v.lane va j) (v.lane vb j)
def vsqrtSpec (g : Guard) (fmt : Fin 8) (vd va : Fin 32) (rm : Fin 4) (sat : Bool) : SlotSpec :=
  vecSpec 14 g vd fun v j => unary fmt.val (rmode rm.val) sat FVal.sqrt (v.lane va j)
def vrcpSpec (g : Guard) (fmt : Fin 8) (vd va : Fin 32) (rm : Fin 4) (sat : Bool) : SlotSpec :=
  vecSpec 8 g vd fun v j => unary fmt.val (rmode rm.val) sat FVal.rcp (v.lane va j)
def vrsqSpec (g : Guard) (fmt : Fin 8) (vd va : Fin 32) (rm : Fin 4) (sat : Bool) : SlotSpec :=
  vecSpec 8 g vd fun v j => unary fmt.val (rmode rm.val) sat FVal.rsqrt (v.lane va j)
def vexp2Spec (g : Guard) (fmt : Fin 8) (vd va : Fin 32) (rm : Fin 4) (sat : Bool) : SlotSpec :=
  vecSpec 8 g vd fun v j => unary fmt.val (rmode rm.val) sat FVal.exp2 (v.lane va j)
def vlog2Spec (g : Guard) (fmt : Fin 8) (vd va : Fin 32) (rm : Fin 4) (sat : Bool) : SlotSpec :=
  vecSpec 8 g vd fun v j => unary fmt.val (rmode rm.val) sat FVal.log2 (v.lane va j)
/-- R123. The lane of a conversion: same count, narrowing into part, or widening from part. -/
def convertLane (src dst : Nat) (rm : RMode) (sat : Bool) (part : Nat) (a c : Word32) : Word32 :=
  let ns := lanesOf src
  let nd := lanesOf dst
  let conv (i : Nat) : Nat := convert src dst rm sat (element src a i)
  if ns = nd then mapElements dst conv
  else if ns < nd then mapElements dst fun i => if part * ns ≤ i ∧ i < part * ns + ns then conv (i - part * ns) else element dst c i
  else mapElements dst fun i => conv (part * nd + i)
/-- R123. -/
def vcvtSpec (g : Guard) (fmt : Fin 8) (vd va vc : Fin 32) (rm : Fin 4) (sat : Bool) (src : Fin 8) (part : Fin 4) : SlotSpec :=
  vecSpec 4 g vd fun v j => convertLane src.val fmt.val (rmode rm.val) sat part.val (v.lane va j) (v.lane vc j)
/-- R124. The scale of a lane is an entry of a scale register or the low byte of vb. -/
def vsclSpec (g : Guard) (fmt : Fin 8) (vd va vb : Fin 32) (rm : Fin 4) (sat byReg : Bool) (ks : Fin 8) : SlotSpec :=
  vecSpec 4 g vd fun v j =>
    let sc := if byReg then (v.lane vb j).toNat % 256 else ((v.r.ks[ks])[j]?.getD 0).toNat
    unary fmt.val (rmode rm.val) sat (fun a => (a.scale sc, false)) (v.lane va j)
/-- R120. -/
def vrintSpec (g : Guard) (fmt : Fin 8) (vd va : Fin 32) (rm : Fin 4) : SlotSpec :=
  vecSpec 4 g vd fun v j => unary fmt.val .rn false (fun a => (a.rint (rmode rm.val), false)) (v.lane va j)

/-! ### Integers (R125 to R128) -/

/-- R125. An exact integer operation on each element, wrapped or saturated. -/
def intLane (fmt : Nat) (sat : Bool) (f : Int → Int → Int) (a b : Word32) : Word32 :=
  mapElements fmt fun i => intInto fmt sat (f (intOf fmt (element fmt a i)) (intOf fmt (element fmt b i)))
def viaddSpec (g : Guard) (fmt : Fin 8) (vd va vb : Fin 32) (sat : Bool) : SlotSpec :=
  vecSpec 2 g vd fun v j => intLane fmt.val sat (· + ·) (v.lane va j) (v.lane vb j)
def visubSpec (g : Guard) (fmt : Fin 8) (vd va vb : Fin 32) (sat : Bool) : SlotSpec :=
  vecSpec 2 g vd fun v j => intLane fmt.val sat (· - ·) (v.lane va j) (v.lane vb j)
def vimulSpec (g : Guard) (fmt : Fin 8) (vd va vb : Fin 32) (sat : Bool) : SlotSpec :=
  vecSpec 4 g vd fun v j => intLane fmt.val sat (· * ·) (v.lane va j) (v.lane vb j)
def vandSpec (g : Guard) (vd va vb : Fin 32) : SlotSpec := vecSpec 2 g vd fun v j => v.lane va j &&& v.lane vb j
def vorSpec (g : Guard) (vd va vb : Fin 32) : SlotSpec := vecSpec 2 g vd fun v j => v.lane va j ||| v.lane vb j
def vxorSpec (g : Guard) (vd va vb : Fin 32) : SlotSpec := vecSpec 2 g vd fun v j => v.lane va j ^^^ v.lane vb j
/-- R127. A shift of each element by an immediate or by the matching element of vb. -/
def shiftLane (fmt : Nat) (f : Nat → Nat → Nat → Nat) (byImm : Bool) (n : Nat) (a b : Word32) : Word32 :=
  let w := fmtBits fmt
  mapElements fmt fun i => f w (element fmt a i) (if byImm then n else element fmt b i)
/-- R127. Left, filling with zeros. -/
def shlBits (w x n : Nat) : Nat := if w ≤ n then 0 else x * 2 ^ n % 2 ^ w
/-- R127. Right, filling with zeros. -/
def shrBits (w x n : Nat) : Nat := if w ≤ n then 0 else x / 2 ^ n
/-- R127. Right, filling with copies of the top bit. -/
def sraBits (w x n : Nat) : Nat := wrapNat w (sextNat w x / (2 : Int) ^ min n w)
def vshlSpec (g : Guard) (fmt : Fin 8) (vd va vb : Fin 32) (byImm : Bool) (n : Fin 64) : SlotSpec :=
  vecSpec 2 g vd fun v j => shiftLane fmt.val shlBits byImm n.val (v.lane va j) (v.lane vb j)
def vshrSpec (g : Guard) (fmt : Fin 8) (vd va vb : Fin 32) (byImm : Bool) (n : Fin 64) : SlotSpec :=
  vecSpec 2 g vd fun v j => shiftLane fmt.val shrBits byImm n.val (v.lane va j) (v.lane vb j)
def vsraSpec (g : Guard) (fmt : Fin 8) (vd va vb : Fin 32) (byImm : Bool) (n : Fin 64) : SlotSpec :=
  vecSpec 2 g vd fun v j => shiftLane fmt.val sraBits byImm n.val (v.lane va j) (v.lane vb j)
/-- R128. -/
def viminSpec (g : Guard) (fmt : Fin 8) (vd va vb : Fin 32) : SlotSpec :=
  vecSpec 2 g vd fun v j => intLane fmt.val false (fun a b => if b < a then b else a) (v.lane va j) (v.lane vb j)
def vimaxSpec (g : Guard) (fmt : Fin 8) (vd va vb : Fin 32) : SlotSpec :=
  vecSpec 2 g vd fun v j => intLane fmt.val false (fun a b => if a < b then b else a) (v.lane va j) (v.lane vb j)
/-- R121, R128. The integer conditions of VICMP by code. -/
def condLane (code : Nat) (a b : Int) : Bool :=
  match code with
  | 0 => a == b | 1 => a != b | 2 => decide (a < b) | 3 => decide (b ≤ a) | 4 => decide (a ≤ b) | 5 => decide (b < a) | _ => false
def vicmpSpec (g : Guard) (fmt pd : Fin 8) (va vb : Fin 32) (cond : Fin 8) (part : Bool) : SlotSpec :=
  vpredSpec 2 g pd fun v j =>
    condLane cond.val (intOf fmt.val (element fmt.val (v.lane va j) part.toNat)) (intOf fmt.val (element fmt.val (v.lane vb j) part.toNat))
/-- R126. -/
def vpcntSpec (g : Guard) (vd va : Fin 32) : SlotSpec :=
  vecSpec 2 g vd fun v j => BitVec.ofNat 32 ((List.range 32).filter fun i => (v.lane va j).getLsbD i).length

/-! ### Movement (R129, R130, R132) -/

/-- Lane L of lane j's cluster. -/
def View.clusterLane (v : View) (r : Fin 32) (j l : Nat) : Word32 := v.lane r (j / 16 * 16 + l % 16)
def vmovSpec (g : Guard) (vd va : Fin 32) : SlotSpec := vecSpec 2 g vd fun v j => v.lane va j
def vbcstSpec (g : Guard) (vd va : Fin 32) (n : Fin 16) : SlotSpec := vecSpec 2 g vd fun v j => v.clusterLane va j n.val
def vlaneSpec (g : Guard) (vd va : Fin 32) (n : Fin 16) : SlotSpec := vecSpec 3 g vd fun v j => v.clusterLane va j (j + n.val)
def vgetSpec (g : Guard) (vd va vb : Fin 32) : SlotSpec := vecSpec 3 g vd fun v j => v.clusterLane va j (v.lane vb j).toNat
def viotaSpec (g : Guard) (vd : Fin 32) (base : Fin 128) : SlotSpec := vecSpec 2 g vd fun _ j => BitVec.ofNat 32 (base.val + j)
def vshufSpec (g : Guard) (vd va vb vc : Fin 32) : SlotSpec :=
  vecSpec 3 g vd fun v j => v.clusterLane (if (v.lane vb j).getLsbD 4 then vc else va) j (v.lane vb j).toNat
/-- R130. The cluster that VXCL reads for lane j. -/
def vxclSource (k j : Nat) : Nat := (j / 16 + 8 - k % 8) % 8 * 16 + j % 16
def vxclSpec (g : Guard) (vd va : Fin 32) (k : Fin 8) : SlotSpec :=
  { vecSpec 6 g vd fun v j => v.lane va (vxclSource k.val j) with
    enc := fun v => if v.ctx.lockstep ∧ k.val % 2 = 1 then some (illegal .v .badValue) else none }
/-- R132. -/
def packWidth (fmt : Nat) : Nat := if fmt = 6 then 8 else 16
def vpackSpec (g : Guard) (fmt : Fin 8) (vd va vb : Fin 32) (part : Fin 4) : SlotSpec :=
  vecSpec 2 g vd fun v j =>
    BitVec.ofNat 32 (setBits (v.lane vb j).toNat (packWidth fmt.val * part.val) (packWidth fmt.val) (v.lane va j).toNat)
def vunpkSpec (g : Guard) (fmt : Fin 8) (vd va : Fin 32) (part : Fin 4) (zx : Bool) : SlotSpec :=
  vecSpec 2 g vd fun v j =>
    let w := packWidth fmt.val
    let x := (v.lane va j).toNat / 2 ^ (w * part.val) % 2 ^ w
    if zx then BitVec.ofNat 32 x else BitVec.ofInt 32 (sextNat w x)

/-! ### Reductions and predicates (R131, R133) -/

/-- R131. One level of the tree. -/
def treeLevel (node : Nat → Nat → Nat) : List Nat → List Nat
  | a :: b :: l => node a b :: treeLevel node l
  | l => l
/-- R131. The tree over 16 lanes. -/
def tree16 (node : Nat → Nat → Nat) (l : List Nat) : Nat :=
  ((treeLevel node (treeLevel node (treeLevel node (treeLevel node l)))).head?).getD 0
/-- The 16 lanes of lane j's cluster. -/
def View.clusterLanes (v : View) (r : Fin 32) (j : Nat) : List Nat := (List.range 16).map fun l => (v.clusterLane r j l).toNat
/-- R131. The nodes of VREDA and VREDX. -/
def sumNode (fmt : Nat) (rm : RMode) (sat : Bool) (x y : Nat) : Nat :=
  if fmt = 0 then encodeNum 0 rm sat (.add rm (decodeNum 0 x) (decodeNum 0 y)) else intInto fmt sat (intOf fmt x + intOf fmt y)
def maxNode (fmt : Nat) (x y : Nat) : Nat :=
  if fmt = 0 then encodeNum 0 .rn false (.maximum (decodeNum 0 x) (decodeNum 0 y)) else if intOf fmt x < intOf fmt y then y else x
def vredaSpec (g : Guard) (fmt : Fin 8) (vd va : Fin 32) (rm : Fin 4) (sat : Bool) : SlotSpec :=
  vecSpec 5 g vd fun v j => BitVec.ofNat 32 (tree16 (sumNode fmt.val (rmode rm.val) sat) (v.clusterLanes va j))
def vredxSpec (g : Guard) (fmt : Fin 8) (vd va : Fin 32) : SlotSpec :=
  vecSpec 5 g vd fun v j => BitVec.ofNat 32 (tree16 (maxNode fmt.val) (v.clusterLanes va j))
def vplogSpec (g : Guard) (pd pa pb : Fin 8) (table : BitVec 4) : SlotSpec :=
  vpredSpec 1 g pd fun v j => truthTable table ((v.r.rvp pa)[j]?.getD false) ((v.r.rvp pb)[j]?.getD false)

/-! ### Meanings by themselves: the slot as the only one of its bundle -/

/-- VNOP: R116. No operation; reads no predicate. -/
def execVnop (s : State) : Out :=
  issueOne .v 0x00 none (vnopSpec) s
/-- VADD: R119. -/
def execVadd (g : Guard) (fmt : Fin 8) (vd va vb : Fin 32) (rm : Fin 4) (sat : Bool) (s : State) : Out :=
  issueOne .v 0x01 none (vaddSpec g fmt vd va vb rm sat) s
/-- VSUB: R119. -/
def execVsub (g : Guard) (fmt : Fin 8) (vd va vb : Fin 32) (rm : Fin 4) (sat : Bool) (s : State) : Out :=
  issueOne .v 0x02 none (vsubSpec g fmt vd va vb rm sat) s
/-- VMUL: R119. -/
def execVmul (g : Guard) (fmt : Fin 8) (vd va vb : Fin 32) (rm : Fin 4) (sat : Bool) (s : State) : Out :=
  issueOne .v 0x03 none (vmulSpec g fmt vd va vb rm sat) s
/-- VFMA: R119. -/
def execVfma (g : Guard) (fmt : Fin 8) (vd va vb vc : Fin 32) (rm : Fin 4) (sat : Bool) (s : State) : Out :=
  issueOne .v 0x04 none (vfmaSpec g fmt vd va vb vc rm sat) s
/-- VFMS: R119. -/
def execVfms (g : Guard) (fmt : Fin 8) (vd va vb vc : Fin 32) (rm : Fin 4) (sat : Bool) (s : State) : Out :=
  issueOne .v 0x05 none (vfmsSpec g fmt vd va vb vc rm sat) s
/-- VFNMA: R119. -/
def execVfnma (g : Guard) (fmt : Fin 8) (vd va vb vc : Fin 32) (rm : Fin 4) (sat : Bool) (s : State) : Out :=
  issueOne .v 0x06 none (vfnmaSpec g fmt vd va vb vc rm sat) s
/-- VMIN: R50, R119. -/
def execVmin (g : Guard) (fmt : Fin 8) (vd va vb : Fin 32) (s : State) : Out :=
  issueOne .v 0x07 none (vminSpec g fmt vd va vb) s
/-- VMAX: R50, R119. -/
def execVmax (g : Guard) (fmt : Fin 8) (vd va vb : Fin 32) (s : State) : Out :=
  issueOne .v 0x08 none (vmaxSpec g fmt vd va vb) s
/-- VABS: R119. -/
def execVabs (g : Guard) (fmt : Fin 8) (vd va : Fin 32) (s : State) : Out :=
  issueOne .v 0x09 none (vabsSpec g fmt vd va) s
/-- VNEG: R119. -/
def execVneg (g : Guard) (fmt : Fin 8) (vd va : Fin 32) (s : State) : Out :=
  issueOne .v 0x0A none (vnegSpec g fmt vd va) s
/-- VCMP: R121. -/
def execVcmp (g : Guard) (fmt pd : Fin 8) (va vb : Fin 32) (cond : Fin 8) (part : Bool) (s : State) : Out :=
  issueOne .v 0x0B none (vcmpSpec g fmt pd va vb cond part) s
/-- VSEL: R122. -/
def execVsel (g : Guard) (vd va vb : Fin 32) (ps : Fin 8) (inv : Bool) (s : State) : Out :=
  issueOne .v 0x0C none (vselSpec g vd va vb ps inv) s
/-- VDIV: R119. -/
def execVdiv (g : Guard) (fmt : Fin 8) (vd va vb : Fin 32) (rm : Fin 4) (sat : Bool) (s : State) : Out :=
  issueOne .v 0x0D none (vdivSpec g fmt vd va vb rm sat) s
/-- VSQRT: R119, R62. -/
def execVsqrt (g : Guard) (fmt : Fin 8) (vd va : Fin 32) (rm : Fin 4) (sat : Bool) (s : State) : Out :=
  issueOne .v 0x0E none (vsqrtSpec g fmt vd va rm sat) s
/-- VRCP: R119, R62. -/
def execVrcp (g : Guard) (fmt : Fin 8) (vd va : Fin 32) (rm : Fin 4) (sat : Bool) (s : State) : Out :=
  issueOne .v 0x0F none (vrcpSpec g fmt vd va rm sat) s
/-- VRSQ: R119, R62. -/
def execVrsq (g : Guard) (fmt : Fin 8) (vd va : Fin 32) (rm : Fin 4) (sat : Bool) (s : State) : Out :=
  issueOne .v 0x10 none (vrsqSpec g fmt vd va rm sat) s
/-- VEXP2: R119, R62. -/
def execVexp2 (g : Guard) (fmt : Fin 8) (vd va : Fin 32) (rm : Fin 4) (sat : Bool) (s : State) : Out :=
  issueOne .v 0x11 none (vexp2Spec g fmt vd va rm sat) s
/-- VLOG2: R119, R62. -/
def execVlog2 (g : Guard) (fmt : Fin 8) (vd va : Fin 32) (rm : Fin 4) (sat : Bool) (s : State) : Out :=
  issueOne .v 0x12 none (vlog2Spec g fmt vd va rm sat) s
/-- VCVT: R123. Convert; vc is read only when narrowing. -/
def execVcvt (g : Guard) (fmt : Fin 8) (vd va vc : Fin 32) (rm : Fin 4) (sat : Bool) (src : Fin 8) (part : Fin 4) (s : State) : Out :=
  issueOne .v 0x13 none (vcvtSpec g fmt vd va vc rm sat src part) s
/-- VSCL: R124. Scale by an E8M0 code. -/
def execVscl (g : Guard) (fmt : Fin 8) (vd va vb : Fin 32) (rm : Fin 4) (sat byReg : Bool) (ks : Fin 8) (s : State) : Out :=
  issueOne .v 0x14 none (vsclSpec g fmt vd va vb rm sat byReg ks) s
/-- VRINT: R120. -/
def execVrint (g : Guard) (fmt : Fin 8) (vd va : Fin 32) (rm : Fin 4) (s : State) : Out :=
  issueOne .v 0x15 none (vrintSpec g fmt vd va rm) s
/-- VIADD: R125. -/
def execViadd (g : Guard) (fmt : Fin 8) (vd va vb : Fin 32) (sat : Bool) (s : State) : Out :=
  issueOne .v 0x20 none (viaddSpec g fmt vd va vb sat) s
/-- VISUB: R125. -/
def execVisub (g : Guard) (fmt : Fin 8) (vd va vb : Fin 32) (sat : Bool) (s : State) : Out :=
  issueOne .v 0x21 none (visubSpec g fmt vd va vb sat) s
/-- VIMUL: R125. -/
def execVimul (g : Guard) (fmt : Fin 8) (vd va vb : Fin 32) (sat : Bool) (s : State) : Out :=
  issueOne .v 0x22 none (vimulSpec g fmt vd va vb sat) s
/-- VAND: R126. -/
def execVand (g : Guard) (vd va vb : Fin 32) (s : State) : Out :=
  issueOne .v 0x23 none (vandSpec g vd va vb) s
/-- VOR: R126. -/
def execVor (g : Guard) (vd va vb : Fin 32) (s : State) : Out :=
  issueOne .v 0x24 none (vorSpec g vd va vb) s
/-- VXOR: R126. -/
def execVxor (g : Guard) (vd va vb : Fin 32) (s : State) : Out :=
  issueOne .v 0x25 none (vxorSpec g vd va vb) s
/-- VSHL: R127. -/
def execVshl (g : Guard) (fmt : Fin 8) (vd va vb : Fin 32) (byImm : Bool) (n : Fin 64) (s : State) : Out :=
  issueOne .v 0x26 none (vshlSpec g fmt vd va vb byImm n) s
/-- VSHR: R127. -/
def execVshr (g : Guard) (fmt : Fin 8) (vd va vb : Fin 32) (byImm : Bool) (n : Fin 64) (s : State) : Out :=
  issueOne .v 0x27 none (vshrSpec g fmt vd va vb byImm n) s
/-- VSRA: R127. -/
def execVsra (g : Guard) (fmt : Fin 8) (vd va vb : Fin 32) (byImm : Bool) (n : Fin 64) (s : State) : Out :=
  issueOne .v 0x28 none (vsraSpec g fmt vd va vb byImm n) s
/-- VIMIN: R128. -/
def execVimin (g : Guard) (fmt : Fin 8) (vd va vb : Fin 32) (s : State) : Out :=
  issueOne .v 0x29 none (viminSpec g fmt vd va vb) s
/-- VIMAX: R128. -/
def execVimax (g : Guard) (fmt : Fin 8) (vd va vb : Fin 32) (s : State) : Out :=
  issueOne .v 0x2A none (vimaxSpec g fmt vd va vb) s
/-- VICMP: R128. -/
def execVicmp (g : Guard) (fmt pd : Fin 8) (va vb : Fin 32) (cond : Fin 8) (part : Bool) (s : State) : Out :=
  issueOne .v 0x2B none (vicmpSpec g fmt pd va vb cond part) s
/-- VMOV: R129. -/
def execVmov (g : Guard) (vd va : Fin 32) (s : State) : Out :=
  issueOne .v 0x30 none (vmovSpec g vd va) s
/-- VBCST: R129. -/
def execVbcst (g : Guard) (vd va : Fin 32) (n : Fin 16) (s : State) : Out :=
  issueOne .v 0x31 none (vbcstSpec g vd va n) s
/-- VLANE: R129. -/
def execVlane (g : Guard) (vd va : Fin 32) (n : Fin 16) (s : State) : Out :=
  issueOne .v 0x32 none (vlaneSpec g vd va n) s
/-- VGET: R129. -/
def execVget (g : Guard) (vd va vb : Fin 32) (s : State) : Out :=
  issueOne .v 0x33 none (vgetSpec g vd va vb) s
/-- VIOTA: R129. -/
def execViota (g : Guard) (vd : Fin 32) (base : Fin 128) (s : State) : Out :=
  issueOne .v 0x34 none (viotaSpec g vd base) s
/-- VSHUF: R129. -/
def execVshuf (g : Guard) (vd va vb vc : Fin 32) (s : State) : Out :=
  issueOne .v 0x35 none (vshufSpec g vd va vb vc) s
/-- VXCL: R130. -/
def execVxcl (g : Guard) (vd va : Fin 32) (k : Fin 8) (s : State) : Out :=
  issueOne .v 0x36 none (vxclSpec g vd va k) s
/-- VREDA: R131. -/
def execVreda (g : Guard) (fmt : Fin 8) (vd va : Fin 32) (rm : Fin 4) (sat : Bool) (s : State) : Out :=
  issueOne .v 0x37 none (vredaSpec g fmt vd va rm sat) s
/-- VREDX: R131. -/
def execVredx (g : Guard) (fmt : Fin 8) (vd va : Fin 32) (s : State) : Out :=
  issueOne .v 0x38 none (vredxSpec g fmt vd va) s
/-- VPACK: R132. -/
def execVpack (g : Guard) (fmt : Fin 8) (vd va vb : Fin 32) (part : Fin 4) (s : State) : Out :=
  issueOne .v 0x39 none (vpackSpec g fmt vd va vb part) s
/-- VUNPK: R132. -/
def execVunpk (g : Guard) (fmt : Fin 8) (vd va : Fin 32) (part : Fin 4) (zx : Bool) (s : State) : Out :=
  issueOne .v 0x3A none (vunpkSpec g fmt vd va part zx) s
/-- VPCNT: R126. -/
def execVpcnt (g : Guard) (vd va : Fin 32) (s : State) : Out :=
  issueOne .v 0x3B none (vpcntSpec g vd va) s
/-- VPLOG: R133. -/
def execVplog (g : Guard) (pd pa pb : Fin 8) (table : BitVec 4) (s : State) : Out :=
  issueOne .v 0x3C none (vplogSpec g pd pa pb table) s

end Sys2Proof.Machine
end

