-- ==== Sys2Proof/Machine/MemAccess.lean ====
section
/-! DEFINITION. The D slot (spec/08): vector loads and stores, gather and scatter, the hawk rings, and prefetch. -/
namespace Sys2Proof.Machine

/-! ### Places of vectors (R143, R144, R146) -/

/-- R143. The clusters whose bytes a load reads or a store writes: with LS = 1 an odd cluster repeats its even partner. -/
def View.clusters (v : View) : List Nat := (List.range 8).filter fun c => clusterOn v.r.clm v.ctx.lockstep c
/-- R143. The clusters whose bytes a store writes. -/
def View.storeClusters (v : View) : List Nat :=
  v.clusters.filter fun c => !v.ctx.lockstep || c % 2 = 0
/-- R144. The parts of a vector: 64 bytes a cluster, at ea + 64c. -/
def View.vectorParts (v : View) (cl : List Nat) (ea : Nat) : List (Nat × Nat × Nat) :=
  cl.map fun c => (64 * c, (ea + 64 * srcLane v.ctx.lockstep (16 * c) / 16) % 2 ^ 64, 64)
/-- R143, R146. A vector of the scratchpad-only forms (`near`) or of any space: alignment, space, and the place of each part. -/
def View.vectorPlaces (v : View) (near : Bool) (write : Bool) (ea len : Nat) (parts : List (Nat × Nat × Nat)) :
    Except Trap (List Piece) :=
  if ea % 64 ≠ 0 ∨ (near ∧ ea / 65536 ≠ (ea + len - 1) / 65536) then .error (issueFault causeMisaligned 6 ea)
  else if near ∧ 0x200000 ≤ ea then .error (issueFault causeXlate 6 ea)
  else match v.pieces 5 write parts with
    | .error e => .error (e.2.trap 6 e.1)
    | .ok l => .ok l
/-- The trap of a place.
(Assumption log 20: DEDUCED.) -/
def placeTrap {α : Type} (p : Except Trap α) : Option Trap := match p with | .error t => some t | .ok _ => none
/-- The pieces of a place; none if it traps. -/
def placePieces (p : Except Trap (List Piece)) : List Piece := match p with | .error _ => [] | .ok l => l
/-- R355. The place that an ordered access synchronises on: the lowest address it touches. -/
def firstPlace (l : List Piece) : Option Where := (l.head?).map fun p => p.loc
/-- Some piece is outside the own scratchpad. -/
def anyFar (l : List Piece) : Bool := l.any fun p => p.loc.far

/-- R144, R147. A load: it retires when it lands.
(Assumption log 20: DEDUCED.) -/
def View.loadOut (v : View) (l : List Piece) (lat : Nat) (dest : LoadDest) (ln : Option (Fin 32)) : SlotOut :=
  let m := v.vectorMods
  { loads := [{ lat := lat, dest := dest, ln := ln, pieces := l, policy := m.policy, ac := m.ac }]
    eff := releasePart m v.k (firstPlace l), conds := .landed :: acquirePart m v.k (firstPlace l), arrive := .landing }
/-- The bytes of a piece of a vector register. -/
def View.regBytes (v : View) (r : Fin 32) (off len : Nat) : List Byte :=
  ((List.range (len / 4)).flatMap fun i => leBytes 4 (v.lane r (off / 4 + i)).toNat)
/-- R144, R147. A store: scratchpad bytes now, others when the bundle retires, 12 cycles after issue.
(Assumption log 20: DEDUCED.) -/
def View.storeOut (v : View) (l : List Piece) (r : Fin 32) (need : Nat) : SlotOut :=
  let m := v.vectorMods
  let parts : List StorePart := l.map fun p => (p.off, p.ea, p.loc, v.regBytes r p.off p.len)
  { eff := releasePart m v.k (firstPlace l) ++ storeEffects v m 6 need parts
    state := fun s bid => s.raceLoads v.k v.c bid m.ac (physPieces parts)
    conds := (if anyFar l then [.cycle (v.ctx.cycle + 12)] else []) ++ acquirePart m v.k (firstPlace l) }

/-! ### Vector loads and stores (R142 to R146) -/

def dnopSpec : SlotSpec := {}
/-- The places of a load at ea. -/
def View.loadPlaces (v : View) (near : Bool) (ea : Nat) : Except Trap (List Piece) :=
  v.vectorPlaces near false ea 512 (v.vectorParts v.clusters ea)
/-- The places of a store at ea. -/
def View.storePlaces (v : View) (near : Bool) (ea : Nat) : Except Trap (List Piece) :=
  v.vectorPlaces near true ea 512 (v.vectorParts v.storeClusters ea)
def vldSSpec (vd xa : Fin 32) (imm : BitVec 13) : SlotSpec :=
  { trap := fun v => placeTrap (v.loadPlaces true (v.ea13 xa imm))
    out := fun v => v.loadOut (placePieces (v.loadPlaces true (v.ea13 xa imm))) 6 (.vector vd (clusterMask v.r.clm v.ctx.lockstep)) none }
def vstSSpec (vs xa : Fin 32) (imm : BitVec 13) : SlotSpec :=
  { trap := fun v => placeTrap (v.storePlaces true (v.ea13 xa imm))
    out := fun v => v.storeOut (placePieces (v.storePlaces true (v.ea13 xa imm))) vs 0 }
/-- R143, R145. A landing slot in use, or too few requests, blocks. -/
def vldGSpec (vd xa ln : Fin 32) (arr : BitVec 8) : SlotSpec :=
  { trap := fun v => placeTrap (v.loadPlaces false (v.xn xa))
    block := fun v => v.slotBusy ln || v.lacksRequests (v.requestsFor (placePieces (v.loadPlaces false (v.xn xa))))
    out := fun v => v.loadOut (placePieces (v.loadPlaces false (v.xn xa))) arr.toNat
      (.vector vd (clusterMask v.r.clm v.ctx.lockstep)) (some ln) }
def vstGSpec (vs xa : Fin 32) (imm : BitVec 13) : SlotSpec :=
  { trap := fun v => placeTrap (v.storePlaces false (v.ea13 xa imm))
    block := fun v => v.lacksRequests (v.requestsFor (placePieces (v.storePlaces false (v.ea13 xa imm))))
    out := fun v =>
      let l := placePieces (v.storePlaces false (v.ea13 xa imm))
      v.storeOut l vs (v.requestsFor l) }
/-- R144. VLDB's places: the same 64 bytes for every cluster; the 512 bytes from ea must lie in one bank (R143). -/
def View.broadcastPlaces (v : View) (ea : Nat) : Except Trap (List Piece) :=
  v.vectorPlaces true false ea 512 (v.clusters.map fun c => (64 * c, ea, 64))
def vldbSpec (vd xa : Fin 32) (imm : BitVec 13) : SlotSpec :=
  { trap := fun v => placeTrap (v.broadcastPlaces (v.ea13 xa imm))
    out := fun v => v.loadOut (placePieces (v.broadcastPlaces (v.ea13 xa imm))) 6 (.vector vd (clusterMask v.r.clm v.ctx.lockstep)) none }

/-! ### Gather and scatter (R144, R146) -/

/-- The address of a gather's or scatter's lane. -/
def View.laneAddr (v : View) (xa vo : Fin 32) (i : Nat) : Nat :=
  (v.xn xa + (v.lane vo (srcLane v.ctx.lockstep i)).toNat) % 2 ^ 64
/-- The lanes of some clusters. -/
def lanesIn (cl : List Nat) : List Nat := cl.flatMap fun c => (List.range 16).map fun l => 16 * c + l
/-- R146. The places of a gather's or scatter's lanes, or the failure that is reported. -/
def View.lanePlaces (v : View) (write : Bool) (cl : List Nat) (xa vo : Fin 32) : Except Trap (List Piece) :=
  let found := (lanesIn cl).map fun i =>
    let ea := v.laneAddr xa vo i
    (i, ea, if ea % 4 ≠ 0 then Except.error (Fail.mk causeMisaligned 5) else v.locate 5 ea write)
  match firstFail (found.filterMap fun f => match f.2.2 with | .error e => some (f.2.1, e) | .ok _ => none) with
  | some e => .error (e.2.trap 6 e.1)
  | none => .ok (found.filterMap fun f => match f.2.2 with | .ok w => some { off := 4 * f.1, len := 4, ea := f.2.1, loc := w } | .error _ => none)
/-- R142. vd holds the offsets at issue and receives the data. -/
def vgthSpec (vd xa ln : Fin 32) (arr : BitVec 8) : SlotSpec :=
  { trap := fun v => placeTrap (v.lanePlaces false v.clusters xa vd)
    block := fun v => v.slotBusy ln || v.lacksRequests (lanesFor (placePieces (v.lanePlaces false v.clusters xa vd)))
    out := fun v => v.loadOut (placePieces (v.lanePlaces false v.clusters xa vd)) arr.toNat
      (.vector vd (clusterMask v.r.clm v.ctx.lockstep)) (some ln) }
/-- R144. Lanes are stored in order, so that the highest lane's value stays. -/
def vsctSpec (vs xa vi : Fin 32) : SlotSpec :=
  { trap := fun v => placeTrap (v.lanePlaces true v.storeClusters xa vi)
    block := fun v => v.lacksRequests (lanesFor (placePieces (v.lanePlaces true v.storeClusters xa vi)))
    out := fun v =>
      let l := placePieces (v.lanePlaces true v.storeClusters xa vi)
      v.storeOut l vs (lanesFor l) }

/-! ### Hawks (R148 to R151) -/

/-- The hawk as the bundle sees it. -/
def View.hawk (v : View) (h : Fin 16) : Hawk := v.ctx.hawk h
/-- R150. Filled element k, and free element k. -/
def Hawk.filledAt (h : Hawk) (k : Nat) : Nat := h.base + (h.rd + k) % max 1 h.cap * 512
def Hawk.freeAt (h : Hawk) (k : Nat) : Nat := h.base + (h.wr + k) % max 1 h.cap * 512
def hpopSpec (vd : Fin 32) (h : Fin 16) (k : Fin 512) : SlotSpec :=
  { trap := fun v => if (v.hawk h).cap ≤ k.val then some (illegal .d .badValue) else placeTrap (v.loadPlaces true ((v.hawk h).filledAt k.val))
    block := fun v => decide ((v.hawk h).filled < k.val + 1)
    out := fun v => v.loadOut (placePieces (v.loadPlaces true ((v.hawk h).filledAt k.val))) 6
      (.vector vd (clusterMask v.r.clm v.ctx.lockstep)) none }
def hpushSpec (vs : Fin 32) (h : Fin 16) (k : Fin 512) : SlotSpec :=
  { trap := fun v => if (v.hawk h).cap ≤ k.val then some (illegal .d .badValue) else placeTrap (v.storePlaces true ((v.hawk h).freeAt k.val))
    block := fun v => decide ((v.hawk h).free < k.val + 1)
    out := fun v => v.storeOut (placePieces (v.storePlaces true ((v.hawk h).freeAt k.val))) vs 0 }
def hadvrSpec (h : Fin 16) (n : Fin 512) : SlotSpec :=
  { trap := fun v => if (v.hawk h).cap < n.val + 1 then some (illegal .d .badValue) else none
    block := fun v => decide ((v.hawk h).filled < n.val + 1)
    out := fun _ => { eff := [.hawkRd h (n.val + 1)] } }
def hadvwSpec (h : Fin 16) (n : Fin 512) : SlotSpec :=
  { trap := fun v => if (v.hawk h).cap < n.val + 1 then some (illegal .d .badValue) else none
    block := fun v => decide ((v.hawk h).free < n.val + 1)
    out := fun _ => { eff := [.hawkWr h (n.val + 1)] } }
/-- R149. The first byte of a ring that lies in a bank the context may not use: the address that BANK_NOT_OWNED reports.
(Assumption log 20: DESIGN CHOICE.) -/
def View.ringHole (v : View) (base cap : Nat) : Option Nat :=
  ((List.range 32).find? fun b => decide (base < 65536 * (b + 1) ∧ 65536 * b < base + 512 * cap) && !v.core.usable v.c b).map
    fun b => max base (65536 * b)
def hsetSpec (xa : Fin 32) (h lg : Fin 16) : SlotSpec :=
  { trap := fun v =>
      let base := v.xn xa
      if base % 512 ≠ 0 ∨ 0x200000 < base + 512 * 2 ^ lg.val then some (issueFault causeMisaligned 6 base)
      else (v.ringHole base (2 ^ lg.val)).map fun a => issueFault causeNotOwned 6 a
    out := fun v => { eff := [.hawkSet h (v.xn xa) (2 ^ lg.val)] } }

/-! ### Prefetch (R152) -/

/-- R152. The requests of a prefetch, with the address of each: the sectors of global memory that the access may read and the caches that its policy fills lack, as far
as requests are free; a page of another module has no copies here, and no sector of it is brought close.
(Assumption log 26: DEDUCED.) -/
def View.prefetches (v : View) (bid n ea : Nat) : List (Nat × DramReq) :=
  let m := v.vectorMods
  let there (pa : Nat) : Bool := if m.policy = 2 then v.s.llcHit pa else (v.core.l1Read? pa 64).isSome && (2 ≤ m.policy || v.s.llcHit pa)
  let l := (List.range n).filterMap fun i =>
    let a := (ea / 64 + i) * 64
    match spaceOf a, v.locate 5 a false with
    | .global _, .ok (.phys pa) =>
      if remotePa pa || there pa then none
      else some (a, { core := v.k, ctx := v.c, bid := bid, slot := Slot.d, off := 0, addr := pa, len := 64, bytes := none,
                      policy := m.policy, prefetch := true })
    | _, _ => none
  l.take (768 - v.s.requestsOut v.k)
/-- R152, R276. Sends a request of a prefetch, once its address is translated. -/
def State.sendPrefetch (s : State) (p : Nat × DramReq) : State :=
  let t := s.translated p.2.core p.1
  t.2.queueDram { p.2 with due := t.1 }
def prefSpec (n xa : Fin 32) (imm : BitVec 13) : SlotSpec :=
  { out := fun v => { state := fun s bid => (v.prefetches bid (n.val + 1) (v.ea13 xa imm)).foldl (fun s r => s.sendPrefetch r) s } }

/-! ### Meanings by themselves: the slot as the only one of its bundle -/

/-- DNOP: R89. No operation. -/
def execDnop (s : State) : Out :=
  issueOne .d 0x00 none (dnopSpec) s
/-- VLD_S: R144. -/
def execVldS (vd xa : Fin 32) (imm : BitVec 13) (s : State) : Out :=
  issueOne .d 0x01 none (vldSSpec vd xa imm) s
/-- VST_S: R144. -/
def execVstS (vs xa : Fin 32) (imm : BitVec 13) (s : State) : Out :=
  issueOne .d 0x02 none (vstSSpec vs xa imm) s
/-- VLD_G: R144. -/
def execVldG (vd xa ln : Fin 32) (arr : BitVec 8) (s : State) : Out :=
  issueOne .d 0x03 none (vldGSpec vd xa ln arr) s
/-- VST_G: R144. -/
def execVstG (vs xa : Fin 32) (imm : BitVec 13) (s : State) : Out :=
  issueOne .d 0x04 none (vstGSpec vs xa imm) s
/-- VLDB: R144. -/
def execVldb (vd xa : Fin 32) (imm : BitVec 13) (s : State) : Out :=
  issueOne .d 0x05 none (vldbSpec vd xa imm) s
/-- VGTH: R144. -/
def execVgth (vd xa ln : Fin 32) (arr : BitVec 8) (s : State) : Out :=
  issueOne .d 0x06 none (vgthSpec vd xa ln arr) s
/-- VSCT: R144. -/
def execVsct (vs xa vi : Fin 32) (s : State) : Out :=
  issueOne .d 0x07 none (vsctSpec vs xa vi) s
/-- HPOP: R150. -/
def execHpop (vd : Fin 32) (h : Fin 16) (k : Fin 512) (s : State) : Out :=
  issueOne .d 0x08 none (hpopSpec vd h k) s
/-- HPUSH: R150. -/
def execHpush (vs : Fin 32) (h : Fin 16) (k : Fin 512) (s : State) : Out :=
  issueOne .d 0x09 none (hpushSpec vs h k) s
/-- HADVR: R151. Advances by n + 1. -/
def execHadvr (h : Fin 16) (n : Fin 512) (s : State) : Out :=
  issueOne .d 0x0A none (hadvrSpec h n) s
/-- HADVW: R151. Advances by n + 1. -/
def execHadvw (h : Fin 16) (n : Fin 512) (s : State) : Out :=
  issueOne .d 0x0B none (hadvwSpec h n) s
/-- HSET: R149. -/
def execHset (xa : Fin 32) (h lg : Fin 16) (s : State) : Out :=
  issueOne .d 0x0C none (hsetSpec xa h lg) s
/-- PREF: R152. Prefetches n + 1 sectors. -/
def execPref (n xa : Fin 32) (imm : BitVec 13) (s : State) : Out :=
  issueOne .d 0x0D none (prefSpec n xa imm) s

end Sys2Proof.Machine
end

