-- ==== Sys2Proof/Machine/Matrix.lean ====
section
/-! DEFINITION. The M and K slots (spec/09 R153 to R168): routine descriptors and their checks, and the instructions that queue work
for the matrix engine. The engine itself is in Engine.lean. -/
namespace Sys2Proof.Machine

/-! ### Routine descriptors (R154, R155) -/

/-- R154. A field of a descriptor. -/
def dsc (d : BitVec 256) (hi lo : Nat) : Nat := bits d.toNat hi lo
def dKind (d : BitVec 256) : Nat := dsc d 255 252
def dAfmt (d : BitVec 256) : Nat := dsc d 251 248
def dBfmt (d : BitVec 256) : Nat := dsc d 247 244
/-- R154. M, N and K. -/
def dM (d : BitVec 256) : Nat := 16 * (dsc d 243 242 + 1)
def dN (d : BitVec 256) : Nat := 16 * (dsc d 241 240 + 1)
def dK (d : BitVec 256) : Nat := 16 * (dsc d 239 228 + 1)
def dMode (d : BitVec 256) : Bool := dsc d 215 215 == 1
def dSat (d : BitVec 256) : Bool := dsc d 214 214 == 1
def dAsc (d : BitVec 256) : Bool := dsc d 213 213 == 1
def dBsc (d : BitVec 256) : Bool := dsc d 209 209 == 1
def dStepped (d : BitVec 256) : Bool := dsc d 205 205 == 1
def dTaps (d : BitVec 256) : Nat := dsc d 193 189 + 1
/-- R155. Operand formats of GEMM and CONV. -/
def gemmFmt (f : Nat) : Bool := f = 1 || f = 2 || f = 6 || f = 7 || f = 8 || f = 9
/-- R155. The conditions on one operand of GEMM and CONV: format, scale flag, planes. -/
def operandValid (f ku sc planes : Nat) : Bool :=
  gemmFmt f && (f ≠ 9 || (ku % 2 = 1 && sc = 0)) && (sc = 0 || ku ≤ 3) && (f = 9 || planes = 0)
/-- R155. A valid descriptor. -/
def descValid (d : BitVec 256) : Bool :=
  if d = 0 then true
  else
    let a := operandValid (dAfmt d) (dsc d 239 228) (dsc d 213 213) (dsc d 199 197)
    let b := operandValid (dBfmt d) (dsc d 239 228) (dsc d 209 209) (dsc d 196 194)
    dsc d 188 0 = 0 &&
    match dKind d with
    | 1 => a && b && dsc d 214 214 = 0 && dsc d 193 189 = 0
    | 2 => a && b && dsc d 214 214 = 0 && dStepped d
    | 3 => (dAfmt d = 0 || dAfmt d = 1 || dAfmt d = 2 || dAfmt d = 6 || dAfmt d = 7 || dAfmt d = 8)
        && (dBfmt d = 1 || dBfmt d = 2 || dBfmt d = 6 || dBfmt d = 7 || dBfmt d = 8)
        && dsc d 243 242 = 0 && dsc d 218 215 = 0 && dsc d 213 205 = 0 && dsc d 199 189 = 0
    | 4 => (dAfmt d = 0 || dAfmt d = 1 || dAfmt d = 2 || dAfmt d = 6 || dAfmt d = 7) && dBfmt d = 0
        && dsc d 224 222 = 0 && dsc d 239 228 = 0 && dsc d 213 205 = 0 && dsc d 199 189 = 0
    | _ => false

/-! ### Places of operands (R156 to R158) -/

/-- R156. Bytes of n elements (a multiple of 16) of a format. -/
def packedBytes (fmt n : Nat) : Nat := n * fmtBits fmt / 8
/-- R156. Bytes of a 16-element segment. -/
def segBytes (fmt : Nat) : Nat := packedBytes fmt 16
/-- R157. The strides. -/
def strA (w : Word64) : Nat := bits w.toNat 20 0
def strB (w : Word64) : Nat := bits w.toNat 41 21
def strT (w : Word64) : Nat := bits w.toNat 62 42
/-- R157. The planes of an E2M1X operand. -/
def planeS (w : Word64) : Nat := bits w.toNat 20 0
def planeO (w : Word64) : Nat := bits w.toNat 41 21
/-- A row or column of a tile: the operand (0 A, 1 B), its number, its first byte, its length. -/
structure TileRow where
  opnd : Nat
  index : Nat
  start : Int
  len : Nat
  deriving DecidableEq, Repr
/-- The rows at base + i x stride. -/
def tileRows (opnd base stride cnt len : Nat) (off : Int) : List TileRow :=
  (List.range cnt).map fun i => ⟨opnd, i, (base + i * stride : Nat) + off, len⟩
/-- R156, R172. Rows and columns that a routine reads or writes as tiles; the A rows of a stepped routine come with its steps. -/
def Routine.rows (r : Routine) : List TileRow :=
  let d := r.desc
  match dKind d with
  | 3 => tileRows 0 r.a.toNat (strA r.str) (dK d) (packedBytes (dAfmt d) (dN d)) 0
      ++ tileRows 1 r.b.toNat (strB r.str) (dN d) (packedBytes (dBfmt d) (dK d)) 0
  | 4 => tileRows 0 r.a.toNat (strA r.str) (dM d) (packedBytes (dAfmt d) (dN d)) 0
  | _ => (if dStepped d then [] else tileRows 0 r.a.toNat (strA r.str) (dM d) (packedBytes (dAfmt d) (dK d)) 0)
      ++ (List.range (dTaps d)).flatMap fun t =>
          tileRows 1 (r.b.toNat + t * strT r.str) (strB r.str) (dN d) (packedBytes (dBfmt d) (dK d)) 0
/-- R156. The planes that a routine reads: first byte and length. -/
def Routine.planes (r : Routine) : List (Nat × Nat) :=
  let d := r.desc
  let f (fmt : Nat) (w : Word64) (rows : Nat) : List (Nat × Nat) :=
    if fmt = 9 then [(planeS w, rows * (dK d / 32)), (planeO w, 8 * (rows * (dK d / 32)))] else []
  if dKind d = 1 ∨ dKind d = 2 then f (dAfmt d) r.xa (dM d) ++ f (dBfmt d) r.xb (dN d) else []
/-- R161. The first byte of a range that lies in a bank the context may not use; bytes past the scratchpad's end (of an E2M1X plane) are in no
bank and are not checked.
(Assumption log 29: DEDUCED.) -/
def View.unusable (v : View) (start : Int) (len : Nat) : Option Nat :=
  if start < 0 then none
  else
    let a := start.toNat
    ((List.range 32).find? fun b => decide (a < 65536 * (b + 1) ∧ 65536 * b < a + len) && !v.core.usable v.c b).map
      fun b => max a (65536 * b)
/-- R161. The bank-ownership fault of rows and planes. -/
def View.ownFault (v : View) (rows : List TileRow) (planes : List (Nat × Nat)) : Option Trap :=
  ((rows.findSome? fun r => v.unusable r.start r.len).orElse fun _ =>
    planes.findSome? fun p => v.unusable p.1 p.2).map fun a => issueFault causeNotOwned 5 a
/-- R160. TRAPINFO of MATRIX_BANK_CONFLICT; INDEX holds the low 6 bits of a TLOAD's row number.
(Assumption log 29: DEDUCED.) -/
def conflictTrap (r : TileRow) (cause : Nat) (addr : Int) : Trap :=
  issueFault causeConflict 5 (r.index % 64 * 2 ^ 24 + cause * 2 ^ 22 + r.opnd * 2 ^ 21 + (addr % (2 : Int) ^ 21).toNat)
/-- The first segment of a row that does not lie wholly in the row's first bank.
(Assumption log 29: DEDUCED.) -/
def crossing (start : Int) (seg : Nat) : Int :=
  start + seg * ((65536 - start % 65536) / seg)
/-- R158. The first breach among rows, with the banks that each read group has taken; `anyGroup` for the rows of a DRAIN.
(Assumption log 29: DEDUCED.) -/
def conflictAmong (anyGroup : Bool) (segA segB : Nat) : List (Nat × Nat × Int) → List TileRow → Option Trap
  | _, [] => none
  | seen, r :: l =>
    let bank := r.start / 65536
    let low : Int := if r.opnd = 1 then 16 else 0
    let high : Int := if anyGroup || r.opnd = 1 then 31 else 15
    if bank < low ∨ high < bank then some (conflictTrap r 0 r.start)
    else if (r.start + r.len - 1) / 65536 ≠ bank then some (conflictTrap r 1 (crossing r.start (if r.opnd = 1 then segB else segA)))
    else if seen.contains (r.opnd, r.index % 4, bank) then some (conflictTrap r 2 r.start)
    else conflictAmong anyGroup segA segB ((r.opnd, r.index % 4, bank) :: seen) l
/-- R158. The breach of a routine's rows, checked at its MCALL.
(Assumption log 29: DEDUCED.) -/
def Routine.conflict (r : Routine) : Option Trap :=
  if dStepped r.desc then none
  else conflictAmong (dKind r.desc = 4) (segBytes (dAfmt r.desc)) (segBytes (dBfmt r.desc)) [] r.rows
/-- R164. The rows of one step of a stepped routine: step s with offset off. -/
def Routine.stepRows (r : Routine) (s : Nat) (off : Int) : List TileRow :=
  let d := r.desc
  let t := if dKind d = 2 then s else 0
  tileRows 0 r.a.toNat (strA r.str) (dM d) (if dKind d = 2 then packedBytes (dAfmt d) (dK d) else segBytes (dAfmt d)) off
    ++ tileRows 1 (r.b.toNat + t * strT r.str) (strB r.str) (dN d) (packedBytes (dBfmt d) (dK d)) 0

/-! ### MCALL (R157, R161, R162, R169) -/

/-- R153, R167. A pattern-book entry as a bundle sees it: as the MBOOK of any of the core's contexts that issued last wrote it, retired or not. -/
def View.book (v : View) (i : Nat) : BitVec 256 :=
  let rewritten (d : Nat × BitVec 256) (x : Ctx) : Nat × BitVec 256 :=
    x.inflight.foldl (fun d b => b.eff.foldl (fun d e => match e with | .book j y t => if j = i ∧ d.1 ≤ t then (t, y) else d | _ => d) d) d
  ([0, 1, 2, 3].foldl (fun d c => rewritten d (v.core.ctx c)) (AMap.getD v.core.bookAt i 0, AMap.getD v.core.book i 0)).2
/-- R169. An entry of the matrix slot table as a bundle sees it: with the writes of bundles that have not retired. -/
def View.mslot (v : View) (n : Nat) : BitVec 3 :=
  v.ctx.inflight.foldl (fun w i => i.eff.foldl (fun w e => match e with | .mslot j y => if j.val = n then y else w | _ => w) w)
    (v.core.mslot[n]?.getD 0)
/-- R169. A slot's entry grants the engine to context c. -/
def slotGrants (w : BitVec 3) (c : Nat) : Bool := w.getLsbD 2 && decide (w.toNat % 4 = c)
/-- R162. The engine-queue entries that a context holds. -/
def Core.matrixEntries (k : Core) (c : Nat) : Nat :=
  (k.mq.filter fun i => i.ctx = c).length + (k.mdone.filter fun d => d.item.ctx = c).length
/-- R161. The snapshot of a routine. -/
def View.routine (v : View) (d : BitVec 256) : Routine :=
  let mp (i : Nat) : Word64 := v.r.mp[i]?.getD 0
  let ks (i : Nat) : KReg := v.r.ks[i]?.getD (Vector.replicate 128 0)
  { desc := d, a := mp (dsc d 227 225), b := mp (dsc d 224 222), str := mp (dsc d 221 219), acc := mp (dsc d 218 216),
    xa := mp (dsc d 199 197), xb := mp (dsc d 196 194), sa := ks (dsc d 212 210), sb := ks (dsc d 208 206) }
/-- R157. The first register whose contents break the rules.
(Assumption log 28: DEDUCED.) -/
def Routine.misaligned (r : Routine) : Option Nat :=
  let d := r.desc
  let gemm := dKind d = 1 ∨ dKind d = 2
  let str (w : Word64) : Bool := bitAt w.toNat 63 || strA w % 64 ≠ 0 || strB w % 64 ≠ 0 || strT w % 64 ≠ 0
  let adr (w : Word64) : Bool := decide (0x200000 ≤ w.toNat) || w.toNat % 64 ≠ 0
  let pl (w : Word64) : Bool := planeS w % 64 ≠ 0 || planeO w % 64 ≠ 0
  if str r.str then some r.str.toNat
  else if adr r.a then some r.a.toNat
  else if dKind d ≠ 4 ∧ adr r.b then some r.b.toNat
  else if dKind d ≠ 3 ∧ 256 ≤ r.acc.toNat then some r.acc.toNat
  else if gemm ∧ dAfmt d = 9 ∧ pl r.xa then some r.xa.toNat
  else if gemm ∧ dBfmt d = 9 ∧ pl r.xb then some r.xb.toNat
  else none
/-- R161. What keeps an MCALL from issuing.
(Assumption log 28: DEDUCED.) -/
def View.mcallBlocked (v : View) : Bool := !slotGrants (v.mslot (v.s.sfc / 64 % 16)) v.c || decide (8 ≤ v.core.matrixEntries v.c)
/-- R161, R366. The checks of an MCALL that issues, in order; a pattern-book entry with an uncorrectable error traps.
(Assumption log 28: DEDUCED.) (Assumption log 83: PRESUMED.) -/
def View.mcallTrap (v : View) (idx : Nat) : Option Trap :=
  if v.mcallBlocked then none
  else
    let d := v.book idx
    if v.s.poisoned (bookWord v.k idx) 8 then some (landFault causeEcc 5 0)
    else if d = 0 then some (illegal .m .badValue)
    else
      let r := v.routine d
      match r.misaligned with
      | some a => some (issueFault causeMisaligned 5 a)
      | none => (v.ownFault r.rows r.planes).orElse fun _ => r.conflict
/-- R162. A bundle's work enters the engine queue; it becomes eligible when the bundle retires. -/
def View.enqueue (v : View) (work : MatWork) (sem : Option (Fin 16)) : SlotOut :=
  { state := fun s bid => s.modCore v.k fun core =>
      { core with
        mq := core.mq ++ [{ ctx := v.c, bid := bid, order := core.nextOrder, addr := v.addr, work := work, eligible := false,
                            chunk := 0, charge := Vector.replicate 4 0,
                            notify := { core := v.k, ctx := v.c, sem := sem, arrive := arrivesOn v.hdr .m } }]
        nextOrder := core.nextOrder + 1 }
    eff := [.matrix v.ctx.nextBid], arrive := .engine }
def mnopSpec : SlotSpec := {}
def mcallSpec (idx : Fin 256) : SlotSpec :=
  { trap := fun v => v.mcallTrap idx.val
    block := fun v => v.mcallBlocked
    out := fun v =>
      let d := v.book idx.val
      v.enqueue (.routine (v.routine d)) (if dsc d 204 204 = 1 then some (fin16 (dsc d 203 200)) else none) }

/-! ### The other M-slot instructions (R163 to R167) -/

def mpsetSpec (n : Fin 8) (xa : Fin 32) : SlotSpec := { out := fun v => { res := [(1, .mp n (v.x xa))] } }
def mosetSpec (n : Fin 4) (xa : Fin 32) (inc : BitVec 12) : SlotSpec :=
  { out := fun v => { res := [(1, .mo n ⟨(v.x xa).truncate 22, inc⟩)] } }
/-- R164. The steps that a stepped routine takes. -/
def stepsOf (d : BitVec 256) : Nat := if dKind d = 2 then dTaps d else dK d / 16
/-- R164. The steps supplied to a queued routine: those done and the MFEEDs that wait. -/
def Core.stepsIssued (k : Core) (i : MatItem) (d : BitVec 256) : Nat :=
  (if dKind d = 2 then i.chunk / (dK d / 16) else i.chunk)
    + (k.mq.filter fun j => match j.work with | .feed rbid _ => j.ctx = i.ctx && rbid = i.bid | _ => false).length
/-- R164. The oldest stepped routine of a context that still needs a step: its bundle, its snapshot, and the number of the step. -/
def Core.needsStep (k : Core) (c : Nat) : Option (Nat × Routine × Nat) :=
  k.mq.findSome? fun i =>
    match i.work with
    | .routine r =>
      if i.ctx = c ∧ dStepped r.desc ∧ k.stepsIssued i r.desc < stepsOf r.desc then some (i.bid, r, k.stepsIssued i r.desc) else none
    | _ => none
/-- R164. The checks of an MFEED.
(Assumption log 28: DEDUCED.) -/
def View.mfeedTrap (v : View) (n : Fin 4) : Option Trap :=
  match v.core.needsStep v.c with
  | none => some (illegal .m .badValue)
  | some (_, r, st) =>
    let rows := r.stepRows st (v.r.mo[n].off.toInt)
    (v.ownFault rows []).orElse fun _ => conflictAmong false (segBytes (dAfmt r.desc)) (segBytes (dBfmt r.desc)) [] rows
def mfeedSpec (n : Fin 4) : SlotSpec :=
  { trap := fun v => v.mfeedTrap n
    block := fun v => decide (8 ≤ v.core.matrixEntries v.c)
    out := fun v => match v.core.needsStep v.c with
      | none => {}
      | some (bid, _, _) =>
        { v.enqueue (.feed bid v.r.mo[n].off) none with
          regs := fun r => { r with mo := r.mo.set n { r.mo[n] with off := r.mo[n].off + r.mo[n].inc.signExtend 22 } } } }
/-- R165. A queued or running item writes a tile. -/
def MatItem.writesTile (i : MatItem) (tile : Nat) : Bool :=
  match i.work with
  | .routine r => (dKind r.desc = 1 || dKind r.desc = 2 || (dKind r.desc = 4 && dMode r.desc)) && decide (r.acc.toNat % 256 = tile)
  | .zero first cnt => decide (first ≤ tile ∧ tile < first + cnt)
  | .feed _ _ => false
/-- R165. An item of the context writes the tile and has not completed. -/
def Core.tileBusy (k : Core) (c tile : Nat) : Bool :=
  (k.mq.any fun i => i.ctx = c && i.writesTile tile) || k.mdone.any fun d => d.item.ctx = c && d.item.writesTile tile
/-- An accumulator row. -/
def Core.accRow (k : Core) (tile row : Nat) : Vector Word32 64 := AMap.getD k.acc (tile * 64 + row) (Vector.replicate 64 0)
/-- R165. The accumulator element that lane j takes. -/
def Core.drainLane (k : Core) (tile pair j : Nat) : Word32 :=
  (k.accRow tile (2 * pair + j / 64))[j % 64]?.getD 0
/-- R165, R196. An earlier MDRAIN of the context that has yet to retire clears the element that lane j takes. -/
def Ctx.clearsAhead (x : Ctx) (tile pair j : Nat) : Bool :=
  x.inflight.any fun i => i.eff.any fun e => match e with
    | .accClear t p clusters => t = tile && p = pair && bitAt clusters.toNat (j / 16)
    | _ => false
/-- R165. The element that lane j of an MDRAIN takes. -/
def View.drained (v : View) (tile pair j : Nat) : Word32 :=
  if v.ctx.clearsAhead tile pair j then 0 else v.core.drainLane tile pair j
/-- The clusters that act themselves: with LS = 1 the even ones. -/
def View.ownClusters (v : View) : BitVec 8 :=
  if v.ctx.lockstep then activeClusters v.r.clm true &&& 0x55#8 else activeClusters v.r.clm false
/-- R175. An MDRAIN issues: where the running chunk writes its sums in this cycle, it waits for the accumulator port and ends one cycle later.
(Assumption log 30: DEDUCED.) -/
def MatRun.giveWay (r : MatRun) (sfc : Nat) : MatRun :=
  if r.cls = .computing ∧ r.ends = sfc then { r with ends := sfc + 1, held := some sfc } else r
/-- R165. MDRAIN: it reads at issue and clears when its bundle retires; a chunk that another context adds in between is lost with the rest.
(Assumption log 30: DEDUCED.) -/
def mdrainSpec (vd : Fin 32) (tile : Fin 256) (pair : Fin 32) (clr : Bool) : SlotSpec :=
  { block := fun v => v.core.tileBusy v.c tile.val
    out := fun v =>
      { state := fun s _ => s.modCore v.k fun x => { x with mrun := x.mrun.map fun r => r.giveWay s.sfc }
        res := [(8, .v vd (clusterMask v.r.clm v.ctx.lockstep)
          (Vector.ofFn fun i : Fin 128 => v.drained tile.val pair.val (srcLane v.ctx.lockstep i.val)))]
        eff := if clr then [.accClear tile.val pair.val v.ownClusters] else [], arrive := .landing } }
def mzeroSpec (first cnt : Fin 256) : SlotSpec :=
  { block := fun v => decide (8 ≤ v.core.matrixEntries v.c)
    out := fun v => v.enqueue (.zero first.val (cnt.val + 1)) none }
/-- The descriptor in the scratchpad at an address. -/
def View.descAt (v : View) (a : Nat) : BitVec 256 := BitVec.ofNat 256 (leValue (v.s.spadIssue v.k v.c a 32))
/-- R167. MBOOK, its descriptor read at issue. (Assumption log 39: DEDUCED.) -/
def mbookSpec (idx : Fin 256) (xa : Fin 32) : SlotSpec :=
  { trap := fun v =>
      let a := v.xn xa
      if a % 32 ≠ 0 then some (issueFault causeMisaligned 5 a)
      else if 0x200000 ≤ a then some (issueFault causeXlate 5 a)
      else if !v.core.usable v.c (a / 65536) then some (issueFault causeNotOwned 5 a)
      else (v.nearEcc (.spad a) 32 a 5).orElse fun _ => if !descValid (v.descAt a) then some (illegal .m .badValue) else none
    out := fun v => { eff := [.book idx.val (v.descAt (v.xn xa)) v.s.clocks] } }

/-! ### The K slot (R168) -/

def knopSpec : SlotSpec := {}
/-- R168. KLD's address. -/
def View.kldAddr (v : View) (mp j : Fin 8) : Nat := bits (v.r.mp[mp]).toNat 20 0 + 128 * j.val
/-- R168, R346. KLD, a load from the scratchpad. (Assumption log 39: DEDUCED.) -/
def kldSpec (ks mp j : Fin 8) : SlotSpec :=
  { trap := fun v =>
      let a := v.kldAddr mp j
      if a % 128 ≠ 0 then some (issueFault causeMisaligned 8 a)
      else if 0x200000 ≤ a ∨ v.core.usable v.c (a / 65536) = false then some (issueFault causeNotOwned 8 a)
      else v.nearEcc (.spad a) 128 a 8
    out := fun v =>
      { loads := [{ lat := 5, dest := .scale ks, ln := none,
                    pieces := [{ off := 0, len := 128, ea := v.kldAddr mp j, loc := .spad (v.kldAddr mp j) }] }] } }
def ksetSpec (ks mp j : Fin 8) : SlotSpec :=
  { out := fun v => { res := [(1, .ks ks (Vector.replicate 128 (BitVec.ofNat 8 ((v.r.mp[mp]).toNat / 2 ^ (8 * j.val)))))] } }
def kmovSpec (ks ka : Fin 8) : SlotSpec := { out := fun v => { res := [(1, .ks ks v.r.ks[ka])] } }

/-! ### Meanings by themselves: the slot as the only one of its bundle -/

/-- MNOP: R160. No operation. -/
def execMnop (s : State) : Out :=
  issueOne .m 0x00 none (mnopSpec) s
/-- MCALL: R161. Start a pattern-book routine. -/
def execMcall (idx : Fin 256) (s : State) : Out :=
  issueOne .m 0x01 none (mcallSpec idx) s
/-- MPSET: R163. -/
def execMpset (n : Fin 8) (xa : Fin 32) (s : State) : Out :=
  issueOne .m 0x02 none (mpsetSpec n xa) s
/-- MFEED: R164. -/
def execMfeed (n : Fin 4) (s : State) : Out :=
  issueOne .m 0x03 none (mfeedSpec n) s
/-- MOSET: R163. -/
def execMoset (n : Fin 4) (xa : Fin 32) (inc : BitVec 12) (s : State) : Out :=
  issueOne .m 0x04 none (mosetSpec n xa inc) s
/-- MDRAIN: R165. -/
def execMdrain (vd : Fin 32) (tile : Fin 256) (pair : Fin 32) (clr : Bool) (s : State) : Out :=
  issueOne .m 0x05 none (mdrainSpec vd tile pair clr) s
/-- MZERO: R166. Clears cnt + 1 tiles. -/
def execMzero (first cnt : Fin 256) (s : State) : Out :=
  issueOne .m 0x06 none (mzeroSpec first cnt) s
/-- MBOOK: R167. -/
def execMbook (idx : Fin 256) (xa : Fin 32) (s : State) : Out :=
  issueOne .m 0x07 none (mbookSpec idx xa) s
/-- KNOP: R168. No operation. -/
def execKnop (s : State) : Out :=
  issueOne .k 0x00 none (knopSpec) s
/-- KLD: R168. -/
def execKld (ks mp j : Fin 8) (s : State) : Out :=
  issueOne .k 0x01 none (kldSpec ks mp j) s
/-- KSET: R168. -/
def execKset (ks mp j : Fin 8) (s : State) : Out :=
  issueOne .k 0x02 none (ksetSpec ks mp j) s
/-- KMOV: R168. -/
def execKmov (ks ka : Fin 8) (s : State) : Out :=
  issueOne .k 0x03 none (kmovSpec ks ka) s

end Sys2Proof.Machine
end

