-- ==== Sys2Proof/Machine/Copy.lean ====
section
/-! DEFINITION. CSEQ, JOB and WAITC (spec/10 R182, R183, R190). The copy sequencer itself is in Sequencer.lean. -/
namespace Sys2Proof.Machine

/-- R182. The checks of a card address. -/
def View.cardTrap (v : View) (slot a : Nat) : Option Trap :=
  if a % 256 ≠ 0 then some (issueFault causeMisaligned slot a)
  else if 0x200000 ≤ a then some (issueFault causeXlate slot a)
  else if !v.core.usable v.c (a / 65536) then some (issueFault causeNotOwned slot a)
  else none
/-- R183. The cards a core has accepted, with those of bundles that have issued and not retired. -/
def Core.cardsHeld (k : Core) : Nat :=
  k.cards.length + [0, 1, 2, 3].foldl (fun n c =>
    n + ((k.ctx c).inflight.foldl (fun n i => n + (i.eff.filter fun e => match e with | .card _ _ _ _ _ => true | _ => false).length) 0)) 0
/-- R183, R216. The footprint entries that the card at an address takes: of those its launch has reserved, and of the die's table. -/
def View.entries (v : View) (q : Option Nat) (a : Nat) : Nat × Nat :=
  let need := jobEntries q (v.s.spadRetire v.k v.c a 256)
  let mine := min need (v.s.reserveFree v.k v.c)
  (mine, need - mine)
/-- R183, R258. A card is accepted when the bundle retires, behind the context's trowel commands in the card's bank; a JOB's footprint entries
are taken from issue on. -/
def View.cardOut (v : View) (xa : Fin 32) (q : Option Nat) : SlotOut :=
  let n := v.entries q (v.xn xa)
  { eff := [.card (v.xn xa) q { core := v.k, ctx := v.c, sem := none, arrive := arrivesOn v.hdr .e } n.1 n.2], arrive := .engine
    conds := v.afterCommands (v.xn xa) 256, state := fun s _ => s.takeFootprints v.k v.c n.1 n.2 }
def cseqSpec (xa : Fin 32) : SlotSpec :=
  { trap := fun v => v.cardTrap 7 (v.xn xa)
    block := fun v => decide (16 ≤ v.core.cardsHeld)
    out := fun v => v.cardOut xa none }
def jobSpec (xa : Fin 32) (q : Fin 16) : SlotSpec :=
  { trap := fun v => v.cardTrap 7 (v.xn xa)
    block := fun v => decide (16 ≤ v.core.cardsHeld) || ((v.cardTrap 7 (v.xn xa)).isNone
      && decide (1024 < (v.s.die (v.k / 128)).fpUsed + (v.entries (some q.val) (v.xn xa)).2))
    out := fun v => v.cardOut xa (some q.val) }
/-- R190. The chunks of a mask have been written, or the card has failed. -/
def View.chunksThere (v : View) (mask : Word64) (a : Nat) : Bool :=
  let bm := leValue (v.s.spadIssue v.k v.c (a + 0x20) 8)
  let st := bits (leValue (v.s.spadIssue v.k v.c (a + 0x18) 8)) 63 56
  (BitVec.ofNat 64 bm &&& mask) = mask || (st ≠ 0 && st ≠ 0xFF)
/-- R182, R366. The trap of a WAITC on a card address: of the address, or an uncorrectable error of the words that it reads. -/
def View.waitTrap (v : View) (a : Nat) : Option Trap :=
  (v.cardTrap 1 a).orElse fun _ => (v.nearEcc (.spad (a + 0x18)) 8 (a + 0x18) 1).orElse fun _ => v.nearEcc (.spad (a + 0x20)) 8 (a + 0x20) 1
def waitcSpec (g : Guard) (xm xc : Fin 32) : SlotSpec :=
  { trap := fun v => if v.on g then v.waitTrap (v.xn xc) else none
    block := fun v => v.on g && (v.waitTrap (v.xn xc)).isNone && !v.chunksThere (v.x xm) (v.xn xc) }

/-! ### Meanings by themselves: the slot as the only one of its bundle -/

/-- WAITC: R190. Wait for chunks of a card. -/
def execWaitc (g : Guard) (xm xc : Fin 32) (s : State) : Out :=
  issueOne .c 0x09 none (waitcSpec g xm xc) s
/-- CSEQ: R182. -/
def execCseq (xa : Fin 32) (s : State) : Out :=
  issueOne .e 0x02 none (cseqSpec xa) s
/-- JOB: R182. -/
def execJob (xa : Fin 32) (q : Fin 16) (s : State) : Out :=
  issueOne .e 0x03 none (jobSpec xa q) s

end Sys2Proof.Machine
end

