-- ==== Sys2Proof/Machine/Context.lean ====
section
/-! DEFINITION. Context instructions and control registers (spec/11 R206 to R209, 02 R40 and R41, 07 R113, 08 R139, 09 R169, 17 R275,
19 R315). -/
namespace Sys2Proof.Machine

/-- R92, R206. The trap of a control-register number or value that is refused.
(Assumption log 15: DEDUCED.) -/
def csrFault : Trap := illegal .c .csr
/-- R200, R206. The trap of a write of a register that is RW at P only. -/
def privFault (n : Nat) : Trap := ⟨causePriv, 1, n, 2⟩

/-! ### Reading (R208, R209) -/

/-- R175. MCYIDLE: every engine cycle since reset that the other four counters do not hold.
(Assumption log 34: DEDUCED.) -/
def Core.engineIdle (k : Core) (clocks : Nat) : Nat := clocks - k.mcyc.toList.foldl (fun n w => n + w.toNat) 0
/-- R208. The value of a control register as the bundle sees it; none for an unimplemented number.
(Assumption log 34: DEDUCED.) -/
def View.csrRead (v : View) (n : Nat) : Option Word64 :=
  let r := v.r
  let ofN (x : Nat) : Option Word64 := some (BitVec.ofNat 64 x)
  if n = 0x000 then ofN (v.k % 512 * 4 + v.c % 4)
  else if n = 0x001 then some r.trapvec
  else if n = 0x002 then some r.trapcause
  else if n = 0x003 then some r.trappc
  else if n = 0x004 then some r.trapslot
  else if n = 0x005 then some r.trapinfo
  else if n = 0x006 then ofN (2 * r.hnd.toNat + v.ctx.priv.toNat)
  else if n = 0x007 then some r.msginfo
  else if n = 0x008 then some r.trapnpc
  else if n = 0x010 then ofN r.memdef.toNat
  else if n = 0x011 then ofN (if v.ctx.lockstep then r.clm &&& 0x55#8 else r.clm).toNat
  else if n = 0x012 then ofN r.stepref.toNat
  else if n = 0x013 then ofN r.framelen.toNat
  else if n = 0x014 then ofN (framePos v.s.sfc v.origin r.framelen.toNat)
  else if n = 0x015 then ofN v.s.sfc
  else if n = 0x016 then ofN (v.core.bankOwn v.c)
  else if 0x020 ≤ n ∧ n ≤ 0x025 then r.lc[n - 0x020]?
  else if 0x028 ≤ n ∧ n ≤ 0x02D then r.li[n - 0x028]?
  else if 0x030 ≤ n ∧ n ≤ 0x037 then r.harm[n - 0x030]?
  else if 0x040 ≤ n ∧ n ≤ 0x04F then ofN (v.mslot (n - 0x040)).toNat
  else if n = 0x060 then ofN v.ctx.cycle
  else if n = 0x061 then some v.ctx.retired
  else if 0x062 ≤ n ∧ n ≤ 0x065 then v.core.mcyc[n - 0x062]?
  else if n = 0x066 then ofN (v.core.engineIdle v.s.clocks)
  else if n = 0x067 then ofN v.core.votecnt.toNat
  else if n = 0x070 then ofN r.detmode.toNat
  else if n = 0x071 then ofN v.ctx.lockstep.toNat
  else if n = 0x080 ∧ isWorker v.k = false then ofN v.xlroot.toNat
  else none

/-! ### Writing (R206, R209) -/

/-- R206. A write of a control register: a register that is read-only or unimplemented here is an illegal encoding
whatever the predicate (R92, R95), refused values trap with reason CSR, a P-only field at T traps PRIV, otherwise the registers change
from the next bundle.
(Assumption log 15: DEDUCED.) -/
def csrwSpecOf (g : Guard) (n : Nat) (bad : View → Bool) (privOnly : Bool) (f : View → Regs → Regs) (eff : View → List Effect)
    (ro : View → Bool := fun _ => false) : SlotSpec :=
  { enc := fun v => if ro v then some csrFault else none
    trap := fun v =>
      if !v.on g then none
      else if bad v then some csrFault
      else if privOnly && !v.ctx.priv then some (privFault n)
      else none
    out := fun v => if v.on g then { regs := f v, eff := eff v, sets := true } else {} }
/-- The value has a bit at or above n.
(Assumption log 15: DEDUCED.) -/
def View.above (v : View) (xa : Fin 32) (n : Nat) : Bool := decide (2 ^ n ≤ v.xn xa)
/-- R209. The value has one of bits [4:1].
(Assumption log 15: DEDUCED.) -/
def View.lineReserved (v : View) (xa : Fin 32) : Bool := bits (v.xn xa) 4 1 ≠ 0

/-- R206. The registers that have no row of their own: TRAPVEC is written, the others are read-only or unimplemented.
(Assumption log 9: DEDUCED.) -/
def csrwSpec (g : Guard) (csr : BitVec 10) (xa : Fin 32) : SlotSpec :=
  csrwSpecOf g csr.toNat (fun v => v.lineReserved xa) false (fun v r => { r with trapvec := v.x xa }) (fun _ => []) (fun _ => decide (csr ≠ 1))
/-- R139. -/
def csrwMemdefSpec (g : Guard) (xa : Fin 32) : SlotSpec :=
  csrwSpecOf g 0x010 (fun v => v.above xa 11 || decide (4 ≤ bits (v.xn xa) 10 8) || decide (5 ≤ bits (v.xn xa) 7 5)) false
    (fun v r => { r with memdef := (v.x xa).truncate 11 }) (fun _ => [])
/-- R113, R8. With LS = 1 the odd bits are read-only; a write of the reserved bits is ignored. -/
def csrwClmSpec (g : Guard) (xa : Fin 32) : SlotSpec :=
  csrwSpecOf g 0x011 (fun _ => false) false
    (fun v r => { r with clm := if v.ctx.lockstep then (v.x xa).truncate 8 &&& 0x55#8 else (v.x xa).truncate 8 }) (fun _ => [])
/-- R40, R8. A write of 0 to LEN leaves it unchanged; a write of the reserved bits is ignored. -/
def csrwFramelenSpec (g : Guard) (xa : Fin 32) : SlotSpec :=
  csrwSpecOf g 0x013 (fun _ => false) false
    (fun v r => { r with framelen := if (v.x xa).truncate 8 = 0#8 then r.framelen else (v.x xa).truncate 8 }) (fun _ => [])
/-- R40, R8. A write of the reserved bits is ignored. -/
def csrwDetmodeSpec (g : Guard) (xa : Fin 32) : SlotSpec :=
  csrwSpecOf g 0x070 (fun _ => false) true (fun v r => { r with detmode := (v.x xa).getLsbD 0 }) (fun _ => [])
/-- R315. -/
def csrwSteprefSpec (g : Guard) (xa : Fin 32) : SlotSpec :=
  csrwSpecOf g 0x012 (fun v => v.above xa 48) false (fun v r => { r with stepref := (v.x xa).truncate 48 }) (fun _ => [])
/-- R209. -/
def csrwTrappcSpec (g : Guard) (xa : Fin 32) : SlotSpec :=
  csrwSpecOf g 0x003 (fun _ => false) false (fun v r => { r with trappc := v.x xa }) (fun _ => [])
/-- R209. -/
def csrwHarmSpec (g : Guard) (k : Fin 8) (xa : Fin 32) : SlotSpec :=
  csrwSpecOf g (0x030 + k.val) (fun v => v.lineReserved xa) false (fun v r => { r with harm := r.harm.set k (v.x xa) }) (fun _ => [])
/-- R26. A level is of kind T. -/
def View.levelT (v : View) (l : Nat) : Bool :=
  match v.ctx.task with | some t => t.kinds[l]? = some .t | none => false
/-- R26, R222. -/
def csrwLoopCountSpec (g : Guard) (isIdx : Bool) (lvl : Fin 8) (xa : Fin 32) : SlotSpec :=
  csrwSpecOf g ((if isIdx then 0x028 else 0x020) + lvl.val) (fun _ => false) false
    (fun v r => if isIdx then { r with li := r.li.setIfInBounds lvl.val (v.x xa) } else { r with lc := r.lc.setIfInBounds lvl.val (v.x xa) })
    (fun _ => []) (fun v => !v.levelT lvl.val)
/-- R169, R8. A write of the reserved bits is ignored. -/
def csrwMslotSpec (g : Guard) (n : Fin 16) (xa : Fin 32) : SlotSpec :=
  csrwSpecOf g (0x040 + n.val) (fun _ => false) true (fun _ r => r) (fun v => [.mslot n ((v.x xa).truncate 3)])
/-- R275, R8. A write of the reserved bits is ignored. -/
def csrwXlrootSpec (g : Guard) (xa : Fin 32) : SlotSpec :=
  csrwSpecOf g 0x080 (fun _ => false) true (fun _ r => r) (fun v => [.xlroot ((v.x xa).truncate 32)]) (fun v => isWorker v.k)
def csrrSpec (g : Guard) (csr : BitVec 10) (xd : Fin 32) : SlotSpec :=
  { enc := fun v => if (v.csrRead csr.toNat).isNone then some csrFault else none
    out := fun v => if v.on g then { res := [(1, .x xd ((v.csrRead csr.toNat).getD 0))] } else {} }

/-! ### Other context instructions (R206, R207) -/

def nopSpec : SlotSpec := {}
/-- Some class is armed. -/
def Regs.anyArmed (r : Regs) : Bool := (List.range 8).any fun k => r.armed k
def sleepSpec (g : Guard) : SlotSpec :=
  { trap := fun v => if v.on g && !v.r.anyArmed then some (illegal .c .badValue) else none
    out := fun v => if v.on g then { eff := [.sleep] } else {} }
def armhSpec (g : Guard) (xa : Fin 32) (k : Fin 8) : SlotSpec :=
  { trap := fun v => if v.on g && decide (v.xn xa % 32 ≠ 0) then some (illegal .c .badValue) else none
    out := fun v => if v.on g then { regs := fun r => { r with harm := r.harm.set k (v.x xa ||| 1) }, sets := true } else {} }
def yieldSpec (g : Guard) : SlotSpec := { out := fun v => if v.on g then { eff := [.yield] } else {} }
def trapSpec (g : Guard) (n : BitVec 8) : SlotSpec :=
  { trap := fun v => if v.on g then some ⟨causeSoft, 1, n.toNat, 3⟩ else none }
def rettSpec (g : Guard) : SlotSpec :=
  { trap := fun v => if v.on g && !v.r.hnd then some (illegal .c .badValue) else none
    out := fun v =>
      if v.on g then { target := some v.r.returnFromTrap.pc, regs := fun r => r.returnFromTrap, idle := 1 } else {} }
/-- R371. A precise stop when stops are armed on the core, else BREAK. -/
def brkSpec (g : Guard) (tag : BitVec 8) : SlotSpec :=
  { trap := fun v => if v.on g && !v.core.armed then some ⟨causeBreak, 1, tag.toNat, 3⟩ else none
    stop := fun v => if v.on g && v.core.armed then some tag.toNat else none }
/-- R207. END: its bundle waits, BLOCKED, from its issue on. -/
def endTaskSpec (g : Guard) : SlotSpec :=
  { out := fun v => if v.on g then { eff := [.endTask], state := fun s _ => s.modCtx v.k v.c fun x => { x with ending := true, status := .blocked } } else {} }
/-- R370. A record of type 1. -/
def sevtSpec (g : Guard) (ev : BitVec 8) : SlotSpec := { out := fun v => if v.on g then { eff := [.trace 1 ev.toNat] } else {} }
/-- R41. A new schedule frame. -/
def frameSpec (g : Guard) (xa : Fin 32) (len : BitVec 8) : SlotSpec :=
  { trap := fun v => if v.on g && decide (v.xn xa ≤ v.s.sfc) then some ⟨causeOverrun, 0, 0xFF, 4⟩ else none
    out := fun v =>
      if v.on g then
        { regs := fun r => { r with framelen := if len = 0 then r.framelen else len, origin := v.x xa, prevStamp := none,
                                    startAt := some (v.xn xa) }, sets := true }
      else {} }

/-! ### Meanings by themselves: the slot as the only one of its bundle -/

/-- NOP: R86. No operation; reads no predicate. -/
def execNop (s : State) : Out :=
  issueOne .c 0x00 none (nopSpec) s
/-- SLEEP: R205, R206. Take a message or sleep. -/
def execSleep (g : Guard) (s : State) : Out :=
  issueOne .c 0x13 none (sleepSpec g) s
/-- ARMH: R206. Arm a handler class. -/
def execArmh (g : Guard) (xa : Fin 32) (k : Fin 8) (s : State) : Out :=
  issueOne .c 0x14 none (armhSpec g xa k) s
/-- YIELD: R206. Give up the issue port. -/
def execYield (g : Guard) (s : State) : Out :=
  issueOne .c 0x15 none (yieldSpec g) s
/-- TRAP: R206. Software trap. -/
def execTrap (g : Guard) (n : BitVec 8) (s : State) : Out :=
  issueOne .c 0x16 none (trapSpec g n) s
/-- RETT: R206. Return from the trap handler. -/
def execRett (g : Guard) (s : State) : Out :=
  issueOne .c 0x17 none (rettSpec g) s
/-- CSRR: R206. Read a control register. -/
def execCsrr (g : Guard) (csr : BitVec 10) (xd : Fin 32) (s : State) : Out :=
  issueOne .c 0x18 none (csrrSpec g csr xd) s
/-- FRAME: R41. Start a schedule frame. -/
def execFrame (g : Guard) (xa : Fin 32) (len : BitVec 8) (s : State) : Out :=
  issueOne .c 0x1B none (frameSpec g xa len) s
/-- BRK: R206, R371. Breakpoint. -/
def execBrk (g : Guard) (tag : BitVec 8) (s : State) : Out :=
  issueOne .c 0x1C none (brkSpec g tag) s
/-- END: R207. End the tile task. -/
def execEndTask (g : Guard) (s : State) : Out :=
  issueOne .c 0x1D none (endTaskSpec g) s
/-- SEVT: R206. Emit a trace event. -/
def execSevt (g : Guard) (ev : BitVec 8) (s : State) : Out :=
  issueOne .c 0x1E none (sevtSpec g ev) s
/-- CSRW: R206. Write a control register that has no row of its own. -/
def execCsrw (g : Guard) (csr : BitVec 10) (xa : Fin 32) (s : State) : Out :=
  issueOne .c 0x19 none (csrwSpec g csr xa) s
/-- CSRW_MEMDEF: R139. -/
def execCsrwMemdef (g : Guard) (xa : Fin 32) (s : State) : Out :=
  issueOne .c 0x19 none (csrwMemdefSpec g xa) s
/-- CSRW_CLM: R113. -/
def execCsrwClm (g : Guard) (xa : Fin 32) (s : State) : Out :=
  issueOne .c 0x19 none (csrwClmSpec g xa) s
/-- CSRW_FRAMELEN: R40. -/
def execCsrwFramelen (g : Guard) (xa : Fin 32) (s : State) : Out :=
  issueOne .c 0x19 none (csrwFramelenSpec g xa) s
/-- CSRW_DETMODE: R31, R40. -/
def execCsrwDetmode (g : Guard) (xa : Fin 32) (s : State) : Out :=
  issueOne .c 0x19 none (csrwDetmodeSpec g xa) s
/-- CSRW_STEPREF: R315. -/
def execCsrwStepref (g : Guard) (xa : Fin 32) (s : State) : Out :=
  issueOne .c 0x19 none (csrwSteprefSpec g xa) s
/-- CSRW_TRAPPC: R209. -/
def execCsrwTrappc (g : Guard) (xa : Fin 32) (s : State) : Out :=
  issueOne .c 0x19 none (csrwTrappcSpec g xa) s
/-- CSRW_HARM: R209. -/
def execCsrwHarm (g : Guard) (k : Fin 8) (xa : Fin 32) (s : State) : Out :=
  issueOne .c 0x19 none (csrwHarmSpec g k xa) s
/-- CSRW_LOOP_COUNT: R222, R26. LCn (isIdx false) or LIn of level n. -/
def execCsrwLoopCount (g : Guard) (isIdx : Bool) (lvl : Fin 8) (xa : Fin 32) (s : State) : Out :=
  issueOne .c 0x19 none (csrwLoopCountSpec g isIdx lvl xa) s
/-- CSRW_MSLOT: R169. -/
def execCsrwMslot (g : Guard) (n : Fin 16) (xa : Fin 32) (s : State) : Out :=
  issueOne .c 0x19 none (csrwMslotSpec g n xa) s
/-- CSRW_XLROOT: R275. -/
def execCsrwXlroot (g : Guard) (xa : Fin 32) (s : State) : Out :=
  issueOne .c 0x19 none (csrwXlrootSpec g xa) s

end Sys2Proof.Machine
end

