-- ==== Sys2Proof/Machine/Kernel.lean ====
section
/-! DEFINITION. Control transfer, hardware loops, bank hand-over and stencil loads (spec/12 R217 to R223). -/
namespace Sys2Proof.Machine

/-! ### Targets (R221) -/

/-- R210. The code lines of the context's kernel. -/
def View.nlines (v : View) : Nat :=
  match v.ctx.task with
  | some t => match AMap.get? v.s.kernels t.kernel with | some kn => kn.code.length | none => 0
  | none => 0
/-- R221. A line that exists. -/
def View.lineOk (v : View) (l : Int) : Bool := decide (0 ≤ l ∧ l < v.nlines)
/-- A control-transfer BADVALUE. -/
def badTarget : Trap := illegal .c .badValue
/-- R221. A taken transfer to a line, and a cycle without issue. -/
def transfer (l : Int) : SlotOut := { target := some (32 * l.toNat), idle := 1 }
/-- R221. A branch to a line.
(Assumption log 9: DEDUCED.) -/
def branchSpec (g : Guard) (line : View → Int) (bad : View → Bool) (more : View → SlotOut → SlotOut) : SlotSpec :=
  { trap := fun v => if v.on g && (bad v || !v.lineOk (line v)) then some badTarget else none
    out := fun v => if v.on g then more v (transfer (line v)) else {} }
/-- The line in a register. -/
def View.lineIn (v : View) (xa : Fin 32) : Int := (v.xn xa / 32 : Nat)

def brSpec (g : Guard) (disp : BitVec 18) : SlotSpec := branchSpec g (fun v => v.lineAt disp.toInt) (fun _ => false) (fun _ o => o)
def brxSpec (g : Guard) (xa : Fin 32) : SlotSpec :=
  branchSpec g (fun v => v.lineIn xa) (fun v => decide (v.xn xa % 32 ≠ 0)) (fun _ o => o)
/-- R221. x31 receives the byte address of the next line; not from a stencil word. -/
def callSpec (g : Guard) (disp : BitVec 18) : SlotSpec :=
  branchSpec g (fun v => v.lineAt disp.toInt) (fun v => v.sten.isSome)
    (fun v o => { o with res := [(1, .x 31 (BitVec.ofNat 64 (32 * (v.addr / 32 + 1))))] })
def retSpec (g : Guard) : SlotSpec :=
  branchSpec g (fun v => v.lineIn 31) (fun v => decide (v.xn 31 % 32 ≠ 0)) (fun _ o => o)

/-! ### Hardware loops (R222) -/

/-- R222. The trip count of a level. -/
def View.tripCount (v : View) (l : Nat) : Nat :=
  match v.ctx.task with | some t => t.counts[l]?.getD 0 | none => 0
/-- R222. LOOP's changes when the trip count is not 0. -/
def Regs.startLoop (r : Regs) (l n first last : Nat) : Regs :=
  { r with li := r.li.setIfInBounds l 0, lc := r.lc.setIfInBounds l (BitVec.ofNat 64 (n - 1)),
           loops := r.loops.setIfInBounds l ⟨true, first, last⟩ }
/-- R222. LBRK's changes: level l and those inside it become inactive. -/
def Regs.leaveLoops (r : Regs) (l : Nat) : Regs :=
  { r with loops := Vector.ofFn fun k : Fin 6 => if l ≤ k.val then { r.loops[k] with active := false } else r.loops[k] }
def loopSpec (g : Guard) (lvl : Fin 8) (disp : BitVec 15) : SlotSpec :=
  { enc := fun _ => if disp.toInt < 1 then some badTarget else none
    trap := fun v =>
      let last := v.lineAt disp.toInt
      if v.on g && (!v.levelT lvl.val || !v.lineOk last
          || (v.tripCount lvl.val == 0 && !v.lineOk (last + 1))) then some badTarget else none
    out := fun v =>
      let last := v.lineAt disp.toInt
      if !v.on g then {}
      else if v.tripCount lvl.val = 0 then transfer (last + 1)
      else { regs := fun r => r.startLoop lvl.val (v.tripCount lvl.val) (v.addr / 32 + 1) last.toNat, sets := true } }
def lbrkSpec (g : Guard) (lvl : Fin 8) (disp : BitVec 15) : SlotSpec :=
  { trap := fun v => if v.on g && (!v.levelT lvl.val || !v.lineOk (v.lineAt disp.toInt)) then some badTarget else none
    out := fun v => if v.on g then { transfer (v.lineAt disp.toInt) with regs := fun r => r.leaveLoops lvl.val, sets := true } else {} }

/-! ### Banks (R218) -/

/-- R218. A mask with bits outside the claim. -/
def View.badMask (v : View) (xa : Fin 32) : Bool := decide (2 ^ 32 ≤ v.xn xa) || (v.xn xa &&& v.claim) ≠ v.xn xa
def bankacqSpec (g : Guard) (xa : Fin 32) : SlotSpec :=
  { trap := fun v => if v.on g && v.badMask xa then some badTarget else none
    block := fun v => v.on g && ((List.range 32).any fun b => bitAt (v.xn xa) b && !v.core.owns v.c b) }
def bankrelSpec (g : Guard) (xa : Fin 32) : SlotSpec :=
  { trap := fun v => if v.on g && v.badMask xa then some badTarget else none
    out := fun v => if v.on g then { eff := [.bankRel (v.xn xa)] } else {} }

/-! ### Stencil loads (R223) -/

def View.stenFirst (v : View) (xn : Fin 32) : Nat := bits (v.xn xn) 8 0
def View.stenCount (v : View) (xn : Fin 32) : Nat := bits (v.xn xn) 24 16 + 1
/-- R223, R346. STENLD: loads of up to 16 entries, each landing a core cycle after the one before; the bytes are read at issue, or in the
bank's order behind what the context has under way there (R268).
(Assumption log 39: DEDUCED.) -/
def stenldSpec (g : Guard) (xn xa : Fin 32) : SlotSpec :=
  { trap := fun v =>
      let a := v.xn xa
      let len := 32 * v.stenCount xn
      if !v.on g then none
      else if 512 < v.stenFirst xn + v.stenCount xn ∨ bits (v.xn xn) 15 9 ≠ 0 ∨ bits (v.xn xn) 63 25 ≠ 0 then some badTarget
      else if a % 32 ≠ 0 then some (issueFault causeMisaligned 1 a)
      else if 0x200000 < a + len then some (issueFault causeXlate 1 (max a 0x200000))
      else match v.unusable a len with
        | some b => some (issueFault causeNotOwned 1 b)
        | none => (List.range (v.stenCount xn)).findSome? fun i => v.nearEcc (.spad (a + 32 * i)) 32 (a + 32 * i) 1
    out := fun v =>
      if v.on g then
        { loads := (List.range ((v.stenCount xn + 15) / 16)).map fun j =>
            let n := min 16 (v.stenCount xn - 16 * j)
            { lat := 1 + j, dest := .stencil (v.stenFirst xn + 16 * j) n, ln := none,
              pieces := (List.range n).map fun i =>
                let a := v.xn xa + 512 * j + 32 * i
                { off := 32 * (v.stenFirst xn + 16 * j + i), len := 32, ea := a, loc := .spad a } } }
      else {} }

/-! ### Meanings by themselves: the slot as the only one of its bundle -/

/-- BR: R221. Branch by a signed line displacement. -/
def execBr (g : Guard) (disp : BitVec 18) (s : State) : Out :=
  issueOne .c 0x01 none (brSpec g disp) s
/-- BRX: R221. Branch to the line address in xa. -/
def execBrx (g : Guard) (xa : Fin 32) (s : State) : Out :=
  issueOne .c 0x02 none (brxSpec g xa) s
/-- CALL: R221. Branch and link in x31. -/
def execCall (g : Guard) (disp : BitVec 18) (s : State) : Out :=
  issueOne .c 0x03 none (callSpec g disp) s
/-- RET: R221. Branch to the line address in x31. -/
def execRet (g : Guard) (s : State) : Out :=
  issueOne .c 0x04 none (retSpec g) s
/-- LOOP: R222. Start a hardware loop. -/
def execLoop (g : Guard) (lvl : Fin 8) (disp : BitVec 15) (s : State) : Out :=
  issueOne .c 0x05 none (loopSpec g lvl disp) s
/-- LBRK: R222. Leave hardware loops. -/
def execLbrk (g : Guard) (lvl : Fin 8) (disp : BitVec 15) (s : State) : Out :=
  issueOne .c 0x06 none (lbrkSpec g lvl disp) s
/-- BANKACQ: R218. Wait until the banks of a mask are owned. -/
def execBankacq (g : Guard) (xa : Fin 32) (s : State) : Out :=
  issueOne .c 0x0F none (bankacqSpec g xa) s
/-- BANKREL: R218. Release the banks of a mask. -/
def execBankrel (g : Guard) (xa : Fin 32) (s : State) : Out :=
  issueOne .c 0x10 none (bankrelSpec g xa) s
/-- STENLD: R223. Load stencil-table entries. -/
def execStenld (g : Guard) (xn xa : Fin 32) (s : State) : Out :=
  issueOne .c 0x1A none (stenldSpec g xn xa) s

end Sys2Proof.Machine
end

