-- ==== Sys2Proof/Machine/Queue.lean ====
section
/-! DEFINITION. LAUNCH and CANCEL at issue (spec/13 R230 to R232). The scheduler that answers them is in Scheduler.lean. -/
namespace Sys2Proof.Machine

/-- R231. Bytes at a place as the bundle sees them at issue: its own stores, the first-level cache, then memory.
(Assumption log 38: DEDUCED.) -/
def View.readNow (v : View) (w : Where) (n : Nat) : List Byte :=
  match w with
  | .spad a => v.s.spadIssue v.k v.c a n
  | .window k a => (List.range n).map fun i =>
      match overlayWindow v.ctx v.ctx.nextBid k (a + i) with
      | some b => b
      | none => v.s.windowByte v.k v.c k (a + i)
  | .phys pa =>
    if remotePa pa then (List.range n).map fun i => (Config.freeWord (v.s.free + pa + i)).truncate 8
    else (List.range n).map fun i =>
      match overlayGlobal v.ctx v.ctx.nextBid 0 (pa + i) with
      | some (b, _) => b
      | none => v.s.enginePhys v.k (pa + i)
/-- R231, R366. The place of a descriptor, whose bytes show no uncorrectable error.
(Assumption log 38: DEDUCED.) (Assumption log 83: PRESUMED.) -/
def View.descPlace (v : View) (a : Nat) : Except Trap Where :=
  if a % 128 ≠ 0 then .error (issueFault causeMisaligned 1 a)
  else match v.locate 6 a false with
  | .ok w => if v.poisonedAt w 128 then .error (landFault causeEcc 1 a) else .ok w
  | .error f => .error (f.trap 1 a)
/-- R20, R231. The sectors of a descriptor that the core's first-level cache lacks: they are read at their home. -/
def View.descSectors (v : View) (w : Where) : List Nat :=
  match w with
  | .phys pa => if remotePa pa then [] else (sectorsOf pa 128).filter fun a => (v.core.l1Read? a 64).isNone
  | _ => []
/-- R230. xd is written 64 cycles after issue, or when the scheduler has decided; the bundle retires then.
(Assumption log 7: DEDUCED.) (Assumption log 38: DEDUCED.) -/
def View.askScheduler (v : View) (xd : Fin 32) (far : Bool) (cancel : Option Nat) (desc : List Byte) (ea : Nat) (sectors : List Nat) : SlotOut :=
  { loads := [{ lat := 64, dest := .scalar xd 8 false, pieces := [], extra := [⟨0, 8, 0, none, none, none, 0, none⟩] }]
    conds := [.landed]
    state := fun s bid =>
      let r : SchedReq := { core := v.k, ctx := v.c, bid := bid, seq := s.nextSeq, cancel := cancel, desc := desc, ea := ea, sectors := sectors,
                            readyAt := s.sfc + 1 + if far then Config.draw s.free else 0 }
      { s with sched := s.sched ++ [r], nextSeq := s.nextSeq + 1, free := s.free + 1 } }
def launchSpec (g : Guard) (xd xa : Fin 32) : SlotSpec :=
  { trap := fun v => if v.on g then placeTrap (v.descPlace (v.xn xa)) else none
    out := fun v =>
      if !v.on g then {}
      else match v.descPlace (v.xn xa) with
        | .error _ => {}
        | .ok w => v.askScheduler xd w.far none (v.readNow w 128) (v.xn xa) (v.descSectors w) }
def cancelSpec (g : Guard) (xd xa : Fin 32) : SlotSpec :=
  { trap := fun v => if v.on g && decide (2 ^ 32 ≤ v.xn xa) then some badTarget else none
    out := fun v => if v.on g then v.askScheduler xd false (some (v.xn xa)) [] 0 [] else {} }

/-! ### Meanings by themselves: the slot as the only one of its bundle -/

/-- LAUNCH: R230, R231. Launch a child. -/
def execLaunch (g : Guard) (xd xa : Fin 32) (s : State) : Out :=
  issueOne .c 0x11 none (launchSpec g xd xa) s
/-- CANCEL: R230, R232. Cancel a launch. -/
def execCancel (g : Guard) (xd xa : Fin 32) (s : State) : Out :=
  issueOne .c 0x12 none (cancelSpec g xd xa) s

end Sys2Proof.Machine
end

