-- ==== Sys2Proof/Machine/Barrier.lean ====
section
/-! DEFINITION. Semaphores, barrier arrivals and waits, fences, acquire and release (spec/15). -/
namespace Sys2Proof.Machine

/-- R249. -/
def waitsSpec (g : Guard) (sm : Fin 16) (cnt : Fin 8) : SlotSpec :=
  { out := fun v => if v.on g then { takes := [(sm, cnt.val + 1)] } else {} }
/-- R250. -/
def sigsSpec (g : Guard) (sm : Fin 16) (cnt : Fin 8) : SlotSpec :=
  { out := fun v => if v.on g then { eff := [.sem sm (cnt.val + 1)] } else {} }
/-- R243, R245. -/
def arriveSpec (g : Guard) (bk : Fin 16) : SlotSpec :=
  { trap := fun v => if v.on g then v.bindTrap bk 1 else none
    out := fun v => if v.on g then { regs := v.bound bk, eff := [.arrive bk] } else {} }
/-- The bytes of a barrier word, read where it lies. -/
def View.barWord (v : View) (a : Nat) : Nat :=
  match spaceOf a with
  | .spad x => leValue (v.s.spadRead v.k x 8)
  | .window k x => leValue (v.s.spadRead k x 8)
  | _ => 0
/-- The synchronisation variable of a barrier word (R246). -/
def View.barVar (v : View) (a : Nat) : Nat :=
  match spaceOf a with | .spad x => spadAddr v.k x | .window k x => spadAddr k x | _ => a
/-- R245. A withheld effect sends an arrival on an entry, at retire or when its engine completes. -/
def Effect.arrivesAt (bk : Fin 16) : Effect → Bool
  | .arrive e => e = bk
  | .trowel _ _ _ _ _ e => e = some bk
  | .card _ _ n _ _ => n.arrive = some bk
  | .bankMode _ _ n _ => n.arrive = some bk
  | .skim _ _ q => q.notify.arrive = some bk
  | .coatw _ w => w.cmd.notify.arrive = some bk
  | .chan _ q => q.notify.arrive = some bk
  | .send _ _ m => m.notify.arrive = some bk
  | _ => false
/-- A work item of a bank that arrives on an entry. -/
def BankItem.arrivesAt (it : BankItem) (k c : Nat) (bk : Fin 16) : Bool :=
  it.core = k && it.ctx = c && (match it.work with | .trowel _ _ _ e => e = some bk | _ => false)
/-- R245, R247. The context has issued an arrival on an entry that is not yet sent: a result has to land, or an engine to complete.
(Assumption log 16: DEDUCED.) -/
def State.unsent (s : State) (k c : Nat) (bk : Fin 16) : Bool :=
  let core := s.core k
  let x := core.ctx c
  let tells (n : Notify) : Bool := n.core = k && n.ctx = c && n.arrive = some bk
  (x.pend.any fun p => p.arrive = some bk)
    || (x.held.any fun h => match h.work with | .atomic _ _ it => it.arrivesAt k c bk | _ => false) || (x.inflight.any fun i => i.eff.any fun e => e.arrivesAt bk)
    || (core.cards.any fun d => tells d.notify) || (core.mq.any fun i => tells i.notify) || (core.mdone.any fun d => tells d.item.notify)
    || (s.cores.any fun e => e.2.banks.any fun b => b.queue.any fun it => it.arrivesAt k c bk)
    || (s.transit.any fun t => t.2.2.2.arrivesAt k c bk)
    || (s.regions.any fun e => (e.2.coatw.any fun w => tells w.cmd.notify) || (e.2.counted.any fun w => tells w.cmd.notify)
        || e.2.slices.any fun sl => (sl.transit ++ sl.queue).any fun q => tells q.notify)
    || (s.chans.any fun e => e.2.cmds.any fun q => tells q.notify) || (s.messages.any fun m => tells m.notify)
    || core.banks.any fun b => b.notify.any tells
/-- R247. A pending wait is satisfied: no arrival of the context is outstanding or still to be sent, and the phase differs from the recorded
one.
(Assumption log 16: DEDUCED.) -/
def View.phaseFlipped (v : View) (bk : Fin 16) (a : Nat) : Bool :=
  let b := v.ctx.bars[bk]
  b.out = 0 && !v.s.unsent v.k v.c bk && b.ph ≠ some (bitAt (v.barWord a) 63)
/-- R366. The uncorrectable error of a barrier word that a pending wait reads.
(Assumption log 83: PRESUMED.) -/
def View.barEcc (v : View) (bk : Fin 16) : Option Trap :=
  if !v.ctx.bars[bk].w then none
  else match v.bind bk 1 with
  | .ok a => if v.s.poisoned (v.barVar a) 8 then some (landFault causeEcc 1 a) else none
  | .error _ => none
def bwaitSpec (g : Guard) (bk : Fin 16) : SlotSpec :=
  { trap := fun v => if v.on g then (v.bindTrap bk 1).orElse fun _ => v.barEcc bk else none
    block := fun v => v.on g && v.ctx.bars[bk].w && (v.barEcc bk).isNone
      && (match v.bind bk 1 with | .ok a => !v.phaseFlipped bk a | .error _ => false)
    out := fun v =>
      if !v.on g then {}
      else match v.bind bk 1 with
        | .error _ => {}
        | .ok a =>
          if v.ctx.bars[bk].w then { regs := v.bound bk, eff := [.bwait bk], conds := [.acquire (v.barVar a) 3] }
          else { regs := v.bound bk } }
/-- R251. -/
def fenceSpec (g : Guard) (scope : Fin 8) : SlotSpec :=
  { out := fun v => if v.on g then { conds := [.fence scope.val] } else {} }
/-- R252. The physical address of a synchronisation variable, or its fault.
(Assumption log 18: DEDUCED.) -/
def View.syncVar (v : View) (a : Nat) : Except Trap Nat :=
  if a % 8 ≠ 0 then .error (issueFault causeMisaligned 1 a)
  else match spaceOf a with
    | .spad x => .ok (spadAddr v.k x)
    | .window k x => .ok (spadAddr k x)
    | .bad => .error (landFault causeXlate 1 a)
    | .global va =>
      match v.s.translateUnder (v.k / 128) v.xlroot.toNat va with
      | some l => .ok l.pa
      | none => .error (landFault causeXlate 1 a)
def acqSpec (g : Guard) (xa : Fin 32) (scope : Fin 8) : SlotSpec :=
  { trap := fun v => if v.on g then placeTrap (v.syncVar (v.xn xa)) else none
    out := fun v => if v.on g then (match v.syncVar (v.xn xa) with
      | .ok a => { conds := [.acquire a scope.val] } | .error _ => {}) else {} }
def relSpec (g : Guard) (xa : Fin 32) (scope : Fin 8) : SlotSpec :=
  { trap := fun v => if v.on g then placeTrap (v.syncVar (v.xn xa)) else none
    out := fun v => if v.on g then (match v.syncVar (v.xn xa) with
      | .ok a => { eff := [.release a scope.val false] } | .error _ => {}) else {} }

/-! ### Meanings by themselves: the slot as the only one of its bundle -/

/-- WAITS: R249, R254. Take cnt + 1 from semaphore sm. -/
def execWaits (g : Guard) (sm : Fin 16) (cnt : Fin 8) (s : State) : Out :=
  issueOne .c 0x07 none (waitsSpec g sm cnt) s
/-- SIGS: R250, R254. Add cnt + 1 to semaphore sm. -/
def execSigs (g : Guard) (sm : Fin 16) (cnt : Fin 8) (s : State) : Out :=
  issueOne .c 0x08 none (sigsSpec g sm cnt) s
/-- ARRIVE: R245, R254. Arrive on a barrier entry. -/
def execArrive (g : Guard) (bk : Fin 16) (s : State) : Out :=
  issueOne .c 0x0A none (arriveSpec g bk) s
/-- BWAIT: R247, R254. Wait for a barrier phase. -/
def execBwait (g : Guard) (bk : Fin 16) (s : State) : Out :=
  issueOne .c 0x0B none (bwaitSpec g bk) s
/-- FENCE: R251, R254. Fence at a scope. -/
def execFence (g : Guard) (scope : Fin 8) (s : State) : Out :=
  issueOne .c 0x0C none (fenceSpec g scope) s
/-- ACQ: R252, R254. Acquire a synchronisation variable. -/
def execAcq (g : Guard) (xa : Fin 32) (scope : Fin 8) (s : State) : Out :=
  issueOne .c 0x0D none (acqSpec g xa scope) s
/-- REL: R252, R254. Release a synchronisation variable. -/
def execRel (g : Guard) (xa : Fin 32) (scope : Fin 8) (s : State) : Out :=
  issueOne .c 0x0E none (relSpec g xa scope) s

end Sys2Proof.Machine
end

