-- ==== Sys2Proof/Machine/Bank.lean ====
section
/-! DEFINITION. Trowel commands, TFENCE and BANKMODE at issue, and the E-slot no-operation and modifier prefix (spec/16 R255 to R268,
05 R90). The banks and their trowel units are in Banks.lean. -/
namespace Sys2Proof.Machine

def enopSpec : SlotSpec := {}
/-- R90, R140. The modifiers go to the D slot of the same bundle. -/
def modpSpec (_ord _scope : Fin 8) (_pol : Fin 4) (_ac : Fin 8) : SlotSpec := {}
/-- R90, R95, rule 5. A MODP whose bundle has no D-slot memory operation. -/
def modpAloneSpec : SlotSpec := { enc := fun _ => some (illegal .e .slotKind) }

/-! ### Places (R260, R261, R263) -/

/-- R260. The bank bytes that a command touches, as core and local address: alignment, one bank, space, ownership or mode. -/
def View.trowelPlace (v : View) (a align len : Nat) : Except Trap (Nat × Nat) :=
  if a % align ≠ 0 ∨ a / 65536 ≠ (a + len - 1) / 65536 then .error (issueFault causeMisaligned 7 a)
  else match spaceOf a with
    | .bad => .error (issueFault causeXlate 7 a)
    | .global _ => .error (issueFault causeAttr 7 a)
    | .spad x => if v.core.usable v.c (x / 65536) then .ok (v.k, x) else .error (issueFault causeNotOwned 7 a)
    | .window k x =>
      if !v.s.diesJoined (v.k / 128) (k / 128) then .error (landFault causeXlate 7 a)
      else if (v.s.bank k (x / 65536)).mode.plain then .ok (k, x) else .error (landFault causeAttr 7 a)
/-- R255, R259. The trowel commands that hold an entry of a bank's queue: those there, on their way, of unretired bundles and not yet sent, of
every core. -/
def State.queueHeld (s : State) (k b : Nat) : Nat :=
  let is (it : BankItem) : Bool := match it.work with | .trowel _ _ _ _ => true | _ => false
  let here := ((s.bank k b).queue.filter is).length
  let coming := (s.transit.filter fun t => t.2.1 = k ∧ t.2.2.1 = b ∧ is t.2.2.2).length
  let unsent (x : Ctx) : Nat :=
    x.inflight.foldl (fun n i => n + (i.eff.filter fun e => match e with
      | .trowel k' _ _ a _ _ => k' = k && a / 65536 = b | _ => false).length) 0
    + (x.held.filter fun h => match h.work with | .atomic k' b' _ => k' = k && b' = b | _ => false).length
  s.cores.foldl (fun n e => [0, 1, 2, 3].foldl (fun n c => n + unsent (e.2.ctx c)) n) (here + coming)
/-- R28, R259. A command finds its queue full. -/
def View.queueFull (v : View) (p : Except Trap (Nat × Nat)) : Bool :=
  match p with | .ok (k, x) => decide (16 ≤ v.s.queueHeld k (x / 65536)) | .error _ => false
/-- R259. A command that is sent when its bundle retires: at issue for an own bank, 12 cycles later through the window. -/
def View.trowelOut (v : View) (far : Bool) (p : Except Trap (Nat × Nat)) (op : TrowelOp) : SlotOut :=
  match p with
  | .error _ => {}
  | .ok (k, x) =>
    { eff := [.trowel k far op x v.ctx.nextBid (arrivesOn v.hdr .e)]
      conds := if far then [.cycle (v.ctx.cycle + 12)] else [], arrive := .engine }
/-- R135. The address is a window address.
(Assumption log 23: DEDUCED.) -/
def isWindow (a : Nat) : Bool := match spaceOf a with | .window _ _ => true | _ => false

/-! ### Store-op commands (R261, R262) -/

/-- R261. The place of a store-op command. -/
def View.storeOpPlace (v : View) (op : Nat) (xa : Fin 32) (imm : BitVec 13) : Except Trap (Nat × Nat) :=
  v.trowelPlace (v.ea13 xa imm) 64 (if op = 0x0B then 1024 else 512)
/-- R261. A store-op command: opcode, format, vector. -/
def storeOpSpec (op : Nat) (vs xa : Fin 32) (fmt : Fin 8) (imm : BitVec 13) : SlotSpec :=
  { trap := fun v => placeTrap (v.storeOpPlace op xa imm)
    block := fun v => v.queueFull (v.storeOpPlace op xa imm)
    out := fun v => v.trowelOut (isWindow (v.ea13 xa imm)) (v.storeOpPlace op xa imm) (.store op fmt.val v.ownClusters (v.r.rv vs)) }
def taddvSpec (vs xa : Fin 32) (fmt : Fin 8) (imm : BitVec 13) : SlotSpec := storeOpSpec 0x08 vs xa fmt imm
def tmaxvSpec (vs xa : Fin 32) (fmt : Fin 8) (imm : BitVec 13) : SlotSpec := storeOpSpec 0x09 vs xa fmt imm
def tmulvSpec (vs xa : Fin 32) (fmt : Fin 8) (imm : BitVec 13) : SlotSpec := storeOpSpec 0x0A vs xa fmt imm
def texpsvSpec (vs xa : Fin 32) (fmt : Fin 8) (imm : BitVec 13) : SlotSpec := storeOpSpec 0x0B vs xa fmt imm

/-! ### Range commands (R263 to R265) -/

/-- R263. The alignment and size of what xb addresses; none when xb is a value. -/
def xbShape (op : Nat) : Option (Nat × Nat) :=
  if op = 0x0E ∨ op = 0x0F then some (4, 4) else if op = 0x10 then some (64, 1024) else none
/-- The core and local address of a scratchpad or window address. -/
def View.bankByte (v : View) (a : Nat) : Option (Nat × Nat) :=
  match spaceOf a with | .spad x => some (v.k, x) | .window k x => some (k, x) | _ => none
/-- R265. A pair array overlaps its range. -/
def View.pairOverlaps (v : View) (op n xa xb : Nat) : Bool :=
  op = 0x10 && (match v.bankByte xa, v.bankByte xb with
    | some p, some q => p.1 = q.1 && decide (q.2 < p.2 + 512 * n ∧ p.2 < q.2 + 1024)
    | _, _ => false)
/-- R200, R263, R265. The trap of a range command: an overlapping pair array first, as ILLEGAL_BUNDLE. -/
def View.rangeTrap (v : View) (op n xa xb : Nat) : Option Trap :=
  if v.pairOverlaps op n xa xb then some (illegal .e .badValue)
  else match v.trowelPlace xa 64 (512 * n) with
  | .error t => some t
  | .ok p =>
    match xbShape op with
    | none => none
    | some (al, len) =>
      match v.trowelPlace xb al len with
      | .error t => some t
      | .ok q => if p.1 ≠ q.1 ∨ p.2 / 65536 ≠ q.2 / 65536 then some (issueFault causeMisaligned 7 xb) else none
/-- R263. xb as the command uses it: a value, or a local address of the range's bank. -/
def rangeOperand (op : Nat) (xb : Word64) : Word64 := if (xbShape op).isSome then xb &&& 0x1FFFFF else xb
/-- R263. A range command. -/
def rangeSpec (op : Nat) (xb xa : Fin 32) (fmt : Fin 8) (n : Fin 128) : SlotSpec :=
  { trap := fun v => v.rangeTrap op (n.val + 1) (v.xn xa) (v.xn xb)
    block := fun v => v.queueFull (v.trowelPlace (v.xn xa) 64 (512 * (n.val + 1)))
    out := fun v => v.trowelOut (isWindow (v.xn xa)) (v.trowelPlace (v.xn xa) 64 (512 * (n.val + 1)))
      (.range op fmt.val (n.val + 1) (rangeOperand op (v.x xb))) }
def tscalSpec (xb xa : Fin 32) (fmt : Fin 8) (n : Fin 128) : SlotSpec := rangeSpec 0x0C xb xa fmt n
def tfillSpec (xb xa : Fin 32) (fmt : Fin 8) (n : Fin 128) : SlotSpec := rangeSpec 0x0D xb xa fmt n
def tsumrSpec (xb xa : Fin 32) (fmt : Fin 8) (n : Fin 128) : SlotSpec := rangeSpec 0x0E xb xa fmt n
def tmaxrSpec (xb xa : Fin 32) (fmt : Fin 8) (n : Fin 128) : SlotSpec := rangeSpec 0x0F xb xa fmt n
def texpnSpec (xb xa : Fin 32) (fmt : Fin 8) (n : Fin 128) : SlotSpec := rangeSpec 0x10 xb xa fmt n

/-! ### Atomics (R259, R266) -/

/-- R259. An atomic is sent when every earlier bundle has retired, and enters its queue in the next cycle. -/
def View.sendAtomic (v : View) (k x : Nat) (far : Bool) (op : TrowelOp) (s : State) (bid : Nat) : State :=
  let it : BankItem := { core := v.k, ctx := v.c, work := .trowel op x bid (arrivesOn v.hdr .e), issued := v.now, notBefore := s.sfc + 1,
                         cycle := 0, ends := none, far := far }
  s.modCtx v.k v.c fun y => { y with held := y.held ++
    [{ bid := bid, after := v.ctx.inflight.getLast?.map fun b => b.bid, notBefore := s.sfc, work := .atomic k (x / 65536) it }] }
/-- R266. An atomic: it lands through a landing slot. -/
def atomicSpec (op : Nat) (xd xa ln : Fin 32) (arr : BitVec 8) : SlotSpec :=
  { trap := fun v => placeTrap (v.trowelPlace (v.xn xa) 4 4)
    block := fun v => v.slotBusy ln || v.queueFull (v.trowelPlace (v.xn xa) 4 4)
    out := fun v => match v.trowelPlace (v.xn xa) 4 4 with
      | .error _ => {}
      | .ok (k, x) =>
        { loads := [{ lat := arr.toNat, dest := .atomic xd, ln := some ln, pieces := [], extra := [⟨0, 8, v.xn xa, none, none, none, 0, none⟩] }]
          conds := [.landed]
          state := v.sendAtomic k x (isWindow (v.xn xa)) (.atomic op ((v.x xd).truncate 32) ((v.x xd >>> 32).truncate 32)), arrive := .engine } }
def tfaaSpec (xd xa ln : Fin 32) (arr : BitVec 8) : SlotSpec := atomicSpec 0x11 xd xa ln arr
def tfaabSpec (xd xa ln : Fin 32) (arr : BitVec 8) : SlotSpec := atomicSpec 0x12 xd xa ln arr
def tincwSpec (xd xa ln : Fin 32) (arr : BitVec 8) : SlotSpec := atomicSpec 0x13 xd xa ln arr
def tdecwSpec (xd xa ln : Fin 32) (arr : BitVec 8) : SlotSpec := atomicSpec 0x14 xd xa ln arr
def tcasSpec (xd xa ln : Fin 32) (arr : BitVec 8) : SlotSpec := atomicSpec 0x15 xd xa ln arr
def txchgSpec (xd xa ln : Fin 32) (arr : BitVec 8) : SlotSpec := atomicSpec 0x16 xd xa ln arr

/-! ### TFENCE and BANKMODE (R257, R267) -/

/-- R267. The mask that SEL and imm16 give. -/
def tfenceMask (sel imm : Nat) : Nat := if sel = 0 then imm else if sel = 1 then imm * 2 ^ 16 else imm * 0x10001
def tfenceSpec (remote : Bool) (bsel : Fin 4) (imm : BitVec 16) : SlotSpec :=
  { out := fun _ => { conds := [.tfence (tfenceMask bsel.val imm.toNat) remote] } }
def bankmodeSpec (bank : Fin 32) (mode : Fin 4) (sen : Bool) (sem : Fin 16) : SlotSpec :=
  { trap := fun v => bankModeTrap v.core v.c bank.val
    out := fun v =>
      { eff := [.bankMode bank.val mode.val
          { core := v.k, ctx := v.c, sem := if sen then some sem else none, arrive := arrivesOn v.hdr .e } (illegalInfo v.sten 0x31 .badValue)]
        arrive := .engine } }

/-! ### Meanings by themselves: the slot as the only one of its bundle -/

/-- ENOP: R89. No operation. -/
def execEnop (s : State) : Out :=
  issueOne .e 0x00 none (enopSpec) s
/-- MODP: R90, R95, R140. As the only slot of its bundle it has no memory operation to modify, and the bundle traps; beside one it gives that operation
its modifiers (modpOf, View.mods). -/
def execModp (_ord _scope : Fin 8) (_pol : Fin 4) (_ac : Fin 8) (s : State) : Out :=
  issueOne .e 0x01 none modpAloneSpec s
/-- TADDV: R261. -/
def execTaddv (vs xa : Fin 32) (fmt : Fin 8) (imm : BitVec 13) (s : State) : Out :=
  issueOne .e 0x08 none (taddvSpec vs xa fmt imm) s
/-- TMAXV: R261. -/
def execTmaxv (vs xa : Fin 32) (fmt : Fin 8) (imm : BitVec 13) (s : State) : Out :=
  issueOne .e 0x09 none (tmaxvSpec vs xa fmt imm) s
/-- TMULV: R261. -/
def execTmulv (vs xa : Fin 32) (fmt : Fin 8) (imm : BitVec 13) (s : State) : Out :=
  issueOne .e 0x0A none (tmulvSpec vs xa fmt imm) s
/-- TEXPSV: R261, R262. -/
def execTexpsv (vs xa : Fin 32) (fmt : Fin 8) (imm : BitVec 13) (s : State) : Out :=
  issueOne .e 0x0B none (texpsvSpec vs xa fmt imm) s
/-- TSCAL: R263. Over n + 1 vectors. -/
def execTscal (xb xa : Fin 32) (fmt : Fin 8) (n : Fin 128) (s : State) : Out :=
  issueOne .e 0x0C none (tscalSpec xb xa fmt n) s
/-- TFILL: R263. Over n + 1 vectors. -/
def execTfill (xb xa : Fin 32) (fmt : Fin 8) (n : Fin 128) (s : State) : Out :=
  issueOne .e 0x0D none (tfillSpec xb xa fmt n) s
/-- TSUMR: R263. Over n + 1 vectors. -/
def execTsumr (xb xa : Fin 32) (fmt : Fin 8) (n : Fin 128) (s : State) : Out :=
  issueOne .e 0x0E none (tsumrSpec xb xa fmt n) s
/-- TMAXR: R263. Over n + 1 vectors. -/
def execTmaxr (xb xa : Fin 32) (fmt : Fin 8) (n : Fin 128) (s : State) : Out :=
  issueOne .e 0x0F none (tmaxrSpec xb xa fmt n) s
/-- TEXPN: R263. Over n + 1 vectors. -/
def execTexpn (xb xa : Fin 32) (fmt : Fin 8) (n : Fin 128) (s : State) : Out :=
  issueOne .e 0x10 none (texpnSpec xb xa fmt n) s
/-- TFAA: R266. -/
def execTfaa (xd xa ln : Fin 32) (arr : BitVec 8) (s : State) : Out :=
  issueOne .e 0x11 none (tfaaSpec xd xa ln arr) s
/-- TFAAB: R266. -/
def execTfaab (xd xa ln : Fin 32) (arr : BitVec 8) (s : State) : Out :=
  issueOne .e 0x12 none (tfaabSpec xd xa ln arr) s
/-- TINCW: R266. -/
def execTincw (xd xa ln : Fin 32) (arr : BitVec 8) (s : State) : Out :=
  issueOne .e 0x13 none (tincwSpec xd xa ln arr) s
/-- TDECW: R266. -/
def execTdecw (xd xa ln : Fin 32) (arr : BitVec 8) (s : State) : Out :=
  issueOne .e 0x14 none (tdecwSpec xd xa ln arr) s
/-- TCAS: R266. -/
def execTcas (xd xa ln : Fin 32) (arr : BitVec 8) (s : State) : Out :=
  issueOne .e 0x15 none (tcasSpec xd xa ln arr) s
/-- TXCHG: R266. -/
def execTxchg (xd xa ln : Fin 32) (arr : BitVec 8) (s : State) : Out :=
  issueOne .e 0x16 none (txchgSpec xd xa ln arr) s
/-- TFENCE: R267. -/
def execTfence (remote : Bool) (bsel : Fin 4) (imm : BitVec 16) (s : State) : Out :=
  issueOne .e 0x17 none (tfenceSpec remote bsel imm) s
/-- BANKMODE: R257. -/
def execBankmode (bank : Fin 32) (mode : Fin 4) (sen : Bool) (sem : Fin 16) (s : State) : Out :=
  issueOne .e 0x31 none (bankmodeSpec bank mode sen sem) s

end Sys2Proof.Machine
end

