-- ==== Sys2Proof/Machine/SkimOps.lean ====
section
/-! DEFINITION. SKU, SKR and COATW at issue (spec/18 R284 to R299). The cursors are in Cursor.lean. -/
namespace Sys2Proof.Machine

/-! ### Regions (R284, R300) -/

/-- R284. The region that holds a virtual address, with its number. -/
def State.regionAt (s : State) (va : Nat) : Option (Nat × Region) :=
  s.regions.find? fun e => decide (e.2.base ≤ va ∧ va < e.2.base + e.2.len)
/-- R284, R300. The slice that holds a region offset: rows of 2 KiB, or groups of 8 KiB in a step region. -/
def Region.sliceOf (g : Region) (off : Nat) : Nat := off / (if g.step then 8192 else 2048) % max 1 g.slices.length
/-- R274. The leaf of a global address as the bundle sees translation. -/
def View.leaf (v : View) (a : Nat) : Option Leaf :=
  match spaceOf a with | .global va => v.s.translateUnder (v.k / 128) v.xlroot.toNat va | _ => none

/-! ### Checks (R294) -/

/-- R294. The trap of data or a reply that does not lie inside one owned bank in SCRATCH or FIFO mode. -/
def View.ownedSpan (v : View) (a len : Nat) : Option Trap :=
  if a < 0x200000 ∧ a / 65536 = (a + len - 1) / 65536 ∧ v.core.usable v.c (a / 65536) = true then none
  else some (issueFault causeNotOwned 7 a)
/-- A MISALIGNED trap unless the address is a multiple of n. -/
def aligned7 (a n : Nat) : Option Trap := if a % n = 0 then none else some (issueFault causeMisaligned 7 a)
/-- R294, R340. The page fault of a region address: untranslatable, or a page of another module or one that `ok` refuses. -/
def View.pageTrap (v : View) (a : Nat) (ok : Leaf → Bool) : Option Trap :=
  match v.leaf a with
  | none => some (issueFault causeXlate 7 a)
  | some l => if ok l && !l.remote && (v.s.regionAt a).isSome then none else some (issueFault causeAttr 7 a)
/-- The first trap of several checks. -/
def firstOf (l : List (Option Trap)) : Option Trap := l.findSome? fun t => t
/-- R294. The commands of a core that await their replies. -/
def View.awaiting (v : View) : Nat :=
  let waits (c : SkimCmd) : Bool := c.core = v.k && (match c.op with | .sku _ _ _ => false | .lwm _ _ _ => false | _ => true)
  let unretired := [0, 1, 2, 3].foldl (fun n c => n + (v.core.ctx c).inflight.foldl (fun n i =>
    n + (i.eff.filter fun e => match e with | .skim _ _ c => waits c | .coatw _ _ => true | _ => false).length) 0) 0
  let there := v.s.regions.foldl (fun n e =>
    n + (e.2.coatw.filter fun w => w.cmd.core = v.k).length + (e.2.counted.filter fun w => w.cmd.core = v.k).length
      + e.2.slices.foldl (fun n sl => n + (sl.transit.filter waits).length + (sl.queue.filter waits).length) 0) 0
  unretired + there
/-- R287. The admission queue of a slice has no free entry. -/
def View.admissionFull (v : View) (r i : Nat) : Bool :=
  match AMap.get? v.s.regions r with
  | some g => match g.slices[i]? with
    | some sl => decide (4096 ≤ sl.reserved + sl.transit.length + sl.queue.length)
    | none => true
  | none => true
/-- R28, R287, R294. A command for a slice blocks: no admission entry, or 32 commands of the core await replies. -/
def View.skimBlocks (v : View) (a : Nat) (coord replies : Bool) : Bool :=
  (match v.s.regionAt a with
    | some (r, g) => v.admissionFull r (if coord then 0 else g.sliceOf (a - g.base))
    | none => false) || (replies && decide (32 ≤ v.awaiting))
/-- R245, R293. Whom a command tells. -/
def View.tells (v : View) (sen : Bool) (sem : Fin 16) : Notify :=
  { core := v.k, ctx := v.c, sem := if sen then some sem else none, arrive := arrivesOn v.hdr .e }
/-- R287. A command reserves its admission entry at issue, with its core's next sequence number for the slice, and goes on its way when
its bundle retires, 12 cycles after issue. -/
def View.skimOut (v : View) (a : Nat) (coord : Bool) (n : Notify) (op : SkimOp) : SlotOut :=
  match v.s.regionAt a with
  | none => {}
  | some (r, g) =>
    let i := if coord then 0 else g.sliceOf (a - g.base)
    let seq := match g.slices[i]? with | some sl => AMap.getD sl.seqs v.k 0 | none => 0
    let cmd : SkimCmd := { core := v.k, ctx := v.c, bid := v.ctx.nextBid, notify := n, off := a - g.base, op := op, seq := seq, retiredAt := 0, coat := none, order := 0, silent := false }
    let reserve (sl : Slice) : Slice := { sl with reserved := sl.reserved + 1, seqs := AMap.set sl.seqs v.k ((seq + 1) % 2 ^ 32) }
    { state := fun s _ => s.modSlice r i reserve,
      eff := [.skim r i cmd],
      conds := [.cycle (v.ctx.cycle + 12)], arrive := .engine }

/-! ### The instructions (R293, R295 to R297) -/

/-- R294, R303. The pages an SKU accepts: SKIM, writable, and on step pages only gadd to a w row. -/
def skuPage (op off : Nat) (l : Leaf) : Bool := l.skim && l.wr && (!l.step || (op = 2 && off / 2048 % 4 = 0))
def View.skuTrap (v : View) (a op : Nat) : Option Trap :=
  let off := match v.s.regionAt a with | some (_, g) => a - g.base | none => 0
  firstOf [aligned7 a 512, v.pageTrap a (skuPage op off)]
def skuSpec (vs xa : Fin 32) (op : Fin 4) (sen : Bool) (sem : Fin 16) : SlotSpec :=
  { trap := fun v => v.skuTrap (v.xn xa) op.val
    block := fun v => v.skimBlocks (v.xn xa) false false
    out := fun v => v.skimOut (v.xn xa) false (v.tells sen sem) (.sku op.val v.ownClusters (v.r.rv vs)) }
def View.skrTrap (v : View) (a b c : Nat) : Option Trap :=
  firstOf [aligned7 a 512, aligned7 b 64, aligned7 c 8, v.pageTrap a Leaf.skim, v.ownedSpan b 512, v.ownedSpan c 8]
def skrSpec (xb xa xc : Fin 32) (sen : Bool) (sem : Fin 16) : SlotSpec :=
  { trap := fun v => v.skrTrap (v.xn xa) (v.xn xb) (v.xn xc)
    block := fun v => v.skimBlocks (v.xn xa) false true
    out := fun v => v.skimOut (v.xn xa) false (v.tells sen sem) (.skr (v.xn xb) (v.xn xc)) }
def View.coatwTrap (v : View) (a c : Nat) : Option Trap := firstOf [aligned7 c 8, v.pageTrap a Leaf.skim, v.ownedSpan c 8]
/-- R297. A COATW takes no admission entry. -/
def coatwSpec (xa xb xc : Fin 32) (sen : Bool) (sem : Fin 16) : SlotSpec :=
  { trap := fun v => v.coatwTrap (v.xn xa) (v.xn xc)
    block := fun v => decide (32 ≤ v.awaiting)
    out := fun v => match v.s.regionAt (v.xn xa) with
      | none => {}
      | some (r, g) =>
        let cmd : SkimCmd := { core := v.k, ctx := v.c, bid := v.ctx.nextBid, notify := v.tells sen sem, off := v.xn xa - g.base, op := .skr 0 (v.xn xc), seq := 0, retiredAt := 0, coat := none, order := 0, silent := false }
        let wait : CoatWait := { target := v.xn xb % 2 ^ 32, reply := v.xn xc, cmd := cmd }
        { eff := [.coatw r wait], conds := [.cycle (v.ctx.cycle + 12)], arrive := .engine } }

/-! ### Meanings by themselves: the slot as the only one of its bundle -/

/-- SKU: R293, R295. -/
def execSku (vs xa : Fin 32) (op : Fin 4) (sen : Bool) (sem : Fin 16) (s : State) : Out :=
  issueOne .e 0x20 none (skuSpec vs xa op sen sem) s
/-- SKR: R293, R296. -/
def execSkr (xb xa xc : Fin 32) (sen : Bool) (sem : Fin 16) (s : State) : Out :=
  issueOne .e 0x21 none (skrSpec xb xa xc sen sem) s
/-- COATW: R293, R297. -/
def execCoatw (xa xb xc : Fin 32) (sen : Bool) (sem : Fin 16) (s : State) : Out :=
  issueOne .e 0x26 none (coatwSpec xa xb xc sen sem) s

end Sys2Proof.Machine
end

