-- ==== Sys2Proof/Machine/StepOps.lean ====
section
/-! DEFINITION. WLD, STEPC, LWM and STEPQ at issue (spec/19 R309 to R315). -/
namespace Sys2Proof.Machine

/-- R309, R310. Format number and bytes of a WLD's data. -/
def wldFmt (lfmt : Nat) : Nat := match lfmt with | 0 => 0 | 1 => 1 | 2 => 2 | 3 => 6 | 4 => 7 | _ => 8
def wldBytes (lfmt : Nat) : Nat := 512 * fmtBits (wldFmt lfmt) / 8
/-- R309. D, SEN and SEM of the control value. -/
def wldDest (w : Nat) : Nat := bits w 20 0
/-- R310. The checks of a WLD. -/
def View.wldTrap (v : View) (a w lfmt : Nat) : Option Trap :=
  firstOf [if 2 ^ 26 ≤ w then some (illegal .e .badValue) else none, aligned7 a 8192, aligned7 (wldDest w) 64, v.pageTrap a Leaf.step,
    v.ownedSpan (wldDest w) (wldBytes lfmt + 16)]
/-- R309. A WLD of step q. -/
def wldSpecOf (xa xb : Fin 32) (lfmt : Fin 8) (mode : Fin 4) (q : View → Int) : SlotSpec :=
  { trap := fun v => v.wldTrap (v.xn xa) (v.xn xb) lfmt.val
    block := fun v => v.skimBlocks (v.xn xa) false true
    out := fun v => v.skimOut (v.xn xa) false (v.tells (bitAt (v.xn xb) 25) (fin16 (bits (v.xn xb) 24 21)))
      (.wld (wldDest (v.xn xb)) lfmt.val mode.val (q v)) }
def wldRelSpec (xa xb : Fin 32) (lfmt : Fin 8) (mode : Fin 4) (off : BitVec 8) : SlotSpec :=
  wldSpecOf xa xb lfmt mode fun v => (v.r.stepref.toNat : Int) + off.toInt
def wldAbsSpec (xa xb : Fin 32) (lfmt : Fin 8) (mode : Fin 4) (xq : Fin 32) : SlotSpec :=
  wldSpecOf xa xb lfmt mode fun v => (bits (v.xn xq) 47 0 : Nat)
/-- R313. A step operand above 48 bits. -/
def stepBad (x : Nat) : Option Trap := if 2 ^ 48 ≤ x then some (illegal .e .badValue) else none
/-- R313. STEPC without a reply encodes xc = 0. -/
def View.stepcReply (v : View) (xc : Fin 32) : Option Nat := if xc.val = 0 then none else some (v.xn xc)
def View.stepcTrap (v : View) (xa xb xc : Fin 32) : Option Trap :=
  firstOf [stepBad (v.xn xb), (v.stepcReply xc).bind fun a => aligned7 a 8, v.pageTrap (v.xn xa) Leaf.step,
    (v.stepcReply xc).bind fun a => v.ownedSpan a 8]
def stepcSpec (xa xb xc : Fin 32) (sen : Bool) (sem : Fin 16) : SlotSpec :=
  { trap := fun v => v.stepcTrap xa xb xc
    block := fun v => v.skimBlocks (v.xn xa) true true
    out := fun v => v.skimOut (v.xn xa) true (v.tells sen sem) (.stepc (v.xn xb) (v.stepcReply xc)) }
/-- R314. DROP = 1 needs a zero step. -/
def View.lwmTrap (v : View) (xa xb : Fin 32) (drop : Bool) : Option Trap :=
  firstOf [stepBad (v.xn xb), if drop ∧ v.xn xb ≠ 0 then some (illegal .e .badValue) else none, v.pageTrap (v.xn xa) Leaf.step]
def lwmSpec (xa xb : Fin 32) (id : Fin 64) (drop : Bool) : SlotSpec :=
  { trap := fun v => v.lwmTrap xa xb drop
    block := fun v => v.skimBlocks (v.xn xa) true false
    out := fun v => v.skimOut (v.xn xa) true (v.tells false 0) (.lwm (v.xn xb) id.val drop) }
def stepqSpec (xa xb : Fin 32) (sen : Bool) (sem : Fin 16) : SlotSpec :=
  { trap := fun v => firstOf [aligned7 (v.xn xb) 32, v.pageTrap (v.xn xa) Leaf.step, v.ownedSpan (v.xn xb) 32]
    block := fun v => v.skimBlocks (v.xn xa) true true
    out := fun v => v.skimOut (v.xn xa) true (v.tells sen sem) (.stepq (v.xn xb)) }

/-! ### Meanings by themselves: the slot as the only one of its bundle -/

/-- WLD_REL: R309. Step STEPREF + off. -/
def execWldRel (xa xb : Fin 32) (lfmt : Fin 8) (mode : Fin 4) (off : BitVec 8) (s : State) : Out :=
  issueOne .e 0x22 none (wldRelSpec xa xb lfmt mode off) s
/-- WLD_ABS: R309. Step in xq. -/
def execWldAbs (xa xb : Fin 32) (lfmt : Fin 8) (mode : Fin 4) (xq : Fin 32) (s : State) : Out :=
  issueOne .e 0x22 none (wldAbsSpec xa xb lfmt mode xq) s
/-- STEPC: R313. -/
def execStepc (xa xb xc : Fin 32) (sen : Bool) (sem : Fin 16) (s : State) : Out :=
  issueOne .e 0x23 none (stepcSpec xa xb xc sen sem) s
/-- LWM: R313. -/
def execLwm (xa xb : Fin 32) (id : Fin 64) (drop : Bool) (s : State) : Out :=
  issueOne .e 0x24 none (lwmSpec xa xb id drop) s
/-- STEPQ: R313. -/
def execStepq (xa xb : Fin 32) (sen : Bool) (sem : Fin 16) (s : State) : Out :=
  issueOne .e 0x25 none (stepqSpec xa xb sen sem) s

end Sys2Proof.Machine
end

