-- ==== Sys2Proof/Machine/ChannelOps.lean ====
section
/-! DEFINITION. TTLOAD, TTGO, TTSTOP, CHPWR and SEND at issue (spec/20 R330, 21 R343). The channels are in Channels.lean, messages in
Links.lean. -/
namespace Sys2Proof.Machine

/-- R330. An address of a channel command lies in the scratchpad. -/
def nearAddr (a : Nat) : Option Trap := if 0x200000 ≤ a then some (issueFault causeXlate 7 a) else none
/-- R330. A bad control value. -/
def badControl (b : Bool) : Option Trap := if b then some (illegal .e .badValue) else none
/-- R330. A channel command goes on its way when its bundle retires, 12 cycles after issue. -/
def View.chanOut (v : View) (w reply : Nat) (n : Notify) (op : ChanOp) : SlotOut :=
  { eff := [.chan (bits w 8 0) { core := v.k, ctx := v.c, notify := n, reply := reply, op := op, silent := false, taken := false }]
    conds := [.cycle (v.ctx.cycle + 12)], arrive := .engine }
/-- R330. TTLOAD: channel in [8:0], count - 1 in [25:16]. -/
def ttCount (w : Nat) : Nat := bits w 25 16 + 1
def View.ttloadTrap (v : View) (a w c : Nat) : Option Trap :=
  firstOf [badControl (bits w 15 9 ≠ 0 || bits w 63 26 ≠ 0), aligned7 a 8, aligned7 c 8, nearAddr a, nearAddr c, v.ownedSpan a (8 * ttCount w), v.ownedSpan c 8]
def ttloadSpec (xa xb xc : Fin 32) (sen : Bool) (sem : Fin 16) : SlotSpec :=
  { trap := fun v => v.ttloadTrap (v.xn xa) (v.xn xb) (v.xn xc)
    out := fun v => v.chanOut (v.xn xb) (v.xn xc) (v.tells sen sem) (.load (v.xn xa) (ttCount (v.xn xb))) }
/-- R330. TTGO: channel in [8:0], START [16], ARM [17]. -/
def View.ttgoTrap (v : View) (a w c : Nat) : Option Trap :=
  firstOf [badControl (bits w 15 9 ≠ 0 || bits w 63 18 ≠ 0 || bits w 17 16 = 0), aligned7 a 32, aligned7 c 8, nearAddr a, nearAddr c, v.ownedSpan a 32, v.ownedSpan c 8]
def ttgoSpec (xa xb xc : Fin 32) (sen : Bool) (sem : Fin 16) : SlotSpec :=
  { trap := fun v => v.ttgoTrap (v.xn xa) (v.xn xb) (v.xn xc)
    out := fun v => v.chanOut (v.xn xb) (v.xn xc) (v.tells sen sem) (.go (v.xn xa) (bitAt (v.xn xb) 16) (bitAt (v.xn xb) 17)) }
def ttstopSpec (xb xc : Fin 32) (sen : Bool) (sem : Fin 16) : SlotSpec :=
  { trap := fun v => firstOf [badControl (decide (512 ≤ v.xn xb)), aligned7 (v.xn xc) 8, nearAddr (v.xn xc), v.ownedSpan (v.xn xc) 8]
    out := fun v => v.chanOut (v.xn xb) (v.xn xc) (v.tells sen sem) .stop }
/-- R330. CHPWR: channel in [8:0], state in [17:16]. -/
def View.chpwrTrap (v : View) (w c : Nat) : Option Trap :=
  firstOf [badControl (bits w 15 9 ≠ 0 || bits w 63 18 ≠ 0 || bits w 17 16 = 3), aligned7 c 8, nearAddr c, v.ownedSpan c 8]
def chpwrSpec (xb xc : Fin 32) (sen : Bool) (sem : Fin 16) : SlotSpec :=
  { trap := fun v => v.chpwrTrap (v.xn xb) (v.xn xc)
    out := fun v => v.chanOut (v.xn xb) (v.xn xc) (v.tells sen sem) (.power (bits (v.xn xb) 17 16)) }
/-- R343. The length of a message in bytes. -/
def sendLen (w : Nat) : Nat := 64 * (bits w 7 0 + 1)
/-- R343. The checks of a SEND. -/
def View.sendTrap (v : View) (a w c : Nat) : Option Trap :=
  firstOf [badControl (bits w 63 30 ≠ 0 || decide (103 < bits w 22 16) || (decide (96 ≤ bits w 22 16) && decide (7 < bits w 15 11))),
    aligned7 a 64, aligned7 c 8, v.ownedSpan a (sendLen w), v.ownedSpan c 8]
/-- R343. A message goes out when its bundle retires, 12 cycles after issue. -/
def sendSpec (xa xb xc : Fin 32) (sen : Bool) (sem : Fin 16) : SlotSpec :=
  { trap := fun v => v.sendTrap (v.xn xa) (v.xn xb) (v.xn xc)
    out := fun v =>
      let w := v.xn xb
      { eff := [.send (v.xn xa) (sendLen w)
          { id := 0, notify := v.tells sen sem, bytes := [], cls := bits w 10 8, core := 128 * bits w 24 23 + bits w 22 16,
            bank := bits w 15 11, remote := if bitAt w 29 then some (bits w 28 25) else none, reply := v.xn xc,
            readyAt := 0, silent := false }]
        conds := [.cycle (v.ctx.cycle + 12)], arrive := .engine } }

/-! ### Meanings by themselves: the slot as the only one of its bundle -/

/-- TTLOAD: R330. -/
def execTtload (xa xb xc : Fin 32) (sen : Bool) (sem : Fin 16) (s : State) : Out :=
  issueOne .e 0x28 none (ttloadSpec xa xb xc sen sem) s
/-- TTGO: R330. -/
def execTtgo (xa xb xc : Fin 32) (sen : Bool) (sem : Fin 16) (s : State) : Out :=
  issueOne .e 0x29 none (ttgoSpec xa xb xc sen sem) s
/-- TTSTOP: R330. -/
def execTtstop (xb xc : Fin 32) (sen : Bool) (sem : Fin 16) (s : State) : Out :=
  issueOne .e 0x2A none (ttstopSpec xb xc sen sem) s
/-- CHPWR: R330. -/
def execChpwr (xb xc : Fin 32) (sen : Bool) (sem : Fin 16) (s : State) : Out :=
  issueOne .e 0x2B none (chpwrSpec xb xc sen sem) s
/-- SEND: R343. -/
def execSend (xa xb xc : Fin 32) (sen : Bool) (sem : Fin 16) (s : State) : Out :=
  issueOne .e 0x30 none (sendSpec xa xb xc sen sem) s

end Sys2Proof.Machine
end

