-- ==== Sys2Proof/Machine/Scalar.lean ====
section
/-! DEFINITION. The A and B slots (spec/06): integer arithmetic and logic, shifts, comparisons, predicate logic, and the scalar loads
and stores of slot B. Every operand is read at issue, results land after the latencies of spec/02 R32. -/
namespace Sys2Proof.Machine

/-- R97. An operation that writes xd after a latency. -/
def aluSpec (lat : Nat) (xd : Fin 32) (f : View → Word64) : SlotSpec :=
  { out := fun v => { res := [(lat, .x xd (f v))] } }
/-- R103, R105. An operation that writes a predicate after one cycle. -/
def predSpec (pd : Fin 8) (f : View → Bool) : SlotSpec :=
  { out := fun v => { res := [(1, .p pd (f v))] } }

/-! ### Results (R98 to R102) -/

/-- R98. A left shift by an unsigned count; 0 from 64 on. -/
def shl64 (a : Word64) (n : Nat) : Word64 := if 64 ≤ n then 0 else a <<< n
/-- R98. A logical right shift; 0 from 64 on. -/
def shr64 (a : Word64) (n : Nat) : Word64 := if 64 ≤ n then 0 else a >>> n
/-- R98. An arithmetic right shift; the sign from 64 on. -/
def sra64 (a : Word64) (n : Nat) : Word64 := wrap64 (a.toInt / (2 : Int) ^ min n 64)
/-- R98. The high half of the signed product. -/
def mulh64 (a b : Word64) : Word64 := wrap64 (a.toInt * b.toInt / (2 : Int) ^ 64)
/-- R98. The high half of the unsigned product. -/
def mulhn64 (a b : Word64) : Word64 := BitVec.ofNat 64 (a.toNat * b.toNat / 2 ^ 64)
/-- R99. The signed quotient. -/
def div64 (a b : Word64) : Word64 :=
  if b = 0 then 0xFFFFFFFFFFFFFFFF
  else if a.toInt = -(2 : Int) ^ 63 ∧ b.toInt = -1 then a
  else wrap64 (Int.tdiv a.toInt b.toInt)
/-- R99. The signed remainder, with the sign of the dividend. -/
def rem64 (a b : Word64) : Word64 :=
  if b = 0 then a
  else if a.toInt = -(2 : Int) ^ 63 ∧ b.toInt = -1 then 0
  else wrap64 (a.toInt - Int.tdiv a.toInt b.toInt * b.toInt)
/-- R102. Leading zeros. -/
def clz64 (a : Word64) : Word64 := if a = 0 then 64 else BitVec.ofNat 64 (63 - Nat.log2 a.toNat)
/-- R102. One bits. -/
def popc64 (a : Word64) : Word64 := BitVec.ofNat 64 ((List.range 64).filter fun i => a.getLsbD i).length

/-! ### Register-register operations (R98, R99, R102 to R105) -/

def addSpec (_sl : Lane2) (xd xa xb : Fin 32) : SlotSpec := aluSpec 1 xd fun v => v.x xa + v.x xb
def subSpec (_sl : Lane2) (xd xa xb : Fin 32) : SlotSpec := aluSpec 1 xd fun v => v.x xa - v.x xb
def andSpec (_sl : Lane2) (xd xa xb : Fin 32) : SlotSpec := aluSpec 1 xd fun v => v.x xa &&& v.x xb
def orSpec (_sl : Lane2) (xd xa xb : Fin 32) : SlotSpec := aluSpec 1 xd fun v => v.x xa ||| v.x xb
def xorSpec (_sl : Lane2) (xd xa xb : Fin 32) : SlotSpec := aluSpec 1 xd fun v => v.x xa ^^^ v.x xb
def shlSpec (_sl : Lane2) (xd xa xb : Fin 32) : SlotSpec := aluSpec 1 xd fun v => shl64 (v.x xa) (v.xn xb)
def shrSpec (_sl : Lane2) (xd xa xb : Fin 32) : SlotSpec := aluSpec 1 xd fun v => shr64 (v.x xa) (v.xn xb)
def sraSpec (_sl : Lane2) (xd xa xb : Fin 32) : SlotSpec := aluSpec 1 xd fun v => sra64 (v.x xa) (v.xn xb)
def mulSpec (_sl : Lane2) (xd xa xb : Fin 32) : SlotSpec := aluSpec 3 xd fun v => v.x xa * v.x xb
def mulhSpec (_sl : Lane2) (xd xa xb : Fin 32) : SlotSpec := aluSpec 3 xd fun v => mulh64 (v.x xa) (v.x xb)
def mulhnSpec (_sl : Lane2) (xd xa xb : Fin 32) : SlotSpec := aluSpec 3 xd fun v => mulhn64 (v.x xa) (v.x xb)
def minSpec (_sl : Lane2) (xd xa xb : Fin 32) : SlotSpec :=
  aluSpec 1 xd fun v => if (v.x xb).toInt < (v.x xa).toInt then v.x xb else v.x xa
def maxSpec (_sl : Lane2) (xd xa xb : Fin 32) : SlotSpec :=
  aluSpec 1 xd fun v => if (v.x xa).toInt < (v.x xb).toInt then v.x xb else v.x xa
def minnSpec (_sl : Lane2) (xd xa xb : Fin 32) : SlotSpec :=
  aluSpec 1 xd fun v => if v.xn xb < v.xn xa then v.x xb else v.x xa
def maxnSpec (_sl : Lane2) (xd xa xb : Fin 32) : SlotSpec :=
  aluSpec 1 xd fun v => if v.xn xa < v.xn xb then v.x xb else v.x xa
def cmpSpec (_sl : Lane2) (pd : Fin 8) (xa xb : Fin 32) (cond : Fin 8) : SlotSpec :=
  predSpec pd fun v => cond64 cond.val (v.x xa) (v.x xb)
/-- R104. The selecting predicate is read at issue. -/
def selSpec (_sl : Lane2) (xd xa xb : Fin 32) (ps : Fin 8) (inv : Bool) : SlotSpec :=
  aluSpec 1 xd fun v => if v.r.rp ps != inv then v.x xa else v.x xb
def clzSpec (_sl : Lane2) (xd xa : Fin 32) : SlotSpec := aluSpec 1 xd fun v => clz64 (v.x xa)
def popcSpec (_sl : Lane2) (xd xa : Fin 32) : SlotSpec := aluSpec 1 xd fun v => popc64 (v.x xa)
def divSpec (_sl : Lane2) (xd xa xb : Fin 32) : SlotSpec := aluSpec 20 xd fun v => div64 (v.x xa) (v.x xb)
def remSpec (_sl : Lane2) (xd xa xb : Fin 32) : SlotSpec := aluSpec 20 xd fun v => rem64 (v.x xa) (v.x xb)

/-! ### Immediate operations (R100, R101, R103) -/

def addiSpec (_sl : Lane2) (xd xa : Fin 32) (imm : BitVec 12) : SlotSpec := aluSpec 1 xd fun v => v.x xa + imm12 imm
def andiSpec (_sl : Lane2) (xd xa : Fin 32) (imm : BitVec 12) : SlotSpec := aluSpec 1 xd fun v => v.x xa &&& imm12 imm
def oriSpec (_sl : Lane2) (xd xa : Fin 32) (imm : BitVec 12) : SlotSpec := aluSpec 1 xd fun v => v.x xa ||| imm12 imm
def xoriSpec (_sl : Lane2) (xd xa : Fin 32) (imm : BitVec 12) : SlotSpec := aluSpec 1 xd fun v => v.x xa ^^^ imm12 imm
def shliSpec (_sl : Lane2) (xd xa : Fin 32) (n : Fin 64) : SlotSpec := aluSpec 1 xd fun v => shl64 (v.x xa) n.val
def shriSpec (_sl : Lane2) (xd xa : Fin 32) (n : Fin 64) : SlotSpec := aluSpec 1 xd fun v => shr64 (v.x xa) n.val
def sraiSpec (_sl : Lane2) (xd xa : Fin 32) (n : Fin 64) : SlotSpec := aluSpec 1 xd fun v => sra64 (v.x xa) n.val
def cmpiSpec (_sl : Lane2) (pd : Fin 8) (xa : Fin 32) (cond : Fin 8) (imm : BitVec 9) : SlotSpec :=
  predSpec pd fun v => cond64 cond.val (v.x xa) (imm9 imm)
def luiSpec (_sl : Lane2) (xd : Fin 32) (imm : BitVec 17) : SlotSpec := aluSpec 1 xd fun _ => imm17 imm
/-- R105. -/
def plogSpec (_sl : Lane2) (pd pa pb : Fin 8) (table : BitVec 4) : SlotSpec :=
  predSpec pd fun v => truthTable table (v.r.rp pa) (v.r.rp pb)

/-! ### Scalar memory (R107 to R110) -/

/-- R108, R109, R139. A scalar access of n bytes: aligned, and its place. -/
def View.scalarPlace (v : View) (ea n : Nat) (write : Bool) : Except Trap Where :=
  if ea % n ≠ 0 then .error (issueFault causeMisaligned 3 ea)
  else match v.locate 6 ea write with
    | .ok w => .ok w
    | .error f => .error (f.trap 3 ea)
/-- R107 to R110. A load of n bytes: 4 cycles from the scratchpad, 12 from elsewhere, with MEMDEF's ordering; a bundle with a global
access retires when it has landed. -/
def scalarLoad (n : Nat) (signed : Bool) (xd xa : Fin 32) (imm : BitVec 12) : SlotSpec :=
  { trap := fun v => match v.scalarPlace (v.ea12 xa imm) n false with
      | .error t => some t | .ok w => v.nearEcc w n (v.ea12 xa imm) 3
    out := fun v => match v.scalarPlace (v.ea12 xa imm) n false with
      | .error _ => {}
      | .ok w =>
        let m := v.scalarMods
        { loads := [{ lat := if w.far then 12 else 4, dest := .scalar xd n signed, pieces := [{ off := 0, len := n, ea := v.ea12 xa imm, loc := w }],
                      policy := m.policy, ac := m.ac }]
          eff := releasePart m v.k (some w)
          conds := (if w.far then [.landed] else []) ++ acquirePart m v.k (some w) } }
/-- R107 to R110. A store of the low n bytes of the xd register. R110 gives only a bound for the checks of a global access, the landing cycle or
issue + 12: they end there, or before that when they are waited for.
(Assumption log 99: DEDUCED.) -/
def scalarStore (n : Nat) (xs xa : Fin 32) (imm : BitVec 12) : SlotSpec :=
  { trap := fun v => match v.scalarPlace (v.ea12 xa imm) n true with | .error t => some t | .ok _ => none
    out := fun v => match v.scalarPlace (v.ea12 xa imm) n true with
      | .error _ => {}
      | .ok w =>
        let m := v.scalarMods
        let parts : List StorePart := [(0, v.ea12 xa imm, w, leBytes n (v.xn xs))]
        { eff := releasePart m v.k (some w) ++ storeEffects v m 3 0 parts
          state := fun s bid => s.raceLoads v.k v.c bid m.ac (physPieces parts)
          conds := (if w.far then [.cycle (v.ctx.cycle + 12)] else []) ++ acquirePart m v.k (some w) } }

def ldsDSpec (xd xa : Fin 32) (imm : BitVec 12) : SlotSpec := scalarLoad 8 false xd xa imm
def ldsWSpec (xd xa : Fin 32) (imm : BitVec 12) : SlotSpec := scalarLoad 4 true xd xa imm
def ldsWnSpec (xd xa : Fin 32) (imm : BitVec 12) : SlotSpec := scalarLoad 4 false xd xa imm
def ldsHSpec (xd xa : Fin 32) (imm : BitVec 12) : SlotSpec := scalarLoad 2 true xd xa imm
def ldsHnSpec (xd xa : Fin 32) (imm : BitVec 12) : SlotSpec := scalarLoad 2 false xd xa imm
def ldsBSpec (xd xa : Fin 32) (imm : BitVec 12) : SlotSpec := scalarLoad 1 true xd xa imm
def ldsBnSpec (xd xa : Fin 32) (imm : BitVec 12) : SlotSpec := scalarLoad 1 false xd xa imm
def stsDSpec (xd xa : Fin 32) (imm : BitVec 12) : SlotSpec := scalarStore 8 xd xa imm
def stsWSpec (xd xa : Fin 32) (imm : BitVec 12) : SlotSpec := scalarStore 4 xd xa imm
def stsHSpec (xd xa : Fin 32) (imm : BitVec 12) : SlotSpec := scalarStore 2 xd xa imm
def stsBSpec (xd xa : Fin 32) (imm : BitVec 12) : SlotSpec := scalarStore 1 xd xa imm

/-! ### Meanings by themselves: the slot as the only one of its bundle -/

/-- ADD: R98. -/
def execAdd (sl : Lane2) (xd xa xb : Fin 32) (s : State) : Out :=
  issueOne (laneSlot sl) 0x01 none (addSpec sl xd xa xb) s
/-- SUB: R98. -/
def execSub (sl : Lane2) (xd xa xb : Fin 32) (s : State) : Out :=
  issueOne (laneSlot sl) 0x02 none (subSpec sl xd xa xb) s
/-- AND: R98. -/
def execAnd (sl : Lane2) (xd xa xb : Fin 32) (s : State) : Out :=
  issueOne (laneSlot sl) 0x03 none (andSpec sl xd xa xb) s
/-- OR: R98. -/
def execOr (sl : Lane2) (xd xa xb : Fin 32) (s : State) : Out :=
  issueOne (laneSlot sl) 0x04 none (orSpec sl xd xa xb) s
/-- XOR: R98. -/
def execXor (sl : Lane2) (xd xa xb : Fin 32) (s : State) : Out :=
  issueOne (laneSlot sl) 0x05 none (xorSpec sl xd xa xb) s
/-- SHL: R98. -/
def execShl (sl : Lane2) (xd xa xb : Fin 32) (s : State) : Out :=
  issueOne (laneSlot sl) 0x06 none (shlSpec sl xd xa xb) s
/-- SHR: R98. -/
def execShr (sl : Lane2) (xd xa xb : Fin 32) (s : State) : Out :=
  issueOne (laneSlot sl) 0x07 none (shrSpec sl xd xa xb) s
/-- SRA: R98. -/
def execSra (sl : Lane2) (xd xa xb : Fin 32) (s : State) : Out :=
  issueOne (laneSlot sl) 0x08 none (sraSpec sl xd xa xb) s
/-- MUL: R98. -/
def execMul (sl : Lane2) (xd xa xb : Fin 32) (s : State) : Out :=
  issueOne (laneSlot sl) 0x09 none (mulSpec sl xd xa xb) s
/-- MULH: R98. -/
def execMulh (sl : Lane2) (xd xa xb : Fin 32) (s : State) : Out :=
  issueOne (laneSlot sl) 0x0A none (mulhSpec sl xd xa xb) s
/-- MULHN: R98. -/
def execMulhn (sl : Lane2) (xd xa xb : Fin 32) (s : State) : Out :=
  issueOne (laneSlot sl) 0x0B none (mulhnSpec sl xd xa xb) s
/-- MIN: R98. -/
def execMin (sl : Lane2) (xd xa xb : Fin 32) (s : State) : Out :=
  issueOne (laneSlot sl) 0x0C none (minSpec sl xd xa xb) s
/-- MAX: R98. -/
def execMax (sl : Lane2) (xd xa xb : Fin 32) (s : State) : Out :=
  issueOne (laneSlot sl) 0x0D none (maxSpec sl xd xa xb) s
/-- MINN: R98. -/
def execMinn (sl : Lane2) (xd xa xb : Fin 32) (s : State) : Out :=
  issueOne (laneSlot sl) 0x0E none (minnSpec sl xd xa xb) s
/-- MAXN: R98. -/
def execMaxn (sl : Lane2) (xd xa xb : Fin 32) (s : State) : Out :=
  issueOne (laneSlot sl) 0x0F none (maxnSpec sl xd xa xb) s
/-- CMP: R103. Compare two registers into a predicate. -/
def execCmp (sl : Lane2) (pd : Fin 8) (xa xb : Fin 32) (cond : Fin 8) (s : State) : Out :=
  issueOne (laneSlot sl) 0x10 none (cmpSpec sl pd xa xb cond) s
/-- SEL: R104. Select by a predicate. -/
def execSel (sl : Lane2) (xd xa xb : Fin 32) (ps : Fin 8) (inv : Bool) (s : State) : Out :=
  issueOne (laneSlot sl) 0x11 none (selSpec sl xd xa xb ps inv) s
/-- CLZ: R102. Count leading zeros. -/
def execClz (sl : Lane2) (xd xa : Fin 32) (s : State) : Out :=
  issueOne (laneSlot sl) 0x12 none (clzSpec sl xd xa) s
/-- POPC: R102. Count ones. -/
def execPopc (sl : Lane2) (xd xa : Fin 32) (s : State) : Out :=
  issueOne (laneSlot sl) 0x13 none (popcSpec sl xd xa) s
/-- DIV: R99. Signed quotient. -/
def execDiv (sl : Lane2) (xd xa xb : Fin 32) (s : State) : Out :=
  issueOne (laneSlot sl) 0x14 none (divSpec sl xd xa xb) s
/-- REM: R99. Signed remainder. -/
def execRem (sl : Lane2) (xd xa xb : Fin 32) (s : State) : Out :=
  issueOne (laneSlot sl) 0x15 none (remSpec sl xd xa xb) s
/-- ADDI: R100. -/
def execAddi (sl : Lane2) (xd xa : Fin 32) (imm : BitVec 12) (s : State) : Out :=
  issueOne (laneSlot sl) 0x18 none (addiSpec sl xd xa imm) s
/-- ANDI: R100. -/
def execAndi (sl : Lane2) (xd xa : Fin 32) (imm : BitVec 12) (s : State) : Out :=
  issueOne (laneSlot sl) 0x19 none (andiSpec sl xd xa imm) s
/-- ORI: R100. -/
def execOri (sl : Lane2) (xd xa : Fin 32) (imm : BitVec 12) (s : State) : Out :=
  issueOne (laneSlot sl) 0x1A none (oriSpec sl xd xa imm) s
/-- XORI: R100. -/
def execXori (sl : Lane2) (xd xa : Fin 32) (imm : BitVec 12) (s : State) : Out :=
  issueOne (laneSlot sl) 0x1B none (xoriSpec sl xd xa imm) s
/-- SHLI: R100. -/
def execShli (sl : Lane2) (xd xa : Fin 32) (n : Fin 64) (s : State) : Out :=
  issueOne (laneSlot sl) 0x1C none (shliSpec sl xd xa n) s
/-- SHRI: R100. -/
def execShri (sl : Lane2) (xd xa : Fin 32) (n : Fin 64) (s : State) : Out :=
  issueOne (laneSlot sl) 0x1D none (shriSpec sl xd xa n) s
/-- SRAI: R100. -/
def execSrai (sl : Lane2) (xd xa : Fin 32) (n : Fin 64) (s : State) : Out :=
  issueOne (laneSlot sl) 0x1E none (sraiSpec sl xd xa n) s
/-- CMPI: R103. Compare with an immediate. -/
def execCmpi (sl : Lane2) (pd : Fin 8) (xa : Fin 32) (cond : Fin 8) (imm : BitVec 9) (s : State) : Out :=
  issueOne (laneSlot sl) 0x1F none (cmpiSpec sl pd xa cond imm) s
/-- LUI: R101. Load upper immediate. -/
def execLui (sl : Lane2) (xd : Fin 32) (imm : BitVec 17) (s : State) : Out :=
  issueOne (laneSlot sl) 0x20 none (luiSpec sl xd imm) s
/-- PLOG: R105. Predicate logic by truth table. -/
def execPlog (sl : Lane2) (pd pa pb : Fin 8) (table : BitVec 4) (s : State) : Out :=
  issueOne (laneSlot sl) 0x21 none (plogSpec sl pd pa pb table) s
/-- LDS_D: R107. Scalar load. -/
def execLdsD (xd xa : Fin 32) (imm : BitVec 12) (s : State) : Out :=
  issueOne .b 0x30 none (ldsDSpec xd xa imm) s
/-- LDS_W: R107. Scalar load. -/
def execLdsW (xd xa : Fin 32) (imm : BitVec 12) (s : State) : Out :=
  issueOne .b 0x31 none (ldsWSpec xd xa imm) s
/-- LDS_WN: R107. Scalar load. -/
def execLdsWn (xd xa : Fin 32) (imm : BitVec 12) (s : State) : Out :=
  issueOne .b 0x32 none (ldsWnSpec xd xa imm) s
/-- LDS_H: R107. Scalar load. -/
def execLdsH (xd xa : Fin 32) (imm : BitVec 12) (s : State) : Out :=
  issueOne .b 0x33 none (ldsHSpec xd xa imm) s
/-- LDS_HN: R107. Scalar load. -/
def execLdsHn (xd xa : Fin 32) (imm : BitVec 12) (s : State) : Out :=
  issueOne .b 0x34 none (ldsHnSpec xd xa imm) s
/-- LDS_B: R107. Scalar load. -/
def execLdsB (xd xa : Fin 32) (imm : BitVec 12) (s : State) : Out :=
  issueOne .b 0x35 none (ldsBSpec xd xa imm) s
/-- LDS_BN: R107. Scalar load. -/
def execLdsBn (xd xa : Fin 32) (imm : BitVec 12) (s : State) : Out :=
  issueOne .b 0x36 none (ldsBnSpec xd xa imm) s
/-- STS_D: R107. Scalar store; xd is the data source. -/
def execStsD (xd xa : Fin 32) (imm : BitVec 12) (s : State) : Out :=
  issueOne .b 0x37 none (stsDSpec xd xa imm) s
/-- STS_W: R107. Scalar store; xd is the data source. -/
def execStsW (xd xa : Fin 32) (imm : BitVec 12) (s : State) : Out :=
  issueOne .b 0x38 none (stsWSpec xd xa imm) s
/-- STS_H: R107. Scalar store; xd is the data source. -/
def execStsH (xd xa : Fin 32) (imm : BitVec 12) (s : State) : Out :=
  issueOne .b 0x39 none (stsHSpec xd xa imm) s
/-- STS_B: R107. Scalar store; xd is the data source. -/
def execStsB (xd xa : Fin 32) (imm : BitVec 12) (s : State) : Out :=
  issueOne .b 0x3A none (stsBSpec xd xa imm) s

end Sys2Proof.Machine
end

