-- ==== Sys2Proof/Machine/Bundle.lean ====
section
/-! DEFINITION. The steps that issue bundles: which meaning each slot instruction has, fetching and checking a bundle, the stencil word,
and one issue cycle of a core (spec/02 R27 to R31, 05 R80 to R95, 23 R371). -/
namespace Sys2Proof.Machine

/-- The meaning of a slot instruction; the steps that no core fetches have none. -/
def slotSpec : Instr → SlotSpec
  | .nop => nopSpec
  | .br g disp => brSpec g disp
  | .brx g xa => brxSpec g xa
  | .call g disp => callSpec g disp
  | .ret g => retSpec g
  | .loop g lvl disp => loopSpec g lvl disp
  | .lbrk g lvl disp => lbrkSpec g lvl disp
  | .waits g sm cnt => waitsSpec g sm cnt
  | .sigs g sm cnt => sigsSpec g sm cnt
  | .waitc g xm xc => waitcSpec g xm xc
  | .arrive g bk => arriveSpec g bk
  | .bwait g bk => bwaitSpec g bk
  | .fence g scope => fenceSpec g scope
  | .acq g xa scope => acqSpec g xa scope
  | .rel g xa scope => relSpec g xa scope
  | .bankacq g xa => bankacqSpec g xa
  | .bankrel g xa => bankrelSpec g xa
  | .launch g xd xa => launchSpec g xd xa
  | .cancel g xd xa => cancelSpec g xd xa
  | .sleep g => sleepSpec g
  | .armh g xa k => armhSpec g xa k
  | .yield g => yieldSpec g
  | .trap g n => trapSpec g n
  | .rett g => rettSpec g
  | .csrr g csr xd => csrrSpec g csr xd
  | .stenld g xn xa => stenldSpec g xn xa
  | .frame g xa len => frameSpec g xa len
  | .brk g tag => brkSpec g tag
  | .endTask g => endTaskSpec g
  | .sevt g ev => sevtSpec g ev
  | .add sl xd xa xb => addSpec sl xd xa xb
  | .sub sl xd xa xb => subSpec sl xd xa xb
  | .and sl xd xa xb => andSpec sl xd xa xb
  | .or sl xd xa xb => orSpec sl xd xa xb
  | .xor sl xd xa xb => xorSpec sl xd xa xb
  | .shl sl xd xa xb => shlSpec sl xd xa xb
  | .shr sl xd xa xb => shrSpec sl xd xa xb
  | .sra sl xd xa xb => sraSpec sl xd xa xb
  | .mul sl xd xa xb => mulSpec sl xd xa xb
  | .mulh sl xd xa xb => mulhSpec sl xd xa xb
  | .mulhn sl xd xa xb => mulhnSpec sl xd xa xb
  | .min sl xd xa xb => minSpec sl xd xa xb
  | .max sl xd xa xb => maxSpec sl xd xa xb
  | .minn sl xd xa xb => minnSpec sl xd xa xb
  | .maxn sl xd xa xb => maxnSpec sl xd xa xb
  | .cmp sl pd xa xb cond => cmpSpec sl pd xa xb cond
  | .sel sl xd xa xb ps inv => selSpec sl xd xa xb ps inv
  | .clz sl xd xa => clzSpec sl xd xa
  | .popc sl xd xa => popcSpec sl xd xa
  | .div sl xd xa xb => divSpec sl xd xa xb
  | .rem sl xd xa xb => remSpec sl xd xa xb
  | .addi sl xd xa imm => addiSpec sl xd xa imm
  | .andi sl xd xa imm => andiSpec sl xd xa imm
  | .ori sl xd xa imm => oriSpec sl xd xa imm
  | .xori sl xd xa imm => xoriSpec sl xd xa imm
  | .shli sl xd xa n => shliSpec sl xd xa n
  | .shri sl xd xa n => shriSpec sl xd xa n
  | .srai sl xd xa n => sraiSpec sl xd xa n
  | .cmpi sl pd xa cond imm => cmpiSpec sl pd xa cond imm
  | .lui sl xd imm => luiSpec sl xd imm
  | .plog sl pd pa pb table => plogSpec sl pd pa pb table
  | .ldsD xd xa imm => ldsDSpec xd xa imm
  | .ldsW xd xa imm => ldsWSpec xd xa imm
  | .ldsWn xd xa imm => ldsWnSpec xd xa imm
  | .ldsH xd xa imm => ldsHSpec xd xa imm
  | .ldsHn xd xa imm => ldsHnSpec xd xa imm
  | .ldsB xd xa imm => ldsBSpec xd xa imm
  | .ldsBn xd xa imm => ldsBnSpec xd xa imm
  | .stsD xd xa imm => stsDSpec xd xa imm
  | .stsW xd xa imm => stsWSpec xd xa imm
  | .stsH xd xa imm => stsHSpec xd xa imm
  | .stsB xd xa imm => stsBSpec xd xa imm
  | .vnop => vnopSpec
  | .vadd g fmt vd va vb rm sat => vaddSpec g fmt vd va vb rm sat
  | .vsub g fmt vd va vb rm sat => vsubSpec g fmt vd va vb rm sat
  | .vmul g fmt vd va vb rm sat => vmulSpec g fmt vd va vb rm sat
  | .vfma g fmt vd va vb vc rm sat => vfmaSpec g fmt vd va vb vc rm sat
  | .vfms g fmt vd va vb vc rm sat => vfmsSpec g fmt vd va vb vc rm sat
  | .vfnma g fmt vd va vb vc rm sat => vfnmaSpec g fmt vd va vb vc rm sat
  | .vmin g fmt vd va vb => vminSpec g fmt vd va vb
  | .vmax g fmt vd va vb => vmaxSpec g fmt vd va vb
  | .vabs g fmt vd va => vabsSpec g fmt vd va
  | .vneg g fmt vd va => vnegSpec g fmt vd va
  | .vcmp g fmt pd va vb cond part => vcmpSpec g fmt pd va vb cond part
  | .vsel g vd va vb ps inv => vselSpec g vd va vb ps inv
  | .vdiv g fmt vd va vb rm sat => vdivSpec g fmt vd va vb rm sat
  | .vsqrt g fmt vd va rm sat => vsqrtSpec g fmt vd va rm sat
  | .vrcp g fmt vd va rm sat => vrcpSpec g fmt vd va rm sat
  | .vrsq g fmt vd va rm sat => vrsqSpec g fmt vd va rm sat
  | .vexp2 g fmt vd va rm sat => vexp2Spec g fmt vd va rm sat
  | .vlog2 g fmt vd va rm sat => vlog2Spec g fmt vd va rm sat
  | .vcvt g fmt vd va vc rm sat src part => vcvtSpec g fmt vd va vc rm sat src part
  | .vscl g fmt vd va vb rm sat byReg ks => vsclSpec g fmt vd va vb rm sat byReg ks
  | .vrint g fmt vd va rm => vrintSpec g fmt vd va rm
  | .viadd g fmt vd va vb sat => viaddSpec g fmt vd va vb sat
  | .visub g fmt vd va vb sat => visubSpec g fmt vd va vb sat
  | .vimul g fmt vd va vb sat => vimulSpec g fmt vd va vb sat
  | .vand g vd va vb => vandSpec g vd va vb
  | .vor g vd va vb => vorSpec g vd va vb
  | .vxor g vd va vb => vxorSpec g vd va vb
  | .vshl g fmt vd va vb byImm n => vshlSpec g fmt vd va vb byImm n
  | .vshr g fmt vd va vb byImm n => vshrSpec g fmt vd va vb byImm n
  | .vsra g fmt vd va vb byImm n => vsraSpec g fmt vd va vb byImm n
  | .vimin g fmt vd va vb => viminSpec g fmt vd va vb
  | .vimax g fmt vd va vb => vimaxSpec g fmt vd va vb
  | .vicmp g fmt pd va vb cond part => vicmpSpec g fmt pd va vb cond part
  | .vmov g vd va => vmovSpec g vd va
  | .vbcst g vd va n => vbcstSpec g vd va n
  | .vlane g vd va n => vlaneSpec g vd va n
  | .vget g vd va vb => vgetSpec g vd va vb
  | .viota g vd base => viotaSpec g vd base
  | .vshuf g vd va vb vc => vshufSpec g vd va vb vc
  | .vxcl g vd va k => vxclSpec g vd va k
  | .vreda g fmt vd va rm sat => vredaSpec g fmt vd va rm sat
  | .vredx g fmt vd va => vredxSpec g fmt vd va
  | .vpack g fmt vd va vb part => vpackSpec g fmt vd va vb part
  | .vunpk g fmt vd va part zx => vunpkSpec g fmt vd va part zx
  | .vpcnt g vd va => vpcntSpec g vd va
  | .vplog g pd pa pb table => vplogSpec g pd pa pb table
  | .mnop => mnopSpec
  | .mcall idx => mcallSpec idx
  | .mpset n xa => mpsetSpec n xa
  | .mfeed n => mfeedSpec n
  | .moset n xa inc => mosetSpec n xa inc
  | .mdrain vd tile pair clr => mdrainSpec vd tile pair clr
  | .mzero first cnt => mzeroSpec first cnt
  | .mbook idx xa => mbookSpec idx xa
  | .knop => knopSpec
  | .kld ks mp j => kldSpec ks mp j
  | .kset ks mp j => ksetSpec ks mp j
  | .kmov ks ka => kmovSpec ks ka
  | .dnop => dnopSpec
  | .vldS vd xa imm => vldSSpec vd xa imm
  | .vstS vs xa imm => vstSSpec vs xa imm
  | .vldG vd xa ln arr => vldGSpec vd xa ln arr
  | .vstG vs xa imm => vstGSpec vs xa imm
  | .vldb vd xa imm => vldbSpec vd xa imm
  | .vgth vd xa ln arr => vgthSpec vd xa ln arr
  | .vsct vs xa vi => vsctSpec vs xa vi
  | .hpop vd h k => hpopSpec vd h k
  | .hpush vs h k => hpushSpec vs h k
  | .hadvr h n => hadvrSpec h n
  | .hadvw h n => hadvwSpec h n
  | .hset xa h lg => hsetSpec xa h lg
  | .pref n xa imm => prefSpec n xa imm
  | .enop => enopSpec
  | .modp ord scope pol ac => modpSpec ord scope pol ac
  | .cseq xa => cseqSpec xa
  | .job xa q => jobSpec xa q
  | .taddv vs xa fmt imm => taddvSpec vs xa fmt imm
  | .tmaxv vs xa fmt imm => tmaxvSpec vs xa fmt imm
  | .tmulv vs xa fmt imm => tmulvSpec vs xa fmt imm
  | .texpsv vs xa fmt imm => texpsvSpec vs xa fmt imm
  | .tscal xb xa fmt n => tscalSpec xb xa fmt n
  | .tfill xb xa fmt n => tfillSpec xb xa fmt n
  | .tsumr xb xa fmt n => tsumrSpec xb xa fmt n
  | .tmaxr xb xa fmt n => tmaxrSpec xb xa fmt n
  | .texpn xb xa fmt n => texpnSpec xb xa fmt n
  | .tfaa xd xa ln arr => tfaaSpec xd xa ln arr
  | .tfaab xd xa ln arr => tfaabSpec xd xa ln arr
  | .tincw xd xa ln arr => tincwSpec xd xa ln arr
  | .tdecw xd xa ln arr => tdecwSpec xd xa ln arr
  | .tcas xd xa ln arr => tcasSpec xd xa ln arr
  | .txchg xd xa ln arr => txchgSpec xd xa ln arr
  | .tfence remote bsel imm => tfenceSpec remote bsel imm
  | .sku vs xa op sen sem => skuSpec vs xa op sen sem
  | .skr xb xa xc sen sem => skrSpec xb xa xc sen sem
  | .wldRel xa xb lfmt mode off => wldRelSpec xa xb lfmt mode off
  | .wldAbs xa xb lfmt mode xq => wldAbsSpec xa xb lfmt mode xq
  | .stepc xa xb xc sen sem => stepcSpec xa xb xc sen sem
  | .lwm xa xb id drop => lwmSpec xa xb id drop
  | .stepq xa xb sen sem => stepqSpec xa xb sen sem
  | .coatw xa xb xc sen sem => coatwSpec xa xb xc sen sem
  | .ttload xa xb xc sen sem => ttloadSpec xa xb xc sen sem
  | .ttgo xa xb xc sen sem => ttgoSpec xa xb xc sen sem
  | .ttstop xb xc sen sem => ttstopSpec xb xc sen sem
  | .chpwr xb xc sen sem => chpwrSpec xb xc sen sem
  | .send xa xb xc sen sem => sendSpec xa xb xc sen sem
  | .bankmode bank mode sen sem => bankmodeSpec bank mode sen sem
  | .csrw g csr xa => csrwSpec g csr xa
  | .csrwMemdef g xa => csrwMemdefSpec g xa
  | .csrwClm g xa => csrwClmSpec g xa
  | .csrwFramelen g xa => csrwFramelenSpec g xa
  | .csrwDetmode g xa => csrwDetmodeSpec g xa
  | .csrwStepref g xa => csrwSteprefSpec g xa
  | .csrwTrappc g xa => csrwTrappcSpec g xa
  | .csrwHarm g k xa => csrwHarmSpec g k xa
  | .csrwLoopCount g isIdx lvl xa => csrwLoopCountSpec g isIdx lvl xa
  | .csrwMslot g n xa => csrwMslotSpec g n xa
  | .csrwXlroot g xa => csrwXlrootSpec g xa
  | .bundleIssue _ => {}
  | .blockClear _ _ => {}
  | .runLimit _ => {}
  | .resultLanding _ _ => {}
  | .landing _ _ => {}
  | .lateDataReturn _ => {}
  | .bundleRetire _ _ => {}
  | .stencilWord _ _ => {}
  | .preemptRequest _ _ _ => {}
  | .contextSaved _ _ => {}
  | .contextRestore _ _ _ _ => {}
  | .killRequest _ _ => {}
  | .killDrainComplete _ _ => {}
  | .endDrainComplete _ _ => {}
  | .messageDelivery _ _ => {}
  | .dispatchRound _ => {}
  | .groupStart _ => {}
  | .bankHandover _ _ => {}
  | .launchDecision _ => {}
  | .launchComplete _ => {}
  | .matrixSlotTurn => {}
  | .matrixChunk _ => {}
  | .matrixItemComplete _ => {}
  | .cardStart _ => {}
  | .copyComplete _ _ _ => {}
  | .cardComplete _ _ => {}
  | .trowelCommandStart _ _ => {}
  | .trowelCommandPerform _ _ => {}
  | .barrierArrival _ _ => {}
  | .bankAccess _ _ => {}
  | .bankmodeSwitchComplete _ _ => {}
  | .hostAtomic _ _ _ _ _ _ => {}
  | .hostRead _ _ _ => {}
  | .hostWrite _ _ _ => {}
  | .skimAdmission _ _ => {}
  | .coatStart _ _ => {}
  | .skimRowVisit _ _ => {}
  | .groupVisit _ _ => {}
  | .coatComplete _ _ => {}
  | .commitFail _ => {}
  | .waitTimeout _ _ => {}
  | .regionRemoved _ => {}
  | .timetableEntry _ => {}
  | .dramAccess _ _ => {}
  | .spareCopyComplete _ _ _ => {}
  | .nbVisit _ => {}
  | .timetableStage _ => {}
  | .tableReplacement _ => {}
  | .defaultTableSwitch _ => {}
  | .channelPowerDown _ => {}
  | .channelWake _ => {}
  | .linkEnable _ => {}
  | .lanesTrained _ => {}
  | .trainingFail _ => {}
  | .negotiationDone _ _ => {}
  | .linkDegrade _ _ => {}
  | .linkRestore _ => {}
  | .linkDisable _ => {}
  | .flitReceive _ _ => {}
  | .alignmentFlit _ => {}
  | .ueConnectionSetup _ _ _ => {}
  | .uePacket _ _ _ => {}
  | .sendDelivery _ => {}
  | .sendTimeout _ => {}
  | .kload _ _ => {}
  | .kretire _ _ => {}
  | .hostLaunch _ _ => {}
  | .hostCancel _ _ => {}
  | .kill _ _ => {}
  | .qpause _ => {}
  | .qresume _ => {}
  | .qdrain _ => {}
  | .qreset _ => {}
  | .qstat _ => {}
  | .pmap _ _ _ _ => {}
  | .ppin _ _ _ => {}
  | .punpin _ _ _ => {}
  | .punmap _ _ _ => {}
  | .pstat _ _ => {}
  | .rcreate _ _ _ _ _ _ => {}
  | .rdestroy _ _ => {}
  | .rstat _ _ => {}
  | .cpmode _ _ _ => {}
  | .qdet _ _ => {}
  | .hashcfg _ _ => {}
  | .hashrd _ _ _ _ => {}
  | .trcfg _ _ _ _ _ => {}
  | .dbg _ _ _ _ => {}
  | .hstat _ => {}
  | .cksave _ _ _ => {}
  | .ckrestore _ _ => {}
  | .ckdrop _ _ => {}
  | .fwload _ _ => {}
  | .attest _ _ => {}
  | .plim _ _ => {}
  | .moduleReset => {}
  | .dwellEnd _ => {}
  | .trainComplete => {}
  | .rampComplete => {}
  | .marginLow _ _ => {}
  | .dieOvertemp _ => {}
  | .powerLoss => {}
  | .droopFire _ _ => {}
  | .scrub _ _ => {}
  | .hashBoundary => {}
  | .firmwareReload _ _ => {}
  | .channelTrainingFails => {}
  | .marginRestored _ _ => {}
  | .traceSample _ => {}
  | .ageingIndicatorLow _ _ _ => {}
  | .hashTreeFormed => {}
  | .checkpointWriteComplete _ => {}
  | .timingSourceDesignation _ _ => {}

/-! ### A bundle's slots -/

/-- R90. What a MODP asks of the D slot of its bundle. -/
def modpOf : Instr → Option Modifiers
  | .modp ord scope policy ac => some ⟨ord.val, scope.val, policy.val, ac.val⟩
  | _ => none
/-- The all-zero word of a slot: its no-operation. -/
def nopOf (sl : Slot) : Instr :=
  match sl with
  | .c => .nop | .a => .nop | .b => .nop | .v => .vnop | .m => .mnop | .k => .knop | .d => .dnop | .e => .enop
/-- The slots of a bundle with their instructions and opcode fields, in the order of R95. -/
def bundleSlots (bits : Nat) (b : Bundle) : List (Slot × Nat × Instr) :=
  [(.c, b.c), (.a, b.a), (.b, b.b), (.v, b.v), (.m, b.m), (.k, b.k), (.d, b.d), (.e, b.e)].map
    fun p => (p.1, p.1.opcode (slotWord bits p.1), p.2)
/-- R27. The slots that hold something other than their no-operation. -/
def slotUses (l : List (Slot × Nat × Instr)) : List SlotUse :=
  (l.filter fun p => p.2.2 ≠ nopOf p.1).map fun p => ⟨p.1, p.2.1, slotSpec p.2.2⟩

/-! ### The bundle at the program counter -/

/-- R371. A breakpoint of the core's armed debugger at a bundle address.
(Assumption log 11: DEDUCED.) -/
def Core.breaksAt (k : Core) (addr : Nat) : Bool := k.armed && k.breaks.any fun b => b = some addr
/-- R94, R95. A line fault at the program counter; `sten` is the entry whose bundle it is of, none for a stencil line itself.
(Assumption log 96: DESIGN CHOICE.) -/
def State.lineFault (s : State) (k c line : Nat) (sten : Option Nat) (r : Reason) : State :=
  (s.viewAt k c line plainHeader none sten).trapNow ⟨causeIllegal, 0, illegalInfo sten 0 r, 1⟩
/-- R95, step 4. The fault of one slot: of its bits, or one that only its core and context tell. -/
def View.slotFault (v : View) (b : Nat) (sl : Slot) : Option Trap :=
  match decodeIn b sl with
  | .error e => some (encodingTrap e v.sten)
  | .ok i => if i = nopOf sl then none else v.encTrap ⟨sl, sl.opcode (slotWord b sl), slotSpec i⟩
/-- R95, step 4. The first slot fault of a bundle that its header and CRIT checks let pass. -/
def View.firstSlotFault (v : View) (b : Nat) : Option Trap :=
  if headerFault (decodeHeader b) || (critFault b).isSome then none
  else [Slot.c, .a, .b, .v, .m, .k, .d, .e].findSome? (v.slotFault b)
/-- R82, R83, R90, R95. The 256-bit bundle b is at issue.
(Assumption log 10: DEDUCED.) -/
def State.issueBits (s : State) (k c line : Nat) (sten : Option Nat) (b : Nat) : State :=
  match decodeBundle b with
  | .error e =>
    let v := s.viewAt k c line (decodeHeader b) none sten
    v.trapNow (((if headerFault (decodeHeader b) then none else v.headerIllegal).orElse fun _ => v.firstSlotFault b).getD (encodingTrap e sten))
  | .ok bd => issueBundle (s.viewAt k c line bd.hdr (modpOf bd.e) sten) (slotUses (bundleSlots b bd))
/-- R82, R366. A stencil word at the program counter: the stored bundle, patched, is at issue; an entry with an uncorrectable error traps.
(Assumption log 83: PRESUMED.) -/
def State.issueWord (s : State) (k c line : Nat) (idx : Fin 512) (patch : BitVec 7) : State :=
  let stored := (AMap.getD (s.ctx k c).regs.sten idx.val 0).toNat
  if s.poisoned (stenWord k c idx.val) 8 then (s.viewAt k c line plainHeader none (some idx.val)).trapNow (landFault causeEcc 0 0)
  else match patchBundle stored patch.toNat with
  | .error r => s.lineFault k c line (some idx.val) r
  | .ok b => s.issueBits k c line (some idx.val) b
/-- R80 to R82, R371. The bundle at the program counter is at issue, unless an armed breakpoint names it. -/
def State.issueAtPc (s : State) (k c : Nat) : State :=
  let pc := (s.ctx k c).regs.pc
  if (s.core k).breaksAt pc then (s.viewAt k c (2 ^ 255) plainHeader none none).preciseStop 0xFF else
  match (s.ctx k c).task.bind fun t => s.fetchLine t pc with
  | none => s.lineFault k c (2 ^ 255) none .badLine
  | some line =>
    match decodeLine line (pc % 32) with
    | .error r => s.lineFault k c line none r
    | .ok (.full b) => s.issueBits k c line none b
    | .ok (.word (.stencilWord idx patch)) => s.issueWord k c line idx patch
    | .ok (.word _) => s

/-- R80 to R82. The bundle at the program counter of a context, as it would be at issue now, with its slots; none where a line, a stencil word or
an encoding is at fault. -/
def State.bundleAt (s : State) (k c : Nat) : Option (View × List SlotUse) :=
  let pc := (s.ctx k c).regs.pc
  let view (b line : Nat) (sten : Option Nat) : Option (View × List SlotUse) :=
    match decodeBundle b with
    | .error _ => none
    | .ok bd => some (s.viewAt k c line bd.hdr (modpOf bd.e) sten, slotUses (bundleSlots b bd))
  match (s.ctx k c).task.bind fun t => s.fetchLine t pc with
  | none => none
  | some line =>
    match decodeLine line (pc % 32) with
    | .ok (.full b) => view b line none
    | .ok (.word (.stencilWord idx patch)) =>
      (match patchBundle (AMap.getD (s.ctx k c).regs.sten idx.val 0).toNat patch.toNat with
        | .ok b => view b line (some idx.val) | .error _ => none)
    | _ => none

/-! ### The issue port (R29) -/

/-- R29. When no context holds the port, the lowest-numbered READY one takes it and issues in this cycle. -/
def Core.claimPort (k : Core) : Core :=
  match k.port with
  | some _ => k
  | none =>
    match [0, 1, 2, 3].find? fun n => (k.ctx n).status = .ready with
    | some n =>
      { (k.modCtx n fun x => { x with status := .running }) with port := some (ctxNo n), portAt := k.cycle, heldFor := if (k.nextReady n).isSome then 1 else 0 }
    | none => k
/-- R29. A BLOCKED context that still holds the port retests its condition: it is tried as the RUNNING one. -/
def Core.retest (k : Core) : Core :=
  match k.port with
  | some c => if (k.ctx c.val).status = .blocked ∧ ¬ (k.ctx c.val).ending then k.modCtx c.val fun x => { x with status := .running } else k
  | none => k

/-- R362. The signatures of a pair differ: both cores stop at the bundle, and the host is told.
(Assumption log 85: DEDUCED.) -/
def State.stopPair (s : State) (k : Nat) : State :=
  let p := pairOf k
  let s := (s.modCore (k / 2 * 2) fun c => { c with halted := true }).modCore (k / 2 * 2 + 1) fun c => { c with halted := true }
  let s := s.modDie p.1 fun d => { d with pairs := d.pairs.set p.2 { d.pairs[p.2] with stopped := true } }
  s.report .event (4 * p.1 + p.2.val) 0 []
/-- R196. The bundle of a context that was at issue in state s has issued. -/
def State.issued (s t : State) (k c : Nat) : Bool :=
  let n := (s.ctx k c).nextBid
  (t.ctx k c).nextBid ≠ n && !((t.ctx k c).inflight.any fun i => i.bid = n && i.fault.isSome)
/-- R362. The second core of a pair repeats, two cycles behind, what the first one does. -/
def State.follow (s : State) (k : Nat) : State :=
  let first := s.core (k - 1)
  if s.repeats k && !first.frozen then s.modCore k fun c => { c with past := (first.ctxs, first.port) :: c.past.take 2 } else s
/-- R362. The bundle of a pair at issue: issued in state t, or the signatures of its two cores differ. Both execute the same bundle on the same
values, so that the signatures are equal unless a soft error changes what one of them commits; that it does is free.
(Assumption log 85: DEDUCED.) -/
def State.comparePaired (s t : State) (k c : Nat) : State :=
  if s.paired k && s.issued t k c && Config.upset s.free ≠ 0 then { s with free := s.free + 1 }.stopPair k else t
/-- R42, R44. The bundle has reached issue: it is kept for the SFC value that its stamp names, if it has one. -/
def View.reach (v : View) : State :=
  if v.stamped then v.aim else v.s.modCtx v.k v.c fun x => { x with regs := { x.regs with resumePos := none } }
/-- R42, R379. In a cycle that a core skips, the bundle that would be at issue has its place in the schedule: a stamp that names this cycle has
passed in the next one. A task's first bundle has none before its frame starts. -/
def State.aimSkipped (s : State) (k : Nat) : State :=
  let x := s.core k
  match ({ x with frozen := false, skipped := false, cycle := x.cycle + 1 }).claimPort.retest.issuer with
  | none => s
  | some c =>
    match s.bundleAt k c with
    | some (v, _) =>
      let placed := v.r.startAt.isSome || (match v.ctx.task with | some t => t.started | none => true)
      if placed && !v.beforeStart then v.reach else s
    | none => s
/-- R27. One issue cycle of a core: its RUNNING context issues one whole bundle, or the bundle blocks. A task of a deterministic group that is not on
the port of its core at the group's start (another context holds it, or the core has two tasks of the group) issues its first bundle when it gets the
port, with the group's start as its frame origin.
(Assumption log 107: DESIGN CHOICE.) (Assumption log 11: DEDUCED.) (Assumption log 84: DEDUCED.) -/
def execBundleIssue (core : Nat) (s : State) : Out :=
  if !coreExists core then .fault .noSuchPart
  else
    let s := { s with focus := core }
    let k := s.core core
    if s.repeats core then .next (s.follow core)
    else if k.frozen || k.halted || s.overheated then .next (if k.skipped then s.aimSkipped core else s)
    else
      let k1 := k.claimPort
      let k2 := k1.retest
      match k2.issuer with
      | some c =>
        let s := s.setCore core k2
        .next (s.comparePaired (s.issueAtPc core c) core c)
      | none =>
        match k1.port with
        | some c =>
          if (k1.ctx c.val).ending then .next ((s.setCore core k1).blockCtx core c.val)
          else .next (s.setCore core k1)
        | none => .next s

/-- R82. One word of a stencil line is at issue, by the context of the core in focus that may issue. -/
def execStencilWord (idx : Fin 512) (patch : BitVec 7) (s : State) : Out :=
  match if s.overheated then none else (s.core s.focus).issuer with
  | none => .next s
  | some c =>
    let line := ((s.ctx s.focus c).task.bind fun t => s.fetchLine t (s.ctx s.focus c).regs.pc).getD 0
    .next (s.issueWord s.focus c line idx patch)

/-! ### BLOCK_CLEAR (R29) -/

/-- R28. The bundle at the program counter of a BLOCKED context still blocks. -/
def State.stillBlocked (s : State) (k c : Nat) : Bool :=
  match s.bundleAt k c with
  | some (v, uses) => v.ctx.late.isNone && v.blocks uses (uses.map fun u => (u.slot, u.spec.out v))
  | none => false

/-- R29, R216. The condition that blocks a context has cleared, or its placement is complete: the context becomes READY. A context that keeps the
port retests instead. -/
def execBlockClear (core ctx : Nat) (s : State) : Out :=
  if !coreExists core then .fault .noSuchPart
  else
    let k := s.core core
    let x := k.ctx ctx
    if x.status = .blocked ∧ ¬ x.ending ∧ k.port ≠ some (ctxNo ctx) ∧ ¬ k.frozen ∧ x.preempt = none ∧ ¬ x.killing ∧
        ¬ k.placing ctx ∧ ¬ s.stillBlocked core ctx then
      .next (s.modCtx core ctx fun y => { y with status := .ready })
    else .next s

end Sys2Proof.Machine
end

