-- ==== Sys2Proof/Machine/Landing.lean ====
section
/-! DEFINITION. The steps of a core's clock: landings, the clock freeze and LATE (spec/02 R32 to R37, R43), retire, block clear, the
run limit and the switch of contexts (R29 to R31). -/
namespace Sys2Proof.Machine

/-! ### Landings -/

/-- Lays the bytes of a part over the bytes of a result. -/
def layPart (bs : List Byte) (p : Part) : List Byte :=
  match p.data with
  | some d => ((List.range d.length).zip d).foldl (fun l e => l.set (p.off + e.1) e.2) bs
  | none => bs
/-- The size of a load's result in bytes. -/
def LoadDest.size : LoadDest → Nat
  | .scalar _ n _ => n | .vector _ _ => 512 | .atomic _ => 8 | .scale _ => 128 | .stencil first n => 32 * (first + n)
/-- R107, R144, R168, R223, R266. The register result of a load's bytes. -/
def LoadDest.result (d : LoadDest) (bs : List Byte) : Dest :=
  match d with
  | .scalar r n signed =>
    .x r (if signed then BitVec.ofInt 64 (sextNat (8 * n) (leValue bs)) else BitVec.ofNat 64 (leValue bs))
  | .vector r mask => .v r mask (Vector.ofFn fun L : Fin 128 => BitVec.ofNat 32 (leValue ((bs.drop (4 * L.val)).take 4)))
  | .atomic r => .x r (BitVec.ofNat 64 (leValue bs))
  | .scale r => .ks r (Vector.ofFn fun i : Fin 128 => bs[i.val]?.getD 0)
  | .stencil first n => .stens first ((List.range n).map fun i => BitVec.ofNat 256 (leValue ((bs.drop (32 * (first + i))).take 32)))
/-- R32. What a pending result writes; nothing if it faults. -/
def Pend.dest? (p : Pend) : Option Dest :=
  match p.fault, p.kind with
  | some _, _ => none
  | none, .value d => some d
  | none, .load d parts => some (d.result (parts.foldl layPart (List.replicate d.size 0)))
  | none, .marker => none

/-- R33. Slots from weakest to strongest: C, A, B, V, M, K, D, E. -/
def Slot.rank : Slot → Nat | .c => 0 | .a => 1 | .b => 2 | .v => 3 | .m => 4 | .k => 5 | .d => 6 | .e => 7
/-- R33. A lands before B in one cycle, so that B's value is kept. -/
def Pend.before (a b : Pend) : Bool := decide (a.bid < b.bid) || (decide (a.bid = b.bid) && decide (Sys2Proof.Machine.Slot.rank a.slot ≤ Sys2Proof.Machine.Slot.rank b.slot))
/-- Inserts a pending result in landing order. -/
def insertPend (p : Pend) : List Pend → List Pend
  | [] => [p]
  | q :: l => if q.before p then q :: insertPend p l else p :: q :: l
/-- R33. Pending results in landing order. -/
def landingOrder (l : List Pend) : List Pend := l.foldl (fun acc p => insertPend p acc) []

/-- R197. A landing of bundle bid writes the registers, and the registers that later unretired bundles would go back to. -/
def Ctx.land (x : Ctx) (bid : Nat) (d : Dest) : Ctx :=
  { x with regs := d.write x.regs, inflight := x.inflight.map fun i => if bid < i.bid then { i with snap := d.write i.snap } else i }
/-- R146, R200. A fault found by the landing cycle becomes its bundle's. -/
def Ctx.faultBundle (x : Ctx) (bid : Nat) (t : Trap) : Ctx :=
  { x with inflight := x.inflight.map fun i => if i.bid = bid ∧ i.fault.isNone then { i with fault := some t } else i }
/-- A pending result that is due. -/
def Pend.isDue (p : Pend) (cycle : Nat) : Bool := decide (p.due ≤ cycle)

/-- R366. Stencil entries that land are sound. -/
def State.healEntries (s : State) (k c : Nat) (d : Dest) : State :=
  match d with | .stens first l => s.heal (stenWord k c first) (8 * l.length) | _ => s
/-- R141. A load that has taken bytes of a later store of the context lands with them only where nothing before that store can still discard it:
its bundle and those before it raise no trap any more. -/
def State.raceStands (s : State) (k c bid store : Nat) : Bool :=
  let x := s.ctx k c
  x.inflight.all fun i => decide (i.bid ≤ bid ∨ store < i.bid)
    || (i.fault.isNone && !(x.pend.any fun p => p.bid = i.bid && p.isLoad) && (i.eff.all fun e => (s.effectTraps k c e).isEmpty))
/-- R141. A pending load without the racing bytes that do not stand, and the last bundle that it has made final. -/
def State.settleRaces (s : State) (k c : Nat) (p : Pend) : Pend × Option Nat :=
  match p.kind with
  | .load d parts =>
    let raced (q : Part) : Option Nat := if q.loc.isNone then q.after else none
    let keep := parts.filter fun q => match raced q with | some b => s.raceStands k c p.bid b | none => true
    ({ p with kind := .load d keep }, (keep.filterMap raced).max?)
  | _ => (p, none)
/-- R32 to R34. One pending result lands: registers, the fault of a failed load (none any more of a bundle that is final, R230), and an arrival
that waits for it (R245): an arrival of a bundle that has not retired is sent when it does (R197, R251). -/
def State.landOne (s : State) (k c : Nat) (p : Pend) : State :=
  let unretired := (s.ctx k c).inflight.any fun i => i.bid = p.bid
  let final := (s.ctx k c).inflight.any fun i => i.bid = p.bid && i.final
  let q := s.settleRaces k c p
  let s := match q.2 with
    | some b => s.modCtx k c fun x => { x with inflight := x.inflight.map fun i => if p.bid < i.bid ∧ i.bid ≤ b then { i with final := true } else i }
    | none => s
  let r := if unretired && !final then s.comparePair k c p else (none, s)
  let s := r.2
  let s := match r.1 with
    | some t => s.modCtx k c fun x => x.faultBundle p.bid t
    | none => match q.1.dest? with
      | some d => (s.modCtx k c fun x => x.land p.bid d).healEntries k c d
      | none => s
  match p.arrive with
  | some e =>
    if unretired then
      s.modCtx k c fun x => { x with inflight := x.inflight.map fun i => if i.bid = p.bid then { i with eff := i.eff ++ [.arrive e] } else i }
    else s.sendArrival k c e
  | none => s
/-- R32, R33. Everything due in a context lands. -/
def State.landDue (s : State) (k c : Nat) : State :=
  let x := s.ctx k c
  let due := landingOrder (x.pend.filter fun p => p.isDue x.cycle)
  let s := s.modCtx k c fun y => { y with pend := y.pend.filter fun p => !p.isDue y.cycle }
  due.foldl (fun s p => s.landOne k c p) s

/-- R230. What is due of a context's bundles before `bid` lands. -/
def State.landEarlier (s : State) (k c bid : Nat) : State :=
  let x := s.ctx k c
  let now (p : Pend) : Bool := p.isDue x.cycle && decide (p.bid < bid)
  (landingOrder (x.pend.filter now)).foldl (fun s p => s.landOne k c p) (s.modCtx k c fun y => { y with pend := y.pend.filter fun p => !now p })

/-- R32. The states in which a context's cycles count.
(Assumption log 12: DEDUCED.) -/
def CtxStatus.counts : CtxStatus → Bool
  | .running => true | .ready => true | .blocked => true | _ => false
/-- R32, R197. The states in which results land: a TRAPPED context's too, and the stencil entries of a DORMANT one (R223).
(Assumption log 12: DEDUCED.) -/
def CtxStatus.lands (x : CtxStatus) : Bool := x.counts || x = .trapped || x = .dormant
/-- R223. Stencil entries, which are written by core cycles. -/
def Pend.isStencil (p : Pend) : Bool := match p.kind with | .load (.stencil _ _) _ => true | _ => false

/-- R32. Fixed-latency results land, in a cycle in which no load is due. -/
def execResultLanding (core ctx : Nat) (s : State) : Out :=
  let x := s.ctx core ctx
  if !coreExists core then .fault .noSuchPart
  else if (s.core core).frozen || x.pend.any fun p => p.isDue x.cycle && p.isLoad then .next s
  else .next (s.landDue core ctx)

/-- R43. The bundle due in the landing cycle will raise LATE: TRAPINFO names the landing slot, or has bit 5 set.
(Assumption log 11: DEDUCED.) (Assumption log 94: DEDUCED.) -/
def State.raiseLate (s : State) (k c : Nat) (p : Pend) : State :=
  s.modCtx k c fun x => { x with late := x.late.orElse fun _ => some (match p.ln with | some l => l.val | none => 32) }
/-- R34 to R36, R43. Loads land, or the core's clock freezes until late data are there; in deterministic mode the bundle due raises LATE
as well, whatever froze the core first. A cycle that the core skips has no landings (R379). A scheduler's answer that the cycle's decisions may
still give is looked for after them (R230).
(Assumption log 94: DEDUCED.) -/
def execLanding (core ctx : Nat) (s : State) : Out :=
  let x := s.ctx core ctx
  if !coreExists core then .fault .noSuchPart
  else if (s.core core).skipped then .next s
  else match x.pend.find? fun p => p.isDue x.cycle && p.isLoad && !p.back s.sfc with
    | some p =>
      if p.answer && s.agenda.contains (.landing core ctx) then (if (s.core core).frozen then .next s else .next (s.landEarlier core ctx p.bid))
      else
        let s := if x.regs.detmode then s.raiseLate core ctx p else s
        .next (s.modCore core fun k => { k with frozen := true })
    | none =>
      if (s.core core).frozen then .next s
      else if x.pend.any fun p => p.isDue x.cycle && p.isLoad then .next (s.landDue core ctx) else .next s

/-- R35. A context of a frozen core still lacks data that are due. -/
def Ctx.lateData (x : Ctx) (sfc : Nat) : Bool := x.status.lands && x.pend.any fun p => p.isDue x.cycle && p.isLoad && !p.back sfc
/-- R35. The late data are there: the freeze ends and everything due lands. -/
def execLateDataReturn (core : Nat) (s : State) : Out :=
  if !coreExists core then .fault .noSuchPart
  else if !(s.core core).frozen || (s.core core).skipped || (List.range 4).any fun c => ((s.core core).ctx c).lateData s.sfc then .next s
  else
    let s := s.modCore core fun k => { k with frozen := false }
    .next ((List.range 4).foldl (fun s c => if (s.ctx core c).status.lands then s.landDue core c else s) s)

/-- R196. The oldest issued bundle of a context retires or traps, in a freeze as well: what a late load waits for may be an acquire (R357).
(Assumption log 88: DEDUCED.) -/
def execBundleRetire (core ctx : Nat) (s : State) : Out :=
  if !coreExists core then .fault .noSuchPart else .next (s.retireOldest core ctx)

/-! ### Contexts on the issue port -/

/-- R30. The run limit: a context that has held the port for 1024 cycles while another was READY becomes READY, and the port passes on.
(Assumption log 13: DEDUCED.) -/
def execRunLimit (core : Nat) (s : State) : Out :=
  if !coreExists core then .fault .noSuchPart
  else
    let k := s.core core
    match k.port with
    | none => .next s
    | some c =>
      let x := k.ctx c.val
      let other := x.status = .running ∧ (k.nextReady c.val).isSome ∧ k.portAt ≤ k.cycle + 2
      if k.frozen ∨ ¬ coreExists core then .next s
      else if 1024 ≤ k.heldFor ∧ other ∧ ¬ x.regs.detmode then
        .next (s.setCore core ((k.modCtx c.val fun y => { y with status := .ready }).switchPort c.val))
      else .next (s.setCore core { k with heldFor := if other then k.heldFor + 1 else 0 })

end Sys2Proof.Machine
end

