-- ==== Sys2Proof/Machine/Engine.lean ====
section
/-! DEFINITION. The matrix engine (spec/09 R156, R159, R162 to R175, spec/03 R48, R59, R63): operand segments, chunks, TLOAD, DRAIN and
MZERO, the choice of the next work, completion and cycle classes. -/
namespace Sys2Proof.Machine

/-! ### Operands (R48, R156, R159) -/

/-- R48. Element i of a packed row: elements of 4, 6, 8, 16 or 32 bits follow one another from bit 0 of the first byte.
(Assumption log 31: DEDUCED.) -/
def packedCode (fmt : Nat) (bs : List Byte) (i : Nat) : Nat :=
  bits (leValue bs) (fmtBits fmt * i + fmtBits fmt - 1) (fmtBits fmt * i)
/-- R48. The bytes of a packed row. -/
def packRow (fmt : Nat) (codes : List Nat) : List Byte :=
  let w := fmtBits fmt
  leBytes (codes.length * w / 8) (codes.foldr (fun c n => c % 2 ^ w + 2 ^ w * n) 0)
/-- R159. The scale entry of an element: its row or column, and which 32 of K it lies in. -/
def scaleEntry (ks : KReg) (i k : Nat) : Nat := (ks[i + 64 * (k / 32 % 2)]?.getD 0).toNat
/-- R156, R366. Bytes of a matrix operand; those past the scratchpad's end, and those of a word with an uncorrectable error, which no completion
word of the engine can report, are free values.
(Assumption log 31: DEDUCED.) (Assumption log 83: PRESUMED.) -/
def State.planeBytes (s : State) (k c a n : Nat) : List Byte :=
  (List.range n).map fun i => if a + i < 2 ^ 21 && !s.poisoned (spadAddr k (a + i)) 1 then s.engineByte k c (a + i) else (Config.freeWord (s.free + a + i)).truncate 8
/-- R156, R59. The sixteen elements of an E2M1X segment with bytes bs: the second half of a block counts its escapes on from the first half,
whose bytes the chunk before read.
(Assumption log 31: DEDUCED.) -/
def blockSegment (s : State) (k c j : Nat) (plane : Word64) (row kdim : Nat) (first bs : List Byte) : List FVal :=
  let odd := j % 2
  let blk := row * (kdim / 32) + j / 2
  let sc := (s.planeBytes k c (planeS plane + blk) 1).headD 0
  let ol := s.planeBytes k c (planeO plane + 8 * blk) 8
  let codes := (List.range (16 + 16 * odd)).map (packedCode 9 (if odd = 1 then first ++ bs else bs))
  (blockDecode sc.toNat ((List.range 4).map fun i => leValue ((ol.drop (2 * i)).take 2)) codes 0).drop (16 * odd)
/-- R156, R159. The sixteen operand values of a segment of one row or column, with bytes bs; `first` is the first half of its block where it is
the second. -/
def segment (s : State) (k c fmt j : Nat) (plane : Word64) (row kdim : Nat) (scales : Option KReg) (first bs : List Byte) : List FVal :=
  if fmt = 9 then blockSegment s k c j plane row kdim first bs
  else
    (List.range 16).map fun i =>
      let v := decodeNum fmt (packedCode fmt bs i)
      match scales with | some ks => v.scale (scaleEntry ks row (16 * j + i)) | none => v

/-! ### A chunk (R63, R172) -/

/-- R171. The cycles of a chunk, by the wider operand. -/
def chunkCycles (d : BitVec 256) : Nat :=
  let w := max (fmtBits (dAfmt d)) (fmtBits (dBfmt d))
  if w = 16 then 16 else if w = 8 then 8 else 4
/-- R171. The chunks of a GEMM or CONV. -/
def chunkCount (d : BitVec 256) : Nat := dK d / 16 * dTaps d
/-- R164. The tap and the chunk within it of chunk number n. -/
def tapOf (d : BitVec 256) (n : Nat) : Nat := n / (dK d / 16)
def chunkOf (d : BitVec 256) (n : Nat) : Nat := n % (dK d / 16)
/-- R156, R164. The first byte of row m's A segment in chunk n; `off` is the offset of the step, if the routine is stepped. -/
def Routine.aSeg (r : Routine) (n m : Nat) (off : Int) : Nat :=
  let d := r.desc
  let j := if dStepped d ∧ dKind d = 1 then 0 else chunkOf d n
  (((r.a.toNat + m * strA r.str + segBytes (dAfmt d) * j : Nat) : Int) + off).toNat
/-- R156. The first byte of column c's B segment in chunk n. -/
def Routine.bSeg (r : Routine) (n c : Nat) : Nat :=
  let d := r.desc
  r.b.toNat + tapOf d n * strT r.str + c * strB r.str + segBytes (dBfmt d) * chunkOf d n
/-- R173. The bytes of the segments that chunk n reads: of the A rows, and of the B columns.
(Assumption log 30: DEDUCED.) -/
def Routine.chunkReads (r : Routine) (s : State) (k ctx n : Nat) (off : Int) : List (List Byte) × List (List Byte) :=
  let d := r.desc
  ((List.range (dM d)).map fun m => s.planeBytes k ctx (r.aSeg n m off) (segBytes (dAfmt d)),
   (List.range (dN d)).map fun c => s.planeBytes k ctx (r.bSeg n c) (segBytes (dBfmt d)))
/-- R59. What the next chunk needs of a chunk's segments: those of E2M1X operands. -/
def Routine.keepHalves (r : Routine) (now : List (List Byte) × List (List Byte)) : List (List Byte) × List (List Byte) :=
  (if dAfmt r.desc = 9 then now.1 else [], if dBfmt r.desc = 9 then now.2 else [])
/-- R63, R172. Applies chunk n of a routine, with its segments and those of the chunk before, to the accumulator: one rounding an element;
chunk 0 of tap 0 overwrites in overwrite mode.
(Assumption log 30: DEDUCED.) -/
def Routine.applyChunk (r : Routine) (s : State) (k ctx n : Nat) (halves now : List (List Byte) × List (List Byte)) : State :=
  let d := r.desc
  let j := chunkOf d n
  let as := (List.range (dM d)).map fun m =>
    segment s k ctx (dAfmt d) j r.xa m (dK d) (if dAsc d then some r.sa else none) (halves.1[m]?.getD []) (now.1[m]?.getD [])
  let bs := (List.range (dN d)).map fun c =>
    segment s k ctx (dBfmt d) j r.xb c (dK d) (if dBsc d then some r.sb else none) (halves.2[c]?.getD []) (now.2[c]?.getD [])
  let tile := r.acc.toNat % 256
  let keep := dMode d || decide (n ≠ 0)
  let core := s.core k
  let rowOf (m : Nat) : Vector Word32 64 :=
    let old := core.accRow tile m
    let a := as[m]?.getD []
    Vector.ofFn fun c : Fin 64 => match bs[c.val]? with
      | some b => BitVec.ofNat 32 (chunkSum (if keep then some (decodeNum 0 old[c].toNat) else none) (List.zipWith FVal.mul a b))
      | none => old[c]
  s.setCore k { core with acc := (List.range (dM d)).foldl (fun acc m => AMap.set acc (tile * 64 + m) (rowOf m)) core.acc }

/-! ### TLOAD, DRAIN and MZERO (R166, R172) -/

/-- R172. TLOAD: column n of the B tile takes element n of every X row. -/
def Routine.applyTload (r : Routine) (s : State) (k c : Nat) : State :=
  let d := r.desc
  let xs := (List.range (dK d)).map fun i => s.planeBytes k c (r.a.toNat + i * strA r.str) (packedBytes (dAfmt d) (dN d))
  (List.range (dN d)).foldl (fun s n =>
    let codes := xs.map fun x => convert (dAfmt d) (dBfmt d) .rn (dSat d) (packedCode (dAfmt d) x n)
    s.engineWrite k c (r.b.toNat + n * strB r.str) (packRow (dBfmt d) codes)) s
/-- R172. DRAIN: the tile's rows, converted; MODE 1 clears the tile after reading it.
(Assumption log 33: DEDUCED.) -/
def Routine.applyDrain (r : Routine) (s : State) (k c : Nat) : State :=
  let d := r.desc
  let tile := r.acc.toNat % 256
  let core := s.core k
  let s := (List.range (dM d)).foldl (fun s m =>
    let row := core.accRow tile m
    let codes := (List.range (dN d)).map fun n => convert 0 (dAfmt d) .rn (dSat d) (row[n]?.getD 0).toNat
    s.engineWrite k c (r.a.toNat + m * strA r.str) (packRow (dAfmt d) codes)) s
  if dMode d then s.modCore k fun c => { c with acc := c.acc.filter fun e => e.1 / 64 ≠ tile } else s
/-- R166. MZERO.
(Assumption log 33: DEDUCED.) -/
def Core.zeroTiles (c : Core) (first cnt : Nat) : Core :=
  { c with acc := c.acc.filter fun e => !(decide (first ≤ e.1 / 64 ∧ e.1 / 64 < first + cnt)) }
/-- What an item other than a GEMM or CONV does, whole, in its last cycle: until then every load of a DRAIN's output gives the old words
(R173 allows the old or the new).
(Assumption log 30: DEDUCED.) -/
def MatWork.applyWhole (w : MatWork) (s : State) (k c : Nat) : State :=
  match w with
  | .routine r => if dKind r.desc = 3 then r.applyTload s k c else if dKind r.desc = 4 then r.applyDrain s k c else s
  | .zero first cnt => s.modCore k fun x => x.zeroTiles first cnt
  | .feed _ _ => s

/-! ### The choice of work (R169, R170) -/

/-- An item that the engine runs: not an MFEED step. -/
def MatItem.runs (i : MatItem) : Bool := match i.work with | .feed _ _ => false | _ => true
/-- The item is a GEMM or CONV. -/
def MatItem.chunked (i : MatItem) : Option Routine :=
  match i.work with | .routine r => if dKind r.desc = 1 ∨ dKind r.desc = 2 then some r else none | _ => none
/-- R164. The step that a stepped routine's present chunk takes: the oldest MFEED that waits for it. -/
def Core.stepFor (k : Core) (i : MatItem) : Option MatItem :=
  k.mq.find? fun j => match j.work with | .feed rbid _ => j.ctx = i.ctx && rbid = i.bid && j.eligible | _ => false
/-- R170. The item's next step is available. -/
def Core.stepReady (k : Core) (i : MatItem) : Bool :=
  match i.chunked with | some r => !dStepped r.desc || (k.stepFor i).isSome | none => true
/-- R156, R164, R172. The ranges of the scratchpad that an item reads or writes, a stepped routine's with those of its present step. -/
def Core.itemRanges (k : Core) (i : MatItem) : List (Int × Nat) :=
  match i.work with
  | .routine r =>
    let step : List TileRow := match k.stepFor i with
      | some j => (match j.work with | .feed _ o => r.stepRows (tapOf r.desc i.chunk) o.toInt | _ => [])
      | none => []
    (r.rows ++ step).map (fun q => (q.start, q.len)) ++ r.planes.map fun p => ((p.1 : Int), p.2)
  | _ => []
/-- R258, R358. The item, or its next chunk, waits for a command or an arrival that had reached one of its banks when its bundle retired, or its chunk
before ended.
(Assumption log 36: DEDUCED.) -/
def Core.itemWaits (k : Core) (i : MatItem) : Bool :=
  (k.banks.any fun b => b.queue.any fun it => it.bars i.since) && k.commandBefore i.since (k.itemRanges i)
/-- R162, R170. The oldest item of a context that has not ended, if it may take the engine now.
(Assumption log 36: DEDUCED.) -/
def Core.candidate (k : Core) (c : Nat) : Option MatItem :=
  match k.mq.find? fun i => i.ctx = c && i.runs with
  | some i => if i.eligible && k.stepReady i && !k.itemWaits i then some i else none
  | none => none
/-- R170. The engine's next work: the slot's owner first, otherwise the oldest by issue order. -/
def Core.nextWork (k : Core) (sfc : Nat) : Option MatItem :=
  let slot := k.mslot[sfc / 64 % 16]?.getD 0
  let owner := if slot.getLsbD 2 then k.candidate (slot.toNat % 4) else none
  match owner with
  | some i => some i
  | none => ([0, 1, 2, 3].filterMap k.candidate).foldl (fun b i => match b with
      | none => some i | some j => if i.order < j.order then some i else some j) none
/-- R166, R171. The run of an item that the engine takes at SFC value `sfc`; `on` when it goes on from the chunk before. -/
def MatItem.runFrom (i : MatItem) (sfc : Nat) (on : Bool) : MatRun :=
  match i.work with
  | .routine r =>
    if dKind r.desc = 3 then ⟨i.order, 0, sfc + dK r.desc / 4 + 3, .weights, none⟩
    else if dKind r.desc = 4 then ⟨i.order, 0, sfc + dM r.desc / 4 + 3, .drain, none⟩
    else if on then ⟨i.order, 0, sfc + chunkCycles r.desc - 1, .computing, none⟩
    else ⟨i.order, sfc + 3, sfc + 3 + chunkCycles r.desc, .computing, none⟩
  | .zero _ cnt => ⟨i.order, 0, sfc + 4 * cnt - 1, .drain, none⟩
  | .feed _ _ => ⟨i.order, 0, sfc, .idle, none⟩

/-! ### Steps of the engine (R170 to R173) -/

/-- The items of a queue but for one. -/
def dropItem (l : List MatItem) (order : Nat) : List MatItem := l.filter fun i => i.order ≠ order
/-- R171, R173. An item's work has ended and its completion is four cycles on. -/
def Core.endItem (k : Core) (i : MatItem) (due : Nat) : Core :=
  { k with mq := dropItem k.mq i.order, mdone := k.mdone ++ [⟨i, due⟩] }
/-- R172. The chunk of the running routine that has ended is applied, its step ends with it, and after the last chunk the routine.
(Assumption log 30: DEDUCED.) (Assumption log 32: DEDUCED.) -/
def State.endChunk (s : State) (k : Nat) (i : MatItem) (r : Routine) (ends : Nat) : State :=
  let step := if dStepped r.desc then (s.core k).stepFor i else none
  let off : Int := match step with | some j => (match j.work with | .feed _ o => o.toInt | _ => 0) | none => 0
  let now := r.chunkReads s k i.ctx i.chunk off
  let s := r.applyChunk s k i.ctx i.chunk i.halves now
  let n := i.chunk + 1
  let lastOfStep := dKind r.desc = 1 ∨ n % (dK r.desc / 16) = 0
  let s := match step with
    | some j => if lastOfStep then s.modCore k fun c => c.endItem j (ends + 4) else s
    | none => s
  let s := s.modCore k fun c => { c with mq := c.mq.map fun j => if j.order = i.order then { j with chunk := n, since := s.sfc, halves := r.keepHalves now } else j }
  if n < chunkCount r.desc then s
  else s.modCore k fun c => c.endItem { i with chunk := n } (ends + 4)
/-- R174. The context of an item has been killed. -/
def Core.gone (k : Core) (c : Nat) : Bool := (k.ctx c).killing || (k.ctx c).status = .killed
/-- The place of a class among the counters. -/
def MatClass.index : MatClass → Option (Fin 4)
  | .computing => some 0 | .weights => some 1 | .activations => some 2 | .drain => some 3 | .idle => none
/-- R175, R370. The charge of an item that leaves the queue as trace records, one for each class with cycles: the class (1 computing,
2 weights, 3 activations, 4 drain) in [7:0], the count above it.
(Assumption log 35: PRESUMED.) -/
def State.traceCharge (s : State) (k : Nat) (i : MatItem) : State :=
  (List.range 4).foldl (fun s n =>
    let c := i.charge[n]?.getD 0
    if c = 0 then s
    else s.traceRec { type := 4, core := k, ctx := i.ctx, addr := i.addr, sfc := s.sfc, payload := n + 1 + 256 * c }) s
/-- R174. The items of a killed context leave the queue: only the one that the engine runs stays, with its steps, to its next chunk
boundary.
(Assumption log 49: DEDUCED.) -/
def State.killItems (s : State) (k c : Nat) : State :=
  let core := s.core k
  let runs (i : MatItem) : Bool := match core.mrun with
    | some r => decide (r.order = i.order) || (match i.work, core.mq.find? (fun j => j.order = r.order) with
        | .feed b _, some j => decide (j.ctx = c ∧ j.bid = b) | _, _ => false)
    | none => false
  let goes (i : MatItem) : Bool := i.ctx = c && !runs i
  ((core.mq.filter goes).foldl (fun s i => s.traceCharge k i) s).modCore k fun x => { x with mq := x.mq.filter fun i => !goes i }
/-- R170 to R172. A cycle of the engine begins: the chunk that ended is applied, a killed context's routine stops at its boundary, and
the engine takes its next work.
(Assumption log 30: DEDUCED.) -/
def execMatrixChunk (core : Nat) (s : State) : Out :=
  if !coreExists core then .fault .noSuchPart
  else
    let k := s.core core
    match k.mrun with
    | some r =>
      if s.sfc ≤ r.ends then .next s
      else
        let ended := k.mq.find? fun i => i.order = r.order
        if (match ended with | some i => i.chunked.isNone | none => false) then .next s else
        let s := match ended.bind fun i => (i.chunked).map fun c => (i, c) with
          | some (i, c) => s.endChunk core i c r.ends
          | none => s
        let s := s.modCore core fun c => { c with mrun := none }
        let s := match ended with | some i => if (s.core core).gone i.ctx then s.killItems core i.ctx else s | none => s
        let next := (s.core core).nextWork s.sfc
        .next (s.modCore core fun c => { c with mrun := next.map fun i => i.runFrom s.sfc (i.order = r.order) })
    | none => .next (s.modCore core fun c => { c with mrun := (c.nextWork s.sfc).map fun i => i.runFrom s.sfc false })

/-- R173, R174. An item completes: its semaphore and its M arrival, unless its context has been killed. -/
def State.completeItem (s : State) (k : Nat) (i : MatItem) : State :=
  let s := s.traceCharge k i
  if (s.core k).gone i.ctx then s else s.notify i.notify
/-- R171, R173. The completions that fall in this cycle: items whose last chunk ended four cycles ago, and a TLOAD, DRAIN or MZERO in its
last cycle. -/
def execMatrixItemComplete (core : Nat) (s : State) : Out :=
  if !coreExists core then .fault .noSuchPart
  else
    let k := s.core core
    let due := k.mdone.filter fun d => decide (d.due ≤ s.sfc)
    let s := s.modCore core fun c => { c with mdone := c.mdone.filter fun d => !decide (d.due ≤ s.sfc) }
    let s := due.foldl (fun s d => s.completeItem core d.item) s
    match k.mrun with
    | none => .next s
    | some r =>
      match k.mq.find? fun i => i.order = r.order with
      | none => .next s
      | some i =>
        if i.chunked.isSome || decide (s.sfc < r.ends) then .next s
        else
          let s := i.work.applyWhole s core i.ctx
          let s := s.modCore core fun c => { c with mq := dropItem c.mq i.order }
          let last := match r.cls.index with | some n => i.charge.set n (i.charge[n] + 1) | none => i.charge
          .next (s.completeItem core { i with charge := last })

/-- R169. The next slot of the matrix slot table begins: the current slot is read from SFC, so the turn changes nothing else. -/
def execMatrixSlotTurn (s : State) : Out := .next s

/-! ### Cycle accounting (R175) -/

/-- R175. The class of the present engine cycle, and the item it is charged to.
(Assumption log 34: DEDUCED.) -/
def Core.engineClass (k : Core) (sfc : Nat) : MatClass × Option Nat :=
  match k.mrun with
  | some r => (if sfc ≤ r.reads then .weights else if r.held = some sfc then .drain else r.cls, some r.order)
  | none =>
    match k.mq.find? fun i => i.eligible && i.runs && !k.stepReady i with
    | some i => (.activations, some i.order)
    | none => (.idle, none)
/-- R175. Counts one engine cycle, for the core and for the item it serves.
(Assumption log 34: DEDUCED.) -/
def Core.countEngine (k : Core) (sfc : Nat) : Core :=
  let c := k.engineClass sfc
  match c.1.index with
  | none => k
  | some n =>
    { k with
      mcyc := k.mcyc.set n (k.mcyc[n] + 1)
      mq := k.mq.map fun i => if some i.order = c.2 then { i with charge := i.charge.set n (i.charge[n] + 1) } else i }

end Sys2Proof.Machine
end

