-- ==== Sys2Proof/Machine/Banks.lean ====
section
/-! DEFINITION. Scratchpad banks and their trowel units (spec/16 R255 to R271, 15 R242 to R244): what reaches a bank, in order, and what
its commands do. -/
namespace Sys2Proof.Machine

/-! ### Words of a bank -/

/-- The 32-bit word at a local address. -/
def State.bankWord (s : State) (k a : Nat) : Nat := leValue (s.spadRead k a 4)
/-- Writes a 32-bit word. -/
def State.putWord (s : State) (k a x : Nat) : State := s.spadWrite k a (leBytes 4 (x % 2 ^ 32))

/-! ### What trowel commands compute (R261 to R266) -/

/-- A value rounded to FP32, nearest even. -/
def rne32 (v : FVal × Bool) : Nat := encodeNum 0 .rn false v.1 v.2
/-- FP32 addition, subtraction, product and quotient of codes. -/
def f32Add (x y : Nat) : Nat := rne32 (.add .rn (decodeNum 0 x) (decodeNum 0 y), false)
def f32Sub (x y : Nat) : Nat := rne32 (.add .rn (decodeNum 0 x) (decodeNum 0 y).negate, false)
def f32Mul (x y : Nat) : Nat := rne32 (.mul (decodeNum 0 x) (decodeNum 0 y), false)
def f32Div (x y : Nat) : Nat := rne32 (FVal.div (decodeNum 0 x) (decodeNum 0 y))
/-- R262. exp2n. -/
def f32Exp2 (x : Nat) : Nat := rne32 (FVal.exp2 (decodeNum 0 x))
/-- R261, R264. The sum of two words in a format: rounded FP32, or modulo 2^32. -/
def wordSum (fmt x y : Nat) : Nat := if fmt = 0 then f32Add x y else (x + y) % 2 ^ 32
/-- R261. The new value of word w. -/
def storeOpWord (op fmt w x : Nat) : Nat :=
  if op = 0x08 then wordSum fmt w x else if op = 0x09 then maxNode fmt w x else f32Mul w x
/-- R262. The new pair of a running maximum and its scaled sum. -/
def foldPair (m s x : Nat) : Nat × Nat :=
  if x = 0xFF800000 then (m, s)
  else
    let mn := maxNode 0 m x
    let t := f32Mul s (f32Exp2 (f32Sub m mn))
    let u := f32Exp2 (f32Sub x mn)
    (mn, f32Add t u)
/-- R265. The normalised word. -/
def normWord (x m s : Nat) : Nat := f32Div (f32Exp2 (f32Sub x m)) s
/-- R264. A lane's partial: the words of that lane, folded in ascending order. -/
def lanePartial (node : Nat → Nat → Nat) (ws : List Nat) (l : Nat) : Nat :=
  let mine := (List.range (ws.length / 16)).map fun i => ws[16 * i + l]?.getD 0
  match mine with | [] => 0 | x :: t => t.foldl node x
/-- R264. The fold of a range. -/
def foldRange (node : Nat → Nat → Nat) (ws : List Nat) : Nat := tree16 node ((List.range 16).map (lanePartial node ws))
/-- R261, R262. A store-op command. -/
def State.storeOp (s : State) (k op fmt a : Nat) (clusters : BitVec 8) (v : VReg) : State :=
  (List.range 128).foldl (fun s i =>
    if clusters.getLsbD (i / 16) then
      let x := (v[i]?.getD 0).toNat
      let w := a + 4 * i
      if op = 0x0B then
        let p := foldPair (s.bankWord k w) (s.bankWord k (w + 512)) x
        (s.putWord k w p.1).putWord k (w + 512) p.2
      else s.putWord k w (storeOpWord op fmt (s.bankWord k w) x)
    else s) s
/-- R263 to R265. A range command over n vectors. -/
def State.rangeOp (s : State) (k op fmt a n : Nat) (xb : Word64) : State :=
  let f := xb.toNat % 2 ^ 32
  let p := xb.toNat % 2 ^ 21
  let each (g : State → Nat → Nat) : State :=
    (List.range (128 * n)).foldl (fun s i => s.putWord k (a + 4 * i) (g s i)) s
  let words := (List.range (128 * n)).map fun i => s.bankWord k (a + 4 * i)
  if op = 0x0C then each fun s i => f32Mul (s.bankWord k (a + 4 * i)) f
  else if op = 0x0D then each fun _ _ => f
  else if op = 0x0E then s.putWord k p (foldRange (wordSum fmt) words)
  else if op = 0x0F then s.putWord k p (foldRange (maxNode fmt) words)
  else each fun s i => normWord (s.bankWord k (a + 4 * i)) (s.bankWord k (p + 4 * (i % 128))) (s.bankWord k (p + 512 + 4 * (i % 128)))
/-- R366. What an uncorrectable error makes of a range command, as it begins: a fill writes sound words; the result of a fold over a bad range, and
every word of a normalisation by a bad pair, is bad.
(Assumption log 83: PRESUMED.) -/
def State.rangeErrors (s : State) (k op a n p : Nat) : State :=
  if op = 0x0D then s.heal (spadAddr k a) (512 * n)
  else if (op = 0x0E ∨ op = 0x0F) ∧ s.poisoned (spadAddr k a) (512 * n) then { s with poison := spadAddr k p / 8 * 8 :: s.poison }
  else if op = 0x10 ∧ s.poisoned (spadAddr k p) 1024 then
    { s with poison := (List.range (64 * n)).map (fun i => spadAddr k a + 8 * i) ++ s.poison }
  else s
/-- R266. The new word of an atomic, and whether it fails. -/
def atomicWord (op m v u : Nat) : Nat × Bool :=
  match op with
  | 0x11 => ((m + v) % 2 ^ 32, false)
  | 0x12 => if m + v ≤ u then (m + v, false) else (m, true)
  | 0x13 => (if v ≤ m then 0 else m + 1, false)
  | 0x14 => (if m = 0 ∨ v < m then v else m - 1, false)
  | 0x15 => if m = v then (u, false) else (m, true)
  | _ => (v, false)
/-- R271. The new word of a host atomic. -/
def hostAtomicWord (op : HostAtomOp) (width m a b : Nat) : Nat :=
  match op with
  | .fetchAdd => (m + a) % 2 ^ width
  | .compareSwap => if m = a % 2 ^ width then b % 2 ^ width else m
  | .swap => a % 2 ^ width
/-- R261 to R266. A command is performed: the state, and for an atomic the old word with its failure bit. -/
def TrowelOp.perform (op : TrowelOp) (s : State) (k a : Nat) : State × Nat :=
  match op with
  | .store o fmt clusters v => (s.storeOp k o fmt a clusters v, 0)
  | .range o fmt n xb => ((s.rangeErrors k o a n (xb.toNat % 2 ^ 21)).rangeOp k o fmt a n xb, 0)
  | .atomic o v u =>
    let m := s.bankWord k a
    let r := atomicWord o m v.toNat u.toNat
    (s.putWord k a r.1, m + r.2.toNat * 2 ^ 32)
  | .hostAtomic o wide x y tag =>
    let n := if wide then 8 else 4
    let m := leValue (s.spadRead k a n)
    ((s.spadWrite k a (leBytes n (hostAtomicWord o (8 * n) m x y))).report .response tag 0 [m], m)
/-- R259. The cycles of a command.
(Assumption log 86: DEDUCED.) -/
def TrowelOp.cycles : TrowelOp → Nat
  | .store op _ _ _ => if op = 0x0B then 16 else 8
  | .range op _ n _ => if op = 0x10 then 16 * n else if op = 0x0E ∨ op = 0x0F then 8 * n + 4 else 8 * n
  | .atomic _ _ _ => 1
  | .hostAtomic _ _ _ _ _ => 1

/-! ### Trips back -/

/-- The SFC value at which what a bank of core k has read is back at the core that asked: after `base` cycles for the own core, else a free time
within the bound of a window access (R340), after its way to the bank.
(Assumption log 7: DEDUCED.) -/
def State.tripBack (s : State) (k : Nat) (it : BankItem) (base : Nat) : Nat × State :=
  if it.core = k then (s.sfc + base, s)
  else
    let d := s.drawBelow (if it.core / 128 = k / 128 then 64 else 320)
    (s.sfc + base + d.1, d.2)
/-- Removes the first entry of a bank's order. -/
def State.popBank (s : State) (k b : Nat) : State := s.modBank k b fun x => { x with queue := x.queue.drop 1 }

/-! ### Arrival at a bank (R256, R257, R260, R344) -/

/-- R256, R260, R341. A window access that is not performed: a load or atomic faults with a cause, a command's arrival is made, the rest
is dropped.
(Assumption log 21: DEDUCED.) -/
def State.refuseItem (s : State) (it : BankItem) (cause : Nat) : State :=
  match it.work with
  | .load bid slot off _ _ => s.failLoad it.core it.ctx bid slot off cause
  | .trowel (.atomic _ _ _) _ bid _ => s.failLoad it.core it.ctx bid .e 0 cause
  | .trowel _ _ _ (some e) => s.sendArrival it.core it.ctx e
  | .arrival _ e => s.modBar it.core it.ctx e fun b => { b with out := b.out - 1 }
  | _ => s
/-- R258, R259, R335, R341. A window access or command reaches its bank's order, if its die link carries traffic and the bank is plain storage.
(Assumption log 21: DEDUCED.) -/
def State.arriveAtBank (s : State) (k b : Nat) (it : BankItem) : State :=
  if it.cut || !s.diesJoined (it.core / 128) (k / 128) then s.refuseItem it causeXlate
  else if (s.bank k b).mode.plain then
    let it := match it.work with | .trowel _ _ _ _ => { it with notBefore := s.sfc } | _ => it
    s.modBank k b fun x => x.add { it with came := s.sfc }
  else s.refuseItem it causeAttr
/-- R344. Everything on its way that is due arrives.
(Assumption log 21: DEDUCED.) (Assumption log 22: DESIGN CHOICE.) -/
def State.arriveDue (s : State) : State :=
  let due := s.transit.filter fun t => decide (t.1 ≤ s.sfc)
  due.foldl (fun s t => s.arriveAtBank t.2.1 t.2.2.1 t.2.2.2) { s with transit := s.transit.filter fun t => !decide (t.1 ≤ s.sfc) }

/-! ### Steps of a bank -/

/-- R111. A store is performed two cycles after its issue, before a load that issues then.
(Assumption log 8: DEDUCED.) -/
def BankItem.storeDue (it : BankItem) (k : Nat) (c : Core) : Bool :=
  it.core ≠ k || decide (it.issued + 2 ≤ c.cycle) || (decide (it.issued + 1 ≤ c.cycle) && !c.frozen)
/-- R350 to R353. An access of a core's context at the head of one of its own banks' orders, or a trowel command, is performed only after everything
before its bundle.
(Assumption log 99: DEDUCED.) -/
def State.ripe (s : State) (it : BankItem) (bid : Nat) : Bool := !s.hardBefore it.core it.ctx bid false
/-- R258. The bank performs the access at the head of its order: a store's bytes, an engine's bits, or a load's bytes.
(Assumption log 8: DEDUCED.) -/
def execBankAccess (core bank : Nat) (s : State) : Out :=
  if !coreExists core then .fault .noSuchPart
  else
    match (s.bank core bank).queue with
    | [] => .next s
    | it :: _ =>
      match it.work with
      | .store l => if it.storeDue core (s.core core) then .next ((s.popBank core bank).spadPut core l) else .next s
      | .orWord a m => .next ((s.popBank core bank).spadUpdate core a (leValue (s.spadRead core a 8) ||| m))
      | .load bid slot off a n =>
        if it.core = core && !s.ripe it bid then .next s
        else
          let r := s.tripBack core it (if slot = .b then 3 else 5)
          .next ((r.2.popBank core bank).bindLoad it.core it.ctx bid slot off (spadAddr core a) (s.spadRead core a n) r.1)
      | _ => .next s

/-- R242. One arrival on a barrier word: its new value, and the phase in which it counted. -/
def arriveWord (w : Nat) : Nat × Bool :=
  let expect := bits w 62 32
  let n := bits w 31 0 + 1
  let phase := bitAt w 63
  (if expect ≤ n then (if phase then 0 else 2 ^ 63) + expect * 2 ^ 32 else (if phase then 2 ^ 63 else 0) + expect * 2 ^ 32 + n, phase)
/-- R244. The report of an arrival: PH if it is unset, and one arrival fewer outstanding. -/
def BarState.report (b : BarState) (phase : Bool) : BarState := { b with ph := b.ph.orElse (fun _ => some phase), out := b.out - 1 }
/-- R242, R244. The bank's trowel unit performs the arrival at the head of its order. -/
def execBarrierArrival (core bank : Nat) (s : State) : Out :=
  if !coreExists core then .fault .noSuchPart
  else
    match (s.bank core bank).queue with
    | it :: _ =>
      match it.work with
      | .arrival a e =>
        if it.notBefore ≤ s.sfc then
          let r := arriveWord (leValue (s.spadRead core a 8))
          .next (((s.popBank core bank).spadUpdate core a r.1).modBar it.core it.ctx e fun b => b.report r.2)
        else .next s
      | _ => .next s
    | [] => .next s

/-- R271. A command of the host. -/
def TrowelOp.forHost (op : TrowelOp) : Bool := match op with | .hostAtomic _ _ _ _ _ => true | _ => false
/-- R259. The command at the head of the queue starts, in the cycle after it got there and the command before it ended.
(Assumption log 86: DEDUCED.) (Assumption log 99: DEDUCED.) -/
def execTrowelCommandStart (core bank : Nat) (s : State) : Out :=
  if !coreExists core then .fault .noSuchPart
  else
    match (s.bank core bank).queue with
    | it :: rest =>
      match it.work with
      | .trowel op _ bid _ =>
        if it.ends.isNone ∧ it.notBefore < s.sfc ∧ (op.forHost || s.ripe it bid) then
          .next (s.modBank core bank fun x => { x with queue := { it with ends := some (s.sfc + op.cycles - 1) } :: rest })
        else .next s
      | _ => .next s
    | [] => .next s
/-- R270. The old word of an atomic of a SAVED context is written into its saved landing-slot record, from where a restore takes it. -/
def State.saveSlot (s : State) (k c bid : Nat) (bs : List Byte) : State :=
  let x := s.ctx k c
  if x.status ≠ .saved then s
  else match x.pend.findSome? fun p => if p.bid = bid ∧ p.slot = .e then p.ln else none with
    | some l => s.imageWrite k (x.area + 0x9000 + 512 * l.val) bs
    | none => s
/-- R259, R266. What a performed command tells its context: the old word of an atomic two cycles later, and its E arrival. -/
def State.trowelDone (s : State) (k : Nat) (it : BankItem) (op : TrowelOp) (bid old : Nat) (arr : Option (Fin 16)) : State :=
  let s := match op with
    | .atomic _ _ _ =>
      let r := s.tripBack k it 2
      (r.2.fillLoad it.core it.ctx bid .e 0 (leBytes 8 old) (some r.1)).saveSlot it.core it.ctx bid (leBytes 8 old)
    | _ => s
  match arr with | some e => if (s.core it.core).gone it.ctx then s else s.sendArrival it.core it.ctx e | none => s
/-- R366. An atomic meets an uncorrectable error: its load fails, a host's is answered with it; the word stays. None for the other commands.
(Assumption log 83: PRESUMED.) -/
def TrowelOp.badWord (op : TrowelOp) (s : State) (it : BankItem) (k a bid : Nat) : Option State :=
  match op with
  | .atomic _ _ _ => if s.poisoned (spadAddr k a) 4 then some (s.failLoad it.core it.ctx bid .e 0 causeEcc) else none
  | .hostAtomic _ _ _ _ tag => if s.poisoned (spadAddr k a) 8 then some (s.report .response tag stEcc []) else none
  | _ => none
/-- R258, R259. The running command is performed, in its last cycle, as one unit.
(Assumption log 86: DEDUCED.) -/
def execTrowelCommandPerform (core bank : Nat) (s : State) : Out :=
  if !coreExists core then .fault .noSuchPart
  else
    match (s.bank core bank).queue with
    | it :: _ =>
      match it.work, it.ends with
      | .trowel op a bid arr, some e =>
        if e ≤ s.sfc then
          match op.badWord (s.popBank core bank) it core a bid with
          | some t => .next t
          | none =>
            let r := op.perform (s.popBank core bank) core a
            .next (r.1.trowelDone core it op bid r.2 arr)
        else .next s
      | _, _ => .next s
    | [] => .next s

/-! ### Mode switches (R257) -/

/-- R257. A matrix item may still touch a bank. -/
def MatItem.touches (i : MatItem) (b : Nat) : Bool :=
  match i.work with
  | .routine r => dStepped r.desc || (r.rows.any fun w => decide (w.start < 65536 * (b + 1) ∧ 65536 * b < w.start + w.len))
      || r.planes.any fun p => decide (p.1 < 65536 * (b + 1) ∧ 65536 * b < p.1 + p.2)
  | _ => false
/-- R257. A skim or step command of a core still writes data or a reply into a bank. -/
def SkimCmd.writesInto (q : SkimCmd) (k b : Nat) : Bool :=
  q.core = k && !q.silent && (match q.op with
    | .skr dest reply => dest / 65536 = b || reply / 65536 = b
    | .wld dest _ _ _ => dest / 65536 = b
    | .stepc _ reply => reply.any fun a => a / 65536 = b
    | .stepq reply => reply / 65536 = b
    | _ => false)
/-- R257. An issued bundle of the core still has an access to a bank before it: its own, or one of the command that it gives. -/
def Core.issuedTo (c : Core) (k b : Nat) : Bool :=
  let word (a : Nat) : Bool := a / 65536 = b
  c.ctxs.any fun x =>
    (x.inflight.any fun i => i.eff.any fun e => match e with
      | .spadStore l _ => l.any fun p => word p.1
      | .windowStore _ k' _ _ l => k' = k && l.any fun p => word p.1
      | .trowel k' _ _ a _ _ => k' = k && word a
      | .skim _ _ q => q.writesInto k b
      | .coatw _ w => word w.reply
      | .chan _ q => word q.reply || (match q.op with | .load a n => rangeInBank k b a (8 * n) | .go a _ _ => word a | _ => false)
      | .send src len m => word m.reply || rangeInBank k b src len
      | .card a _ _ _ _ => word a
      | _ => false)
    || x.held.any fun h => match h.work with
      | .load _ _ _ _ _ _ (.spad a) => word a
      | .load _ _ _ _ _ _ (.window k' a) => k' = k && word a
      | .load _ _ _ _ _ _ (.phys _) => false
      | .atomic k' b' _ => k' = k && b' = b
/-- R257. A command of a core that has retired still writes data or a reply word into a bank. -/
def State.answersInto (s : State) (k b : Nat) : Bool :=
  let word (a : Nat) : Bool := a / 65536 = b
  (s.regions.any fun e => (e.2.slices.any fun sl => (sl.transit ++ sl.queue).any fun q => q.writesInto k b)
      || (e.2.counted.any fun w => w.cmd.writesInto k b) || e.2.coatw.any fun w => w.cmd.core = k && !w.cmd.silent && word w.reply)
    || (s.chans.any fun e => e.2.cmds.any fun q => q.core = k && !q.silent && word q.reply)
    || s.messages.any fun m => m.notify.core = k && !m.silent && word m.reply
/-- R257. What the bank completes before it enters CACHE has been completed, but for answers that commands still owe. -/
def Core.cacheReady (c : Core) (k b : Nat) : Bool :=
  (c.bank b).queue.isEmpty && !c.issuedTo k b && !(c.mq.any fun i => i.touches b)
    && !(c.cards.any fun d => decide (d.id < (c.bank b).since))
/-- R257. Brings every set of the first-level cache to its present capacity; dirty bytes go below.
(Assumption log 87: DEDUCED.) -/
def State.shrinkCache (s : State) (k : Nat) : State :=
  let c := s.core k
  let r := c.l1.map fun e => (e.1, evict c.l1Words (e.2.length + 1) e.2)
  let s := (s.setCore k { c with l1 := r.map fun e => (e.1, e.2.1) }).queueBytes k 0 (fun pa => blockPolicy (AMap.getD c.l1 (l1Set pa) []) pa)
    (r.flatMap fun e => e.2.2)
  s.forgetWords k (c.l1.flatMap fun e => e.2) (r.flatMap fun e => e.2.1)
/-- R257. Fills a bank with zeros: no cell of it stays listed.
(Assumption log 87: DEDUCED.) -/
def zeroBank (m : Memory) (k b : Nat) : Memory :=
  m.filter fun e => !(decide (spadAddr k (65536 * b) ≤ e.1 ∧ e.1 < spadAddr k (65536 * b) + 65536))
/-- R256, R257. A bank's switch into or out of CACHE is complete.
(Assumption log 87: DEDUCED.) -/
def execBankmodeSwitchComplete (core bank : Nat) (s : State) : Out :=
  if !coreExists core then .fault .noSuchPart
  else
    let b := s.bank core bank
    let done (s : State) : State := match b.notify with
      | some n => if (s.core n.core).gone n.ctx then s else s.notify n
      | none => s
    match b.mode with
    | .toCache =>
      if (s.core core).cacheReady core bank && !s.answersInto core bank then
        .next (done (s.modBank core bank fun x => { x with mode := .cache, notify := none }))
      else .next s
    | .fromCache =>
      let s := s.modBank core bank fun x => x.enter b.nextMode
      let s := s.shrinkCache core
      .next (done ((s.setMem (zeroBank s.mem core (bank % 32))).heal (spadAddr core (65536 * (bank % 32))) 65536))
    | _ => .next s

end Sys2Proof.Machine
end

