-- ==== Sys2Proof/Machine/Sequencer.lean ====
section
/-! DEFINITION. The copy sequencer (spec/10 R179 to R193): the check of a card, its copies, the chunk bitmap, completion, dependences and
cancellation. -/
namespace Sys2Proof.Machine

/-! ### The check at the start (R180) -/

/-- R180. The first offending field among those listed: an offset and whether the field offends. -/
def firstOffending (l : List (Nat × Bool)) : Option Nat := (l.find? fun p => p.2).map fun p => p.1
/-- R180. Some copy writes a byte outside DST to DST + 32,767. -/
def outsideBitmap (raw : List Byte) : Bool :=
  let reach (pick : Int → Int) : Int := (cardLevels raw).foldl (fun n l => n + pick (((l.count : Int) - 1) * l.dstr)) 0
  decide (0 < cardCopies raw) && (decide (reach (min 0) < 0) || decide (32768 < reach (max 0) + cardLen raw))
/-- R180. The byte offset of a card's first offending field; `cap` is the capacity of the hawk it names. -/
def cardOffence (raw : List Byte) (cap : Nat) : Option Nat :=
  let ctrl := cardCtrl raw
  let len := cardLen raw
  firstOffending
    ([(0x00, bits ctrl 3 0 ≠ 1 || bits ctrl 63 50 ≠ 0 || bits ctrl 9 4 ≠ 0 || len < 4 || 65532 < len || len % 4 ≠ 0
          || 8 < cardNfp raw || (cardHen raw && cap = 0)),
      (0x08, decide (cardSrc raw % 4 ≠ 0)),
      (0x10, cardDst raw % 4 ≠ 0 || (cardBmen raw && outsideBitmap raw))]
      ++ ((List.range 6).flatMap fun l =>
        [(0x2C + 12 * l, decide (rawVal raw (0x2C + 12 * l) 4 % 4 ≠ 0)), (0x30 + 12 * l, decide (rawVal raw (0x30 + 12 * l) 4 % 4 ≠ 0))])
      ++ ((List.range 8).map fun f =>
        let w := rawVal raw (0x78 + 16 * f) 8
        (0x78 + 16 * f, bits w 63 41 ≠ 0 || (f < cardNfp raw && bits w 39 0 = 0)))
      ++ [(0xF0, decide (rawVal raw 0xF0 16 ≠ 0))])

/-! ### Copies (R179, R181) -/

/-- The pieces of a range, cut at 64-byte boundaries: address and length. -/
def sectorPieces (a n : Nat) : Nat → List (Nat × Nat)
  | 0 => []
  | fuel + 1 =>
    if n = 0 then []
    else
      let m := min n (64 - a % 64)
      (a, m) :: sectorPieces (a + m) (n - m) fuel
/-- R181, R218. The bank of a card's own core is open to a copy under way: its task's, not yet passed on, and plain, or completing what
came before its switch. -/
def Core.openTo (c : Core) (d : Card) (b : Nat) : Bool :=
  ((c.ctx d.ctx).task.map fun t => t.id) = (c.bank b).owner && (c.bank b).owner.isSome
    && ((c.bank b).mode.plain || ((c.bank b).mode = .toCache && decide (d.id < (c.bank b).since)))
/-- R181, R256, R257, R341. A byte that a copy touches by a window address; an own bank on its way to CACHE completes the copies of cards accepted
before. -/
def State.copyWindow (s : State) (k : Nat) (d : Card) (k' x : Nat) : Except Nat Where :=
  let m := (s.bank k' (x / 65536)).mode
  if !s.diesJoined (k / 128) (k' / 128) then .error stLink
  else if m.plain || (k = k' && m = .toCache && decide (d.id < (s.bank k' (x / 65536)).since)) then .ok (.window k' x) else .error stAttr
/-- R181. The place of a piece of a copy, or the status it faults with.
(Assumption log 41: DEDUCED.) -/
def State.copyPlace (s : State) (k : Nat) (d : Card) (write : Bool) (a : Nat) : Except Nat Where :=
  match spaceOf a with
  | .spad x => if (s.core k).openTo d (x / 65536) then .ok (.spad x) else .error stAttr
  | .window k' x => s.copyWindow k d k' x
  | .bad => .error stXlate
  | .global va =>
    match translate s (k / 128) va with
    | none => .error stXlate
    | some l =>
      if !l.allows write then .error stAttr
      else if bitAt l.pa 47 then s.copyWindow k d (bits l.pa 29 21) (bits l.pa 20 0)
      else if l.remote && !s.remoteFlows k l.pa then .error stLink
      else if !l.remote && !s.diesJoined (k / 128) (homeDie l.pa) then .error stLink
      else .ok (.phys l.pa)
/-- R340. Bytes of another module: free values. -/
def remoteBytes (free pa n : Nat) : List Byte := (List.range n).map fun i => (Config.freeWord (free + pa + i)).truncate 8
/-- The bytes of a piece as a card of a context reads them, or ECC_UNCORRECTABLE. -/
def State.copyRead (s : State) (k c : Nat) (w : Where) (n : Nat) : Except Nat (List Byte) :=
  match w with
  | .spad a => if s.poisoned (spadAddr k a) n then .error stEcc else .ok (s.engineSpad k c a n)
  | .window k' a => if s.poisoned (spadAddr k' a) n then .error stEcc else .ok ((List.range n).map fun i => s.windowByte k c k' (a + i))
  | .phys pa =>
    if remotePa pa then .ok (remoteBytes s.free pa n)
    else if s.badBytes k pa n then .error stEcc
    else .ok ((List.range n).map fun i => s.enginePhys k (pa + i))
/-- An engine of core k writes the bytes of a piece for a context: in the bank's order (R258), or at its home. -/
def State.copyWrite (s : State) (k c : Nat) (w : Where) (bs : List Byte) : State :=
  match w with
  | .spad a => s.engineWrite k c a bs
  | .window k' a => s.engineWriteBy k (engineParty c) k' a bs
  | .phys pa =>
    if remotePa pa then s
    else
      let s := ((bytesAt pa bs).foldl (fun s p => s.homeWrite k p.1 p.2) s).landSectors [pa]
      { s with poison := healed s.poison pa bs.length }
/-- The results of pieces in order, or the first failure. -/
def allOk {α : Type} : List (Except Nat α) → Except Nat (List α)
  | [] => .ok []
  | .error e :: _ => .error e
  | .ok a :: l => match allOk l with | .ok t => .ok (a :: t) | .error e => .error e
/-- R180. A range lies within one footprint that passes a test. -/
def insideFootprint (raw : List Byte) (a : Int) (n : Nat) (ok : Footprint → Bool) : Bool :=
  (cardFootprints raw).any fun f => ok f && decide ((f.base : Int) ≤ a ∧ a + n ≤ (f.base + f.len : Nat))
/-- A piece of a copy: its address and length, and where it lies. -/
abbrev CopyPiece := (Nat × Nat) × Where
/-- R179 to R181. The pieces that copy q reads and those that it writes, or the status it faults with.
(Assumption log 41: DEDUCED.) -/
def State.copyPieces (s : State) (k : Nat) (d : Card) (q : Nat) : Except Nat (List CopyPiece × List CopyPiece) :=
  let ad := copyAddrs d.raw q
  let n := cardLen d.raw
  let place (write : Bool) (p : Nat × Nat) : Except Nat CopyPiece := (s.copyPlace k d write p.1).map fun w => (p, w)
  if ad.1 < 0 ∨ ad.2 < 0 ∨ 2 ^ 64 < ad.1 + n ∨ 2 ^ 64 < ad.2 + n then .error stXlate
  else if d.queue.isSome && !(insideFootprint d.raw ad.1 n (fun _ => true) && insideFootprint d.raw ad.2 n (fun f => f.w)) then .error stAttr
  else
    match allOk ((sectorPieces ad.1.toNat n (n + 1)).map (place false)) with
    | .error e => .error e
    | .ok srcs =>
      match allOk ((sectorPieces ad.2.toNat n (n + 1)).map (place true)) with
      | .error e => .error e
      | .ok dsts => .ok (srcs, dsts)
/-- R258, R358. A piece of a copy in a bank, whose access reaches it at moment t, waits for a command or an arrival that had reached the bank by then,
and in another core's bank for the context's own accesses that were on their way when the card was accepted.
(Assumption log 36: DEDUCED.) -/
def State.pieceWaits (s : State) (k : Nat) (d : Card) (t : Nat) (w : Where) : Bool :=
  let ahead (k' a : Nat) : Bool := (s.bank k' (a / 65536)).queue.any fun it => it.bars t
  match w with
  | .spad a => ahead k a
  | .window k' a => ahead k' a || s.transit.any fun t => t.2.1 = k' && t.2.2.1 = a / 65536
      && t.2.2.2.core = k && t.2.2.2.ctx = d.ctx && decide (t.2.2.2.sent ≤ d.since)
  | .phys _ => false
/-- R20, R258, R329. Whether a piece can be read or written now: its bank has performed what comes before it; the sector of DRAM that is read is in
the last-level cache or in a WIN entry, one of an armed pass's storage that is written in a WIN entry.
(Assumption log 25: DEDUCED.) -/
def State.pieceOpen (s : State) (k : Nat) (d : Card) (write : Bool) (t : Nat) (w : Where) : Bool × State :=
  match w with
  | .phys pa => if remotePa pa then (true, s) else if write then (s.homeOpen [pa], s) else s.fetchSectors [pa]
  | w => (!s.pieceWaits k d t w, s)
/-- R184. A piece takes a request: it is not in the own scratchpad. -/
def pieceFar (p : CopyPiece) : Bool := match p.2 with | .spad _ => false | _ => true
/-- R184. How far copy q of a core's card has come. -/
def State.cardRun (s : State) (k id q : Nat) : CopyRun :=
  match (s.core k).cards.find? fun d => d.id = id with | some d => d.run q | none => {}
def State.setRun (s : State) (k id q : Nat) (r : CopyRun) : State :=
  s.modCore k fun c => { c with cards := c.cards.map fun x => if x.id = id then { x with runs := AMap.set x.runs q r } else x }
/-- A copy has read, or written, a piece; it has read its first n pieces. -/
def CopyRun.did (r : CopyRun) (i : Nat) : Bool := (AMap.get? r.data i).isSome || r.wrote.contains i
def CopyRun.readAll (r : CopyRun) (n : Nat) : Bool := (List.range n).all r.did
/-- R143, R184, R276. A copy sends a sector as soon as a request is free; it is translated, and served a free time later.
(Assumption log 7: DEDUCED.) -/
def State.sendSector (s : State) (k id q : Nat) (e : Nat × CopyPiece) : State :=
  let r := s.cardRun k id q
  if !pieceFar e.2 || r.did e.1 || (r.reqs.any fun x => x.1 = e.1) || decide (768 ≤ s.requestsOut k) then s
  else
    let t := s.translated k e.2.1.1
    ({ t.2 with free := t.2.free + 1 }).setRun k id q { r with reqs := r.reqs ++ [(e.1, t.1 + Config.draw t.2.free)] }
/-- R179, R184, R188. Piece number e.1 of a copy is read, or written with the bytes read, if its turn has come; `due` is the moment at which a piece
in the own scratchpad reaches its bank, n the number of pieces read, `start` the first byte written. -/
def State.servePiece (s : State) (k : Nat) (d : Card) (q due n start : Nat) (e : Nat × CopyPiece) : State :=
  let r := s.cardRun k d.id q
  let write := decide (n ≤ e.1)
  let t := if pieceFar e.2 then (r.reqs.find? fun x => x.1 = e.1).map fun x => x.2 else some (min due s.sfc)
  match t with
  | none => s
  | some t =>
    if r.bad.isSome || r.did e.1 || (write && !r.readAll n) || decide (s.sfc < t) then s
    else
      let o := s.pieceOpen k d write t e.2.2
      let r := { r with reqs := r.reqs.filter fun x => x.1 ≠ e.1 }
      if !o.1 then o.2
      else if write then
        let bs := (List.range n).flatMap fun i => AMap.getD r.data i []
        (o.2.copyWrite k d.ctx e.2.2 ((bs.drop (e.2.1.1 - start)).take e.2.1.2)).setRun k d.id q { r with wrote := e.1 :: r.wrote }
      else match o.2.copyRead k d.ctx e.2.2 e.2.1.2 with
        | .error x => o.2.setRun k d.id q { r with bad := some x, reqs := [] }
        | .ok bs => o.2.setRun k d.id q { r with data := AMap.set r.data e.1 bs }
/-- R184. Copy q goes on: it sends what it may and reads, and once everything is read it writes. The answer tells whether it is over: all of it
written, or a piece unreadable.
(Assumption log 41: DESIGN CHOICE.) -/
def State.copyOpen (s : State) (k : Nat) (d : Card) (q : Nat) (srcs dsts : List CopyPiece) : Bool × State :=
  let n := srcs.length
  let due := match d.copies.find? fun p => p.1 = q with | some p => p.2 | none => 0
  let l := (List.range (n + dsts.length)).zip (srcs ++ dsts)
  let go (s : State) (l : List (Nat × CopyPiece)) : State :=
    l.foldl (fun s e => s.servePiece k d q due n (copyAddrs d.raw q).2.toNat e) (l.foldl (fun s e => s.sendSector k d.id q e) s)
  let s := go s (l.take n)
  let r := s.cardRun k d.id q
  let s := if r.bad.isNone && r.readAll n then go s (l.drop n) else s
  let r := s.cardRun k d.id q
  (r.bad.isSome || r.readAll (n + dsts.length), s)
/-- R179, R185, R188. What has become of copy q, which is over: the state, or the status it faults with, none of its destination written.
(Assumption log 41: DESIGN CHOICE.) -/
def State.copyWords (s : State) (k : Nat) (d : Card) (q : Nat) : Except Nat State :=
  match (s.cardRun k d.id q).bad with | some e => .error e | none => .ok s

/-! ### The chunk bitmap (R186) -/

/-- R186. Copy q writes into chunk i. -/
def writesChunk (raw : List Byte) (i q : Nat) : Bool :=
  let a := (copyAddrs raw q).2 - (cardDst raw : Int)
  decide (a < 512 * (i + 1) ∧ 512 * i < a + cardLen raw)
/-- R186. No copy that has yet to write, or has failed to, reaches chunk i. -/
def Card.chunkDry (d : Card) (i : Nat) : Bool :=
  !(d.copies.any fun p => writesChunk d.raw i p.1) && !(d.failed.any fun q => writesChunk d.raw i q)
    && !((List.range (cardCopies d.raw - d.next)).any fun j => writesChunk d.raw i (d.next + j))
/-- R186. The mask of chunks that every writing copy has written. -/
def Card.dryChunks (d : Card) : Nat := (List.range 64).foldl (fun m i => if d.chunkDry i then m + 2 ^ i else m) 0
/-- R188. The fault of the lowest copy stands. -/
def lowestFault (old : Option (Nat × Nat × Nat)) (q status : Nat) : Option (Nat × Nat × Nat) :=
  match old with
  | some f => if f.1 < q then some f else some (q, status, q % 2 ^ 32)
  | none => some (q, status, q % 2 ^ 32)
/-- R186, R366. Sets the bits of a card's BITMAP that have become due, by an OR into the word as it stands when the bank performs it; where the word has
an uncorrectable error, the card's last copy fails. -/
def State.setChunks (s : State) (k : Nat) (d : Card) : State × Card :=
  if cardBmen d.raw then
    let m := d.dryChunks
    let new := m - (m &&& d.chunkDone)
    let a := d.addr + 0x20
    let bad := s.poisoned (spadAddr k a) 8
    let s := if new = 0 then s else s.engineOr k d.ctx a new
    let q := d.next - 1
    (s, if new ≠ 0 && bad then { d with chunkDone := d.chunkDone ||| m, stopped := true, fault := lowestFault d.fault q stEcc }
        else { d with chunkDone := d.chunkDone ||| m })
  else (s, d)

/-! ### Steps -/

/-- Replaces an accepted card. -/
def State.putCard (s : State) (k : Nat) (d : Card) : State :=
  s.modCore k fun c => { c with cards := c.cards.map fun x => if x.id = d.id then d else x }
/-- The copies of one card that the model lets be in flight together (assumption log 40).
(Assumption log 40: DESIGN CHOICE.) -/
def copiesInFlight : Nat := 4
/-- R181. A range of the core's scratchpad touches a bank that is not in BANKOWN. -/
def Core.notOwned (c : Core) (ctx : Nat) (a : Int) (n : Nat) : Bool :=
  decide (0 ≤ a) && (List.range 32).any fun b =>
    decide (a.toNat < 65536 * (b + 1) ∧ 65536 * b < a.toNat + n) && !c.holds ctx b
/-- R181, R184. The next copy of a card starts, with a free time to finish; the check of BANKOWN is made at the start.
(Assumption log 40: DESIGN CHOICE.) (Assumption log 41: DEDUCED.) -/
def Card.startCopy (d : Card) (c : Core) (sfc free : Nat) : Card :=
  let ad := copyAddrs d.raw d.next
  let bad := c.notOwned d.ctx ad.1 (cardLen d.raw) || c.notOwned d.ctx ad.2 (cardLen d.raw)
  { d with next := d.next + 1, copies := d.copies ++ [(d.next, sfc + 4 + Config.draw free)],
           barred := if bad then d.next :: d.barred else d.barred }
/-- R184. A card goes on starting copies in copy order.
(Assumption log 7: DEDUCED.) (Assumption log 40: DESIGN CHOICE.) -/
def State.feedCard (s : State) (k id : Nat) : Nat → State
  | 0 => s
  | fuel + 1 =>
    match (s.core k).cards.find? fun d => d.id = id with
    | none => s
    | some d =>
      if !d.started ∨ d.stopped ∨ cardCopies d.raw ≤ d.next ∨ copiesInFlight ≤ d.copies.length then s
      else State.feedCard ({ s.putCard k (d.startCopy (s.core k) s.sfc s.free) with free := s.free + 1 }) k id fuel
/-- R184. Every running card of a core goes on. -/
def State.feedCards (s : State) : State :=
  s.cores.foldl (fun s e => e.2.cards.foldl (fun s d => s.feedCard e.1 d.id copiesInFlight) s) s
/-- R184, R192. A card is ready to start. -/
def Card.ready (d : Card) : Bool := !d.started && d.deps.isEmpty && d.failedDep.isNone && !d.stopped
/-- R180, R184, R186. The first ready card in acceptance order starts: checked, the bits of chunks that it does not write set, its first
copies under way. -/
def execCardStart (core : Nat) (s : State) : Out :=
  if !coreExists core then .fault .noSuchPart
  else
    let c := s.core core
    match c.cards.find? Card.ready with
    | none => .next s
    | some d =>
      let cap := ((c.ctx d.ctx).hawks[fin16 (cardHawk d.raw)]).cap
      match cardOffence d.raw cap with
      | some off => .next (s.putCard core { d with started := true, stopped := true, fault := some (0, stAttr, off) })
      | none =>
        let r := s.setChunks core { d with started := true }
        .next ((r.1.putCard core r.2).feedCard core d.id copiesInFlight)

/-- R188. Copy q of a card has faulted: no copy starts after it, and nothing of its destination has been written.
(Assumption log 41: DESIGN CHOICE.) -/
def Card.failCopy (d : Card) (q status : Nat) : Card :=
  { d with stopped := true, failed := q :: d.failed, fault := lowestFault d.fault q status, copies := d.copies.filter fun p => p.1 ≠ q }
/-- R184 to R186, R188. Copy q of a card goes on, and finishes once its bytes are read and written: its chunks' bits are set; or it faults. -/
def execCopyComplete (core card q : Nat) (s : State) : Out :=
  if !coreExists core then .fault .noSuchPart
  else
    match (s.core core).cards.find? fun d => d.id = card with
    | none => .next s
    | some d =>
      if !(d.copies.any fun p => p.1 = q) then .next s
      else
        match (if d.barred.contains q then .error stAttr else s.copyPieces core d q) with
        | .error e => .next (s.putCard core (d.failCopy q e))
        | .ok (srcs, dsts) =>
          let r := s.copyOpen core d q srcs dsts
          if !r.1 then .next r.2
          else
            match r.2.copyWords core d q with
            | .error e => .next (r.2.putCard core (d.failCopy q e))
            | .ok s =>
              let r := s.setChunks core { d with okCount := d.okCount + 1, copies := d.copies.filter fun p => p.1 ≠ q }
              .next ((r.1.putCard core r.2).feedCard core d.id copiesInFlight)

/-- R188. The detail of a CANCELLED card whose predecessor is a card: die, core and card address. -/
def cardDetail (k addr : Nat) : Nat := k / 128 % 4 * 2 ^ 28 + k % 128 * 2 ^ 21 + addr % 2 ^ 21
/-- R191, R192. A job or launch (by its order number) has completed: those that wait for it go on, or are cancelled with `failed`.
(Assumption log 44: DEDUCED.) -/
def State.resolve (s : State) (id : Nat) (failed : Option Nat) : State :=
  let card (d : Card) : Card := if d.deps.contains id then
    { d with deps := d.deps.filter fun x => x ≠ id, failedDep := d.failedDep.orElse fun _ => failed } else d
  let launch (l : Launch) : Launch := if l.deps.contains id then
    { l with deps := l.deps.filter fun x => x ≠ id, failedDep := l.failedDep || failed.isSome } else l
  { s with cores := s.cores.map fun e => (e.1, { e.2 with cards := e.2.cards.map card }), launches := s.launches.map launch }
/-- R253. The sectors of global memory that a card's copies write. -/
def State.cardSectors (s : State) (k : Nat) (d : Card) : List Nat :=
  (List.range d.next).flatMap fun q =>
    (sectorPieces ((copyAddrs d.raw q).2.toNat) (cardLen d.raw) (cardLen d.raw + 1)).filterMap fun p =>
      match s.copyPlace k d true p.1 with | .ok (.phys pa) => some (pa / 64) | _ => none
/-- R187, R188. The status and detail with which a card completes, if it is due. -/
def Card.outcome (d : Card) : Option (Nat × Nat) :=
  if !d.copies.isEmpty then none
  else if d.silent then some (stCancelled, 0)
  else if !d.started then d.failedDep.map fun x => (stCancelled, x)
  else match d.fault with
    | some f => some (f.2.1, f.2.2)
    | none => if cardCopies d.raw ≤ d.next then some (stOk, 0) else none
/-- R187, R192, R193, R358. A card completes: the hawk advance of an OK card, CWORD, the semaphore, the E arrival, and what waits for it; the
releases that its context makes from then on cover the card's writes.
(Assumption log 42: DEDUCED.) -/
def execCardComplete (core card : Nat) (s : State) : Out :=
  if !coreExists core then .fault .noSuchPart
  else
    match (s.core core).cards.find? fun d => d.id = card with
    | none => .next s
    | some d =>
      match d.outcome with
      | none => .next s
      | some (status, detail) =>
        let h := fin16 (cardHawk d.raw)
        let n := cardHcnt d.raw + 1
        let hawk := (s.ctx core d.ctx).hawks[h]
        let advance := status = stOk ∧ cardHen d.raw = true
        if advance ∧ hawk.free < n then .next s
        else
          let s := if advance then s.advanceHawk core d.ctx h n else s
          let word := d.addr + 0x18
          let sectors := s.cardSectors core d
          let s := s.releaseWord core d.ctx (spadAddr core word) 3 sectors
          let s := if d.silent then s else s.covers core d.ctx sectors
          let s := s.spadWord core d.ctx word (statusWord status d.okCount detail)
          let s := s.freeFootprints core d.ctx d.drawn d.fromDie
          let s := s.modCore core fun c => { c with cards := c.cards.filter fun x => x.id ≠ d.id }
          let s := s.resolve d.id (if status = stOk then none else some (cardDetail core d.addr))
          .next (if d.silent then s else s.notify d.notify)

end Sys2Proof.Machine
end

