-- ==== Sys2Proof/Machine/Loader.lean ====
section
/-! DEFINITION. Kernel images (spec/12 R210 to R214): their layout, the checks of a load, and the kernel that passes them. -/
namespace Sys2Proof.Machine

/-- An n-byte field of an image; bytes beyond its end read 0. -/
def imgVal (img : List Byte) (off n : Nat) : Nat := leValue ((img.drop off).take n)
/-- A range lies inside the image. -/
def imgInside (img : List Byte) (off n : Nat) : Bool := decide (off + n ≤ img.length)

/-! ### The header (R210) -/

def imgNlines (img : List Byte) : Nat := imgVal img 0x10 4
def imgNsten (img : List Byte) : Nat := imgVal img 0x14 2
def imgBookmap (img : List Byte) : Nat := imgVal img 0x20 32
def imgClaim (img : List Byte) : Nat := imgVal img 0x78 4
def imgNdata (img : List Byte) : Nat := imgVal img 0x88 4
/-- R210. The present pattern-book entries, ascending. -/
def imgBookEntries (img : List Byte) : List Nat := (List.range 256).filter fun i => bitAt (imgBookmap img) i
/-- R211. A loop-table level's 8 bytes. -/
def imgLevel (img : List Byte) (l : Nat) : Nat := imgVal img (0x48 + 8 * l) 8
/-- R211. The kind of a level. -/
def levelKind (w : Nat) : LevelKind := match bits w 1 0 with | 1 => .c | 2 => .d | _ => .t
/-- R211. A level. -/
def levelOf (w : Nat) : KLevel := { kind := levelKind w, src := bitAt w 2, argw := bits w 7 3, count := bits w 63 32 }

/-- R210. A data record as it lies in the image: its first word and its bytes. -/
structure ImageRecord where
  word : Nat
  bytes : List Byte
  deriving DecidableEq, Repr
/-- R210. The address of a record. -/
def ImageRecord.addr (r : ImageRecord) : Nat := bits r.word 20 0
/-- R210. The data records from an offset on; none if one lies outside the image. What stands in the padding after a record's bytes is not looked at:
R210 has zeros there, and R214 names no check of them.
(Assumption log 104: DESIGN CHOICE.) -/
def imgRecords (img : List Byte) (off : Nat) : Nat → Option (List ImageRecord)
  | 0 => some []
  | n + 1 =>
    let w := imgVal img off 8
    let len := bits w 47 32 + 1
    let size := 8 + (len + 7) / 8 * 8
    if imgInside img off size then
      (imgRecords img (off + size) n).map fun l => { word := w, bytes := (img.drop (off + 8)).take len } :: l
    else none

/-- R210. The first words of the data records that lie in the image, up to the first that does not. -/
def imgRecordWords (img : List Byte) (off : Nat) : Nat → List Nat
  | 0 => []
  | n + 1 =>
    let w := imgVal img off 8
    if imgInside img off 8 then w :: imgRecordWords img (off + 8 + (bits w 47 32 + 8) / 8 * 8) n else []

/-! ### The checks of a load (R214) -/

/-- R214, VERSION. The version is not 1, or a reserved field is set. A level with SRC = 1 and a COUNT other than the zero of R211 is refused here: R214
names no code for it.
(Assumption log 45: DEDUCED.) (Assumption log 104: DESIGN CHOICE.) -/
def imgBadVersion (img : List Byte) : Bool :=
  imgVal img 0 4 ≠ 1 || imgVal img 0x16 2 ≠ 0 || bits (imgVal img 0x7C 4) 31 11 ≠ 0 || imgVal img 0x8C 4 ≠ 0
  || ((List.range 6).any fun l => bits (imgLevel img l) 31 8 ≠ 0 || (bitAt (imgLevel img l) 2 && bits (imgLevel img l) 63 32 ≠ 0))
  || (imgRecordWords img (imgVal img 0x80 8) (imgNdata img)).any fun w => bits w 63 48 ≠ 0 || bits w 31 21 ≠ 0
/-- R214, SIZE. -/
def imgBadSize (img : List Byte) : Bool :=
  decide (img.length < 144) || decide (imgNlines img ≤ imgVal img 0x04 4) || imgNlines img = 0 || decide (2 ^ 20 < imgNlines img)
  || decide (512 < imgNsten img) || !imgInside img (imgVal img 0x08 8) (32 * imgNlines img)
  || !imgInside img (imgVal img 0x18 8) (32 * imgNsten img)
  || !imgInside img (imgVal img 0x40 8) (32 * (imgBookEntries img).length)
  || !imgInside img (imgVal img 0x80 8) 0 || (imgRecords img (imgVal img 0x80 8) (imgNdata img)).isNone
/-- R24. D levels come first, then C levels, then T levels. -/
def levelsOrdered : List LevelKind → Bool
  | a :: b :: l => (match a, b with | .t, .t => true | .t, _ => false | .c, .d => false | _, _ => true) && levelsOrdered (b :: l)
  | _ => true
/-- R214, LOOPORDER. -/
def imgBadLoops (img : List Byte) : Bool :=
  let ls := (List.range 6).map (imgLevel img)
  (ls.any fun w => bits w 1 0 = 3 || (!bitAt w 2 && bits w 7 3 ≠ 0)) || !levelsOrdered (ls.map levelKind)
/-- R210. The descriptors with their entries. -/
def imgBook (img : List Byte) : AMap (BitVec 256) :=
  let es := imgBookEntries img
  (List.range es.length).zip es |>.map fun p => (p.2, BitVec.ofNat 256 (imgVal img (imgVal img 0x40 8 + 32 * p.1) 32))
/-- R214, BOOK. -/
def imgBadBook (img : List Byte) : Bool := (imgBook img).any fun e => !descValid e.2
/-- The banks a record touches. -/
def ImageRecord.banks (r : ImageRecord) : List Nat :=
  (List.range 32).filter fun b => decide (r.addr < 65536 * (b + 1) ∧ 65536 * b < r.addr + r.bytes.length)
/-- Two records share a byte. -/
def ImageRecord.meets (r q : ImageRecord) : Bool := decide (r.addr < q.addr + q.bytes.length ∧ q.addr < r.addr + r.bytes.length)
/-- Some record of a list meets a later one. -/
def recordsMeet : List ImageRecord → Bool
  | [] => false
  | r :: l => (l.any fun q => r.meets q) || recordsMeet l
/-- R214, DATA. -/
def recordsBad (claim : Nat) (rs : List ImageRecord) : Bool :=
  (rs.any fun r => decide (0x200000 < r.addr + r.bytes.length) || r.banks.any fun b => !bitAt claim b) || recordsMeet rs
/-- R214. The first failing code of a load, or 0. -/
def imgRefusal (img : List Byte) : Nat :=
  if imgBadVersion img then 1
  else if imgBadSize img then 2
  else if imgBadLoops img then 3
  else if imgBadBook img then 4
  else if recordsBad (imgClaim img) ((imgRecords img (imgVal img 0x80 8) (imgNdata img)).getD []) then 5
  else 0

/-- R210. n 256-bit values at an offset. -/
def imgWords (img : List Byte) (off n : Nat) : List (BitVec 256) :=
  (List.range n).map fun i => BitVec.ofNat 256 (imgVal img (off + 32 * i) 32)
/-- R210, R213. The kernel of an image that passes every check. -/
def kernelOf (img : List Byte) : Kernel :=
  { state := .loaded, entry := imgVal img 0x04 4, code := imgWords img (imgVal img 0x08 8) (imgNlines img),
    sten := (List.range (imgNsten img)).zip (imgWords img (imgVal img 0x18 8) (imgNsten img)), book := imgBook img,
    levels := (List.range 6).map fun l => levelOf (imgLevel img l), claim := imgClaim img, res := bits (imgVal img 0x7C 4) 10 0,
    data := ((imgRecords img (imgVal img 0x80 8) (imgNdata img)).getD []).map fun r => (r.addr, r.bytes), image := img }

end Sys2Proof.Machine
end

