-- ==== Sys2Proof/Machine/Scheduler.lean ====
section
/-! DEFINITION. The task schedulers (spec/12 R212, R213, R215 to R220, 13 R225 to R235, 14 R236 to R241): launches, their pool, dispatch and
placement, hand-over of banks, decisions of LAUNCH and CANCEL, and completion. -/
namespace Sys2Proof.Machine

/-! ### A launch's descriptor (R212, R226, R227) -/

/-- R212. The trip count of a level. -/
def tripCount (desc : List Byte) (l : KLevel) : Nat := if l.src then rawVal desc (4 * l.argw) 4 else l.count
/-- R25. The product of the trip counts of the levels that a test selects. -/
def countsOver (kinds : List LevelKind) (counts : List Nat) (sel : LevelKind → Bool) : Nat :=
  (kinds.zip counts).foldl (fun n p => if sel p.1 then n * p.2 else n) 1
/-- A level that the scheduler runs. -/
def LevelKind.spatial : LevelKind → Bool | .t => false | _ => true
def LevelKind.isD : LevelKind → Bool | .d => true | _ => false
def LevelKind.isC : LevelKind → Bool | .c => true | _ => false
/-- R226. Fields of the control block. -/
def ctlCwaddr (d : List Byte) : Nat := rawVal d 0x68 8
def ctlKernel (d : List Byte) : Nat := rawVal d 0x70 4
def ctlCres (d : List Byte) : Nat := bits (rawVal d 0x74 4) 11 0
def ctlCq (d : List Byte) : Nat := bits (rawVal d 0x74 4) 15 12
def ctlLs (d : List Byte) : Bool := bitAt (rawVal d 0x74 4) 16
def ctlFpen (d : List Byte) : Bool := bitAt (rawVal d 0x74 4) 17
/-- R227. The footprint card of a launch: a record of its kernel that is a card at FPCARD.
(Assumption log 45: DEDUCED.) -/
def fpCard (d : List Byte) (kn : Kernel) : Option (List Byte) :=
  let a := 256 * bits (rawVal d 0x78 4) 12 0
  (kn.data.find? fun r => r.1 = a ∧ r.2.length = 256).map fun r => r.2
/-- R227. The footprints of a launch. -/
def launchFootprints (d : List Byte) (kn : Kernel) : List Footprint :=
  if ctlFpen d then
    match fpCard d kn with
    | some raw => (cardFootprints raw).map fun f => { f with base := (f.base + rawVal d 0x60 8) % 2 ^ 64 }
    | none => []
  else []
/-- R227, R237, R241, R390. The checks of a launch at its acceptance.
(Assumption log 45: DEDUCED.) -/
def launchOk (d : List Byte) (kn : Kernel) (priv det : Bool) : Bool :=
  let counts := kn.levels.map (tripCount d)
  let kinds := kn.levels.map fun l => l.kind
  let perDie := (countsOver kinds counts LevelKind.isD + 3) / 4 * countsOver kinds counts LevelKind.isC
  kn.state = .loaded && bits (rawVal d 0x74 4) 31 18 = 0 && bits (rawVal d 0x78 4) 31 13 = 0 && rawVal d 0x7C 4 = 0
  && ctlCwaddr d % 8 = 0
  && (!ctlFpen d || match fpCard d kn with | some raw => (cardOffence raw 1).isNone | none => false)
  && (!ctlLs d || priv) && (!det || decide (perDie ≤ 384))

/-! ### The pool (R228, R229) -/

/-- R228. Free entries of a die's pool. -/
def Die.poolFree (d : Die) : Nat := 4096 - d.poolUsed.length - d.poolHeld
/-- R229. The entry that a new launch takes: the lowest free one.
(Assumption log 43: DESIGN CHOICE.) -/
def Die.freeEntry (d : Die) : Nat := ((List.range 4096).find? fun e => !d.poolUsed.contains e).getD 0
/-- R229. The next generation of an entry: 1 to 16,383, skipping 0.
(Assumption log 43: DESIGN CHOICE.) -/
def Die.nextGen (d : Die) (e : Nat) : Nat := AMap.getD d.poolGen e 0 % 16383 + 1
/-- R229. A handle.
(Assumption log 43: DESIGN CHOICE.) -/
def handleOf (die gen entry : Nat) : Nat := die % 4 * 2 ^ 26 + gen * 2 ^ 12 + entry
/-- R225. The queue of a die. -/
def Die.queue (d : Die) (q : Nat) : LaunchQueue := d.queues[fin16 q]
/-- R225. Changes a queue of a die. -/
def State.modQueue (s : State) (die q : Nat) (f : LaunchQueue → LaunchQueue) : State :=
  s.modDie die fun d => { d with queues := d.queues.set (fin16 q) (f (d.queue q)) }
/-- R225. A queue accepts launches. -/
def QueueState.accepts : QueueState → Bool | .draining => false | .faulted => false | _ => true
/-- R225. A queue dispatches tasks. -/
def QueueState.dispatches : QueueState → Bool | .paused => false | .faulted => false | _ => true
/-- R228, R231. The die whose pool holds a launch's entries: the die of its handle. A child's entries are its parent's reserved ones, in the
pool of the parent's handle, whatever die runs its parent's task.
(Assumption log 43: DESIGN CHOICE.) -/
def poolDie (handle : Nat) : Nat := handle / 2 ^ 26 % 4
/-- R212, R227, R228. A launch is accepted: its handle, counts, edges, pool and footprint entries. A child's entries come from its parent's
reservation. -/
def State.acceptLaunch (s : State) (die q : Nat) (d : List Byte) (kn : Kernel) (priv : Bool) (parent : Option Nat) : Nat × State :=
  let pd := match parent with | some p => poolDie p | none => die % 4
  let e := (s.die pd).freeEntry
  let g := (s.die pd).nextGen e
  let h := handleOf pd g e
  let fps := launchFootprints d kn
  let kinds := kn.levels.map fun l => l.kind
  let counts := kn.levels.map (tripCount d)
  let held := ctlCres d + (if parent.isSome then fps.length else 0)
  let l : Launch :=
    { handle := h, die := die, queue := q, seq := s.nextSeq, kernel := ctlKernel d, desc := d, counts := counts,
      tasks := countsOver kinds counts LevelKind.spatial, dispatched := 0, ended := 0, gone := 0, cancelled := none, parent := parent,
      pool := held, freeReserve := ctlCres d, footprints := fps, fpOn := ctlFpen d, res := kn.res, resFree := [],
      deps := if fps.isEmpty then [] else s.edgesTo die q fps, failedDep := false, deterministic := ((s.die die).queue q).det, priv := priv,
      lockstep := ctlLs d, cwaddr := ctlCwaddr d, group := .none, start := none, lastPlaced := 0, killTags := [] }
  let s := s.modDie pd fun x => { x with
    poolUsed := e :: x.poolUsed, poolGen := AMap.set x.poolGen e g,
    poolHeld := if parent.isSome then x.poolHeld - 1 else x.poolHeld + held }
  let s := s.modDie die fun x => { x with fpUsed := if parent.isSome then x.fpUsed else x.fpUsed + fps.length }
  let s := match parent with
    | some p => s.modLaunch p fun x => { x with freeReserve := x.freeReserve - (1 + held) }
    | none => s
  let s := s.modQueue die q fun x => { x with state := if x.state = .idle then .active else x.state }
  (h, { s with launches := s.launches ++ [l], nextSeq := s.nextSeq + 1 })
/-- R231, R227. The decision on a launch: the status and, when it is accepted, the handle. -/
def State.decideLaunch (s : State) (die q : Nat) (d : List Byte) (priv : Bool) (parent : Option Nat) : Nat × Nat × State :=
  match AMap.get? s.kernels (ctlKernel d) with
  | none => (stAttr, 0, s)
  | some kn =>
    if !launchOk d kn priv ((s.die die).queue q).det then (stAttr, 0, s)
    else if !((s.die die).queue q).state.accepts || ((s.die die).pairs[(⟨q / 4 % 4, Nat.mod_lt _ (by decide)⟩ : Fin 4)]).stopped then
      (stCancelled, 0, s)
    else
      let nfp := (launchFootprints d kn).length
      let full := match parent with
        | some p => match s.launch? p with | some l => decide (l.freeReserve < 1 + ctlCres d + nfp) | none => true
        | none => decide ((s.die die).poolFree < 1 + ctlCres d) || decide (1024 < (s.die die).fpUsed + nfp)
      if full then (stPoolFull, 0, s)
      else
        let r := s.acceptLaunch die q d kn priv parent
        (stOk, r.1, r.2)

/-! ### Completion (R225, R228, R233, R390) -/

/-- R233. The reasons of a CANCELLED launch.
(Assumption log 44: DEDUCED.) -/
def Launch.reason (l : Launch) : Option Nat :=
  match l.cancelled with
  | some r => some r
  | none => if l.failedDep then some 3 else if 0 < l.gone then some 1 else none
/-- R233. The completion word.
(Assumption log 44: DEDUCED.) -/
def Launch.word (l : Launch) : Nat :=
  match l.reason with
  | none => statusWord stOk l.ended 0
  | some r => statusWord stCancelled l.ended (r * 2 ^ 30)
/-- R390. The store of a completion word at a global address, or the status with which it is dropped and reported.
(Assumption log 24: DEDUCED.) (Assumption log 42: DEDUCED.) -/
def State.storeWord (s : State) (die addr word : Nat) : Except Nat State :=
  match spaceOf addr with
  | .global va =>
    match translate s die va with
    | none => .error stXlate
    | some l =>
      if !l.allows true then .error stAttr
      else if bitAt l.pa 47 then
        let k := bits l.pa 29 21
        let a := bits l.pa 20 0
        if !s.diesJoined die (k / 128) then .error stLink
        else .ok ((s.releaseWord (128 * die) schedParty (spadAddr k a) 4 []).spadWord k schedParty a word)
      else if l.remote then (if s.remoteFlows (128 * die) l.pa then .ok s else .error stLink)
      else if !s.diesJoined die (homeDie l.pa) then .error stLink
      else .ok ((s.releaseWord (128 * die) schedParty (l.pa / 8 * 8) 4 []).homeStore l.pa (leBytes 8 word))
  | _ => .error stXlate
/-- R390. Stores a completion word, or drops it and tells the host: address, status and subject.
(Assumption log 24: DEDUCED.) (Assumption log 42: DEDUCED.) -/
def State.writeCompletion (s : State) (die addr word subject : Nat) : State :=
  if addr = 0 then s
  else match s.storeWord die addr word with
    | .ok s => s
    | .error e => s.report .event subject e [addr]
/-- R213. A RETIRING kernel with no launch in flight becomes RETIRED.
(Assumption log 92: DEDUCED.) -/
def State.settleKernel (s : State) (kn : Nat) : State :=
  match AMap.get? s.kernels kn with
  | some x =>
    if x.state = .retiring ∧ ¬ (s.launches.any fun l => l.kernel = kn) then
      { s with kernels := AMap.set s.kernels kn { x with state := .retired } }
    else s
  | none => s
/-- R225. The queue of a launch that has just left the list of those in flight.
(Assumption log 92: DEDUCED.) -/
def State.settleQueue (s : State) (l : Launch) : State :=
  let last := !(s.launches.any fun x => x.die = l.die ∧ x.queue = l.queue)
  let bad := l.reason = some 1 ∨ l.reason = some 3
  s.modQueue l.die l.queue fun q => { q with state :=
    match q.state with
    | .active => if bad then .faulted else if last then .idle else .active
    | .draining => if bad then .faulted else if last then .idle else .draining
    | .paused => if bad then .faulted else .paused
    | x => x }
/-- R228. The entries of a launch that completes: its own and its reserved ones go to its parent while that is in flight, else to the pool;
those that its children hold stay with them.
(Assumption log 92: DEDUCED.) -/
def State.releasePool (s : State) (l : Launch) : State :=
  let spare := l.freeReserve + (l.pool - ctlCres l.desc)
  let parent := l.parent.bind fun p => s.launch? p
  let s := s.modDie (poolDie l.handle) fun d => { d with
    poolUsed := d.poolUsed.filter fun e => e ≠ l.handle % 4096,
    poolHeld := if parent.isSome then d.poolHeld + 1 else d.poolHeld - spare }
  let s := s.modDie l.die fun d => { d with fpUsed := if l.parent.isSome then d.fpUsed else d.fpUsed - l.footprints.length }
  match parent with
  | some p => s.modLaunch p.handle fun x => { x with freeReserve := x.freeReserve + 1 + spare }
  | none => s
/-- R216. The reserved footprint entries go back on every die. -/
def State.releaseReserve (s : State) (l : Launch) : State :=
  l.resFree.foldl (fun s e => s.modDie e.1 fun d => { d with fpUsed := d.fpUsed - l.res }) s
/-- R233. A launch completes.
(Assumption log 44: DEDUCED.) (Assumption log 92: DEDUCED.) -/
def State.finishLaunch (s : State) (l : Launch) : State :=
  let s := { s with launches := s.launches.filter fun x => x.handle ≠ l.handle }
  let s := s.writeCompletion l.die l.cwaddr l.word l.handle
  let s := s.report .completion l.handle (l.word / 2 ^ 56) [l.word]
  let s := (s.releasePool l).releaseReserve l
  let s := s.resolve l.seq (if l.reason.isNone then none else some ((Config.freeWord s.free).toNat % 2 ^ 30))
  let s := { s with free := s.free + 1 }
  let s := (s.settleQueue l).settleKernel l.kernel
  l.killTags.foldl (fun s t => s.report .response t stOk []) s
/-- R235. The launch at the head of a queue: the first in acceptance order that still has tasks to dispatch, or none at all. -/
def State.queueHead (s : State) (die q : Nat) : Option Launch :=
  s.launches.find? fun l => l.die = die ∧ l.queue = q ∧ l.cancelled.isNone ∧ ¬ l.failedDep ∧ (l.dispatched < l.tasks ∨ l.tasks = 0)
/-- R227, R235. A launch is the head of a queue that dispatches, and dispatchable. -/
def State.dispatchable (s : State) (l : Launch) : Bool :=
  ((s.die l.die).queue l.queue).state.dispatches && l.deps.isEmpty && !l.failedDep
    && (match s.queueHead l.die l.queue with | some h => decide (h.handle = l.handle) | none => false)
/-- R25, R233. A launch is complete: every task has ended, none will be dispatched and none runs, or it has no task and its turn has come.
(Assumption log 45: DEDUCED.) -/
def State.launchDone (s : State) (l : Launch) : Bool :=
  if l.cancelled.isSome || l.failedDep then decide (l.dispatched = l.ended + l.gone)
  else if l.tasks = 0 then s.dispatchable l
  else decide (l.dispatched = l.tasks ∧ l.dispatched = l.ended + l.gone)
/-- R233. LAUNCH_COMPLETE. -/
def execLaunchComplete (handle : Nat) (s : State) : Out :=
  match s.launch? handle with
  | some l => if s.launchDone l then .next (s.finishLaunch l) else .next s
  | none => .next s

/-! ### Cancelling (R232, R233) -/

/-- R229, R232. A handle names a launch that has completed: the last one that held its pool entry.
(Assumption log 46: DEDUCED.) -/
def State.completed (s : State) (h : Nat) : Bool :=
  decide (h < 2 ^ 28) && bits h 25 12 ≠ 0 && AMap.get? (s.die (poolDie h)).poolGen (h % 4096) = some (bits h 25 12)
/-- R232. CANCEL of a handle: the result code, and the launch with no further task to dispatch. Of a launch with no tasks at all both the first and the
third row of R232 hold: the answer is that of the third, and nothing changes.
(Assumption log 106: DESIGN CHOICE.) -/
def State.cancelLaunch (s : State) (h : Nat) : Nat × State :=
  match s.launch? h with
  | none => (if s.completed h then 2 else 3, s)
  | some l =>
    if l.dispatched = l.tasks then (2, s)
    else
      let s := s.modLaunch h fun x => { x with cancelled := x.cancelled.orElse (fun _ => some 0), group := .draining }
      if l.dispatched = 0 then
        (0, match s.launch? h with | some x => s.finishLaunch x | none => s)
      else (1, s)
/-- R233. QRESET of a launch: it has undispatched tasks and will dispatch none. -/
def Launch.reset (l : Launch) (die q : Nat) : Launch :=
  if l.die = die ∧ l.queue = q ∧ l.dispatched < l.tasks ∧ l.cancelled.isNone then { l with cancelled := some 2, group := .draining } else l

/-! ### Placement (R153, R212, R215, R216, R236, R237, R241) -/

/-- R236. The loop indices of a linear index over the spatial levels, level 0 most significant. -/
def taskIndices (kinds : List LevelKind) (counts : List Nat) (n : Nat) : List Nat :=
  ((kinds.zip counts).foldr (fun p (acc : Nat × List Nat) =>
    if p.1.spatial then (acc.1 / max 1 p.2, acc.1 % max 1 p.2 :: acc.2) else (acc.1, 0 :: acc.2)) (n, [])).2
/-- R236. The linear index over the levels of one kind. -/
def indexOver (kinds : List LevelKind) (counts idx : List Nat) (sel : LevelKind → Bool) : Nat :=
  ((kinds.zip counts).zip idx).foldl (fun n p => if sel p.1.1 then n * p.1.2 + p.2 else n) 0
/-- R216. The banks of a claim. -/
def claimBanks (claim : Nat) : List Nat := (List.range 32).filter fun b => bitAt claim b
/-- R153, R216, R241. A core may take a task of a kernel.
(Assumption log 37: DEDUCED.) -/
def State.coreAllows (s : State) (k : Nat) (kn : Kernel) (h : Nat) (ls : Bool) : Bool :=
  let c := s.core k
  ((claimBanks kn.claim).all fun b => (c.bank b).owner.isNone || (c.bank b).pledge.isNone)
  && (c.ctxs.all fun x => match x.task with
      | some t => (t.kernel = h || match AMap.get? s.kernels t.kernel with
          | some o => o.book.all fun e => (AMap.get? kn.book e.1).isNone | none => true) && !(ls && x.lockstep)
      | none => true)
/-- R237. The lowest-numbered FREE context of a core. -/
def Core.freeCtx (c : Core) : Option Nat := [0, 1, 2, 3].find? fun i => (c.ctx i).status = .free
/-- R237. Where the next task of a launch goes on a die: core and context. -/
def State.placeFor (s : State) (l : Launch) (kn : Kernel) (die ci : Nat) : Option (Nat × Nat) :=
  if !s.diesJoined l.die die then none
  else if l.deterministic then
    let k := 128 * die + ci % 96
    if ((s.core k).ctx (ci / 96)).status = .free ∧ ci / 96 < 4 ∧ s.coreAllows k kn l.kernel l.lockstep then some (k, ci / 96) else none
  else
    (List.range 96).findSome? fun i =>
      let k := 128 * die + i
      if s.coreAllows k kn l.kernel l.lockstep then (s.core k).freeCtx.map fun c => (k, c) else none
/-- R216, R236. The dies of a launch. -/
def Launch.dies (l : Launch) (kn : Kernel) : List Nat :=
  let n := countsOver (kn.levels.map fun x => x.kind) l.counts LevelKind.isD
  (List.range (min 4 n)).map fun j => (l.die + j) % 4
/-- R216, R19. The launch's footprint entries are reserved on its dies, or may be, which the die links then reach. -/
def State.reserveOk (s : State) (l : Launch) (kn : Kernel) : Bool :=
  !l.resFree.isEmpty || (l.dies kn).all fun d => s.diesJoined l.die d && decide ((s.die d).fpUsed + l.res ≤ 1024)
/-- R216. Reserves them at the first placement. -/
def State.reserve (s : State) (l : Launch) (kn : Kernel) : State :=
  if l.resFree.isEmpty then
    let s := (l.dies kn).foldl (fun s d => s.modDie d fun x => { x with fpUsed := x.fpUsed + l.res }) s
    s.modLaunch l.handle fun x => { x with resFree := (l.dies kn).foldl (fun m d => AMap.set m d l.res) [] }
  else s
/-- R216, R219. The part of a data record that lies in a bank. -/
def recordIn (b : Nat) (r : Nat × List Byte) : Nat × List Byte :=
  let lo := max r.1 (65536 * b)
  let hi := min (r.1 + r.2.length) (65536 * (b + 1))
  (lo, (r.2.drop (lo - r.1)).take (hi - lo))
/-- R216, R219, R212. Writes into a bank its data records, and the descriptor if the bank is the highest of the claim. -/
def State.fillBank (s : State) (k b : Nat) (kn : Kernel) (desc : List Byte) : State :=
  let s := kn.data.foldl (fun s r => let p := recordIn b r; if p.2.isEmpty then s else s.engineWriteBy k schedParty k p.1 p.2) s
  if Nat.log2 kn.claim = b then s.engineWriteBy k schedParty k (65536 * b + 0xFF80) desc else s
/-- R153. Writes a kernel's pattern-book image into a core's book, unless the core's entries of it are still the kernel's own.
(Assumption log 37: DEDUCED.) -/
def Core.writeBook (c : Core) (kn : Kernel) (h now : Nat) : Core :=
  if kn.book.all fun e => AMap.get? c.bookOwner e.1 = some h then c
  else { c with book := kn.book.foldl (fun m e => AMap.set m e.1 e.2) c.book,
                bookOwner := kn.book.foldl (fun m e => AMap.set m e.1 h) c.bookOwner
                bookAt := kn.book.foldl (fun m e => AMap.set m e.1 now) c.bookAt }
/-- R195, R208, R215. The registers of a task at its start.
(Assumption log 47: DEDUCED.) -/
def startRegs (kn : Kernel) (det : Bool) (t : Task) : Regs :=
  let level (f : Nat → Nat → Nat) : Vector Word64 6 := Vector.ofFn fun i : Fin 6 =>
    match t.kinds[i.val]?, t.counts[i.val]?, t.idx[i.val]? with
    | some kd, some n, some x => if kd.spatial then BitVec.ofNat 64 (f n x) else 0
    | _, _, _ => 0
  { Regs.reset with pc := 32 * kn.entry, sten := kn.sten, li := level fun _ x => x, lc := level fun n x => n - x - 1, detmode := det }
/-- R195. A context as a task starts on it.
(Assumption log 14: DEDUCED.) (Assumption log 47: DEDUCED.) -/
def startCtx (kn : Kernel) (l : Launch) (t : Task) (old : Ctx) : Ctx :=
  { Ctx.reset with status := .ready, regs := startRegs kn l.deterministic t, priv := l.priv, lockstep := l.lockstep, task := some t,
                   nextBid := old.nextBid, area := old.area, fresh := true }
/-- R216, R258, R360. Places a task on a context: banks taken or pledged, records and descriptor written, the pattern book, the core's first-level
copies dropped, and the context READY; BLOCKED as long as writes into a bank wait there behind what reached it before.
(Assumption log 100: DESIGN CHOICE.) -/
def State.placeTask (s : State) (k c : Nat) (kn : Kernel) (l : Launch) (idx : List Nat) (index : Nat) : State :=
  let t : Task := { id := s.nextTask, launch := l.handle, kernel := l.kernel, index := index, counts := l.counts,
                    kinds := kn.levels.map (fun x => x.kind), idx := idx, started := false }
  let banks := claimBanks kn.claim
  let mine := banks.filter fun b => (s.bank k b).owner.isNone
  let s := banks.foldl (fun s b => s.modBank k b fun x =>
    if x.owner.isNone then { x with owner := some t.id } else { x with pledge := some t.id }) s
  let s := mine.foldl (fun s b => s.fillBank k b kn l.desc) s
  let s := s.modCore k fun x => x.writeBook kn l.kernel s.clocks
  let s := ((s.dropCopies k c (fun _ => true)).heal (stenWord k c 0) (2 ^ 12))
  let s := kn.book.foldl (fun s e => s.heal (bookWord k e.1) 8) s
  let s := s.modCtx k c (startCtx kn l t)
  let s := if (s.core k).placing c then s.modCtx k c fun x => { x with status := .blocked } else s
  { s with nextTask := s.nextTask + 1 }
/-- R232, R236 to R238. The next task of a launch is dispatched, if it can be placed. -/
def State.dispatchTask (s : State) (l : Launch) : Option State :=
  match AMap.get? s.kernels l.kernel with
  | none => none
  | some kn =>
    let kinds := kn.levels.map fun x => x.kind
    let idx := taskIndices kinds l.counts l.dispatched
    let die := (l.die + indexOver kinds l.counts idx LevelKind.isD) % 4
    if !s.reserveOk l kn then none
    else match s.placeFor l kn die (indexOver kinds l.counts idx LevelKind.isC) with
      | none => none
      | some (k, c) =>
        let s := (s.reserve l kn).placeTask k c kn l idx l.dispatched
        some (s.modLaunch l.handle fun x => { x with
          dispatched := x.dispatched + 1, lastPlaced := s.sfc,
          group := if x.deterministic ∧ x.dispatched + 1 < x.tasks then .forming
                   else if x.group = .running then .running else .bound })
/-- R238. The states of groups as far as dispatch moves them: FORMING at the head, DRAINING when a running group has no task left to place. -/
def State.turnGroups (s : State) (die : Nat) : State :=
  let turn (l : Launch) : Launch :=
    if l.die ≠ die then l
    else if l.group = .none ∧ s.dispatchable l then { l with group := .forming }
    else if l.group = .running ∧ l.dispatched = l.tasks then { l with group := .draining }
    else l
  { s with launches := s.launches.map turn }
/-- R224, R235. The heads that may dispatch, by priority and then acceptance. -/
def State.heads (s : State) (die : Nat) : List Launch :=
  let hs := (List.range 16).filterMap fun q =>
    match s.queueHead die q with | some l => if s.dispatchable l && decide (0 < l.tasks) then some l else none | none => none
  [0, 1, 2, 3].flatMap fun p =>
    (hs.filter fun l => l.queue / 4 = p).mergeSort fun a b => decide (a.seq ≤ b.seq)
/-- R216, R386. A task of a die is placed but for writes that wait at its banks: the die's scheduler places no later one. -/
def State.placing (s : State) (die : Nat) : Bool := s.cores.any fun e => decide (e.1 / 128 = die) && [0, 1, 2, 3].any e.2.placing
/-- R235, R216, R386. A scheduling round of a die: the first head that can place a task dispatches it, once the placement before is complete.
(Assumption log 46: DEDUCED.) -/
def execDispatchRound (die : Nat) (s : State) : Out :=
  if 4 ≤ die then .fault .noSuchPart
  else
    let s := s.turnGroups die
    match if s.placing die then none else (s.heads die).findSome? fun l => s.dispatchTask l with
    | some s => .next (s.turnGroups die)
    | none => .next s

/-- R239. The start of a deterministic group whose last task has been placed: the least multiple of 64 that is at least 1,024 cycles on. -/
def startOf (t : Nat) : Nat := (t + 1024 + 63) / 64 * 64
/-- R239. A context of a core k of a deterministic group gets the group's start as frame origin and first issue. -/
def Ctx.giveStart (handle at_ : Nat) (x : Ctx) : Ctx :=
  match x.task with
  | some t => if t.launch = handle then x.modRegs fun r => { r with startAt := some at_, origin := BitVec.ofNat 64 at_ } else x
  | none => x
/-- R239, R339. The home scheduler fixes the start of a BOUND deterministic group: every task gets it as frame origin and first issue, over the die
links; while one of them carries no traffic, the group waits.
(Assumption log 101: DESIGN CHOICE.) -/
def execGroupStart (handle : Nat) (s : State) : Out :=
  match s.launch? handle with
  | none => .next s
  | some l =>
    let reached := s.cores.all fun e => s.diesJoined l.die (e.1 / 128) || e.2.ctxs.all fun x => match x.task with
      | some t => t.launch ≠ handle | none => true
    if l.deterministic ∧ l.group = .bound ∧ l.start.isNone ∧ reached then
      let at_ := startOf l.lastPlaced
      let s := s.modLaunch handle fun x => { x with start := some at_ }
      .next { s with cores := s.cores.map fun e => (e.1, { e.2 with ctxs := e.2.ctxs.map (Ctx.giveStart handle at_) }) }
    else .next s

/-! ### Hand-over of banks (R218 to R220) -/

/-- The context of a core that runs a task. -/
def Core.ctxOf (c : Core) (task : Nat) : Option Nat := [0, 1, 2, 3].find? fun i => match (c.ctx i).task with | some t => t.id = task | none => false
/-- R218. A card has still to write into a bank of its core k: its completion word and bitmap, or the bytes of a copy under way or to come. -/
def Card.writesBank (d : Card) (k b : Nat) : Bool :=
  d.addr / 65536 = b || (d.copies.map (fun p => p.1) ++ d.toStart).any fun q => rangeInBank k b (copyAddrs d.raw q).2 (cardLen d.raw)
/-- R218. Every store, command, card write and DRAIN write of a context into a bank of core k has been performed. -/
def Core.bankQuiet (c : Core) (k ctx b : Nat) : Bool :=
  !((c.bank b).queue.any fun it => it.mine k ctx) && !(c.mq.any fun i => i.ctx = ctx && i.touches b)
    && !(c.cards.any fun d => d.ctx = ctx && d.writesBank k b)
/-- R219. The scheduler writes records and descriptor of a bank's pledgee into it. -/
def State.fillPledged (s : State) (k b : Nat) : State :=
  let x := s.bank k b
  match x.pledge.bind (s.core k).ctxOf with
    | some c => match (s.ctx k c).task with
      | some t => match AMap.get? s.kernels t.kernel, s.launch? t.launch with
        | some kn, some l => s.fillBank k b kn l.desc
        | _, _ => s
      | none => s
    | none => s
/-- R219. A bank passes to its pledgee, or becomes FREE. -/
def State.passBank (s : State) (k b : Nat) : State :=
  s.modBank k b fun y => { y with owner := y.pledge, pledge := none, releasing := false, passing := false }
/-- R218, R219. BANK_HANDOVER: records and descriptor first, then the bank passes, once they are performed. -/
def execBankHandover (core bank : Nat) (s : State) : Out :=
  if !coreExists core then .fault .noSuchPart
  else
    let b := s.bank core bank
    let quiet := match b.owner.bind (s.core core).ctxOf with | some c => (s.core core).bankQuiet core c (bank % 32) | none => true
    let s := if b.releasing && quiet && !b.passing then (s.fillPledged core (bank % 32)).modBank core bank fun y => { y with passing := true } else s
    if (s.bank core bank).passing && !(s.bank core bank).filling then .next (s.passBank core (bank % 32)) else .next s
/-- R220. The banks of a task that has ended or been killed are released, and its pledges on banks it never received are cancelled. -/
def Core.releaseTask (c : Core) (task : Nat) : Core :=
  let f (b : Bank) : Bank :=
    { b with releasing := b.releasing || b.owner = some task, pledge := if b.pledge = some task then none else b.pledge }
  { c with banks := c.banks.map f }

/-! ### LAUNCH and CANCEL (R230 to R232) -/

/-- R230. A request may be decided: read, every earlier bundle of its context retired, and its own bundle without a fault, the data of its other
loads there.
(Assumption log 38: DEDUCED.) -/
def State.requestReady (s : State) (r : SchedReq) : Bool :=
  let x := s.ctx r.core r.ctx
  let safe (p : Pend) : Bool := p.fault.isNone && match p.kind with
    | .load _ parts => p.answer || parts.all fun q => q.data.isSome | _ => true
  decide (r.readyAt ≤ s.sfc) && (match x.inflight with
    | b :: _ => decide (b.bid = r.bid) && b.fault.isNone && (x.pend.all fun p => p.bid ≠ r.bid || safe p)
    | [] => false)
/-- R230, R366. The trap that an error in the descriptor, a load's compare (R364) or a withheld effect of a request's bundle raises before the decision: the bundle then traps and
the scheduler applies nothing. -/
def State.requestTrap (s : State) (r : SchedReq) : Option Trap × State :=
  match (s.ctx r.core r.ctx).inflight with
  | b :: _ =>
    if r.sectors.any fun a => s.poisoned a 64 then (some (landFault causeEcc 1 r.ea), s) else
    let t := s.earlyFault r.core r.ctx ((s.ctx r.core r.ctx).pend.filter fun p => p.bid = b.bid && p.isLoad && !p.answer)
    (t.1.orElse fun _ => firstFailure (b.eff.flatMap fun e => t.2.effectTraps r.core r.ctx e), t.2)
  | [] => (none, s)
/-- R230. Marks the oldest bundle of a context as faulting. -/
def Ctx.faultOldest (x : Ctx) (t : Trap) : Ctx :=
  { x with inflight := match x.inflight with | b :: l => { b with fault := some t } :: l | [] => [] }
/-- R20, R230 to R232. The scheduler decides one request of its die whose descriptor it has read: xd's value, written in the landing cycle. A context
whose task names no launch in flight (one placed by hand) has no reservation to draw on: its LAUNCH is answered with POOL_FULL.
(Assumption log 105: DESIGN CHOICE.) -/
def execLaunchDecision (die : Nat) (s : State) : Out :=
  if 4 ≤ die then .fault .noSuchPart
  else
    let s := s.sched.foldl (fun s r => if decide (r.core / 128 = die ∧ r.readyAt ≤ s.sfc) then (s.fetchSectors r.sectors).2 else s) s
    match s.sched.find? fun r => decide (r.core / 128 = die) && s.requestReady r && (s.fetchSectors r.sectors).1 with
    | none => .next s
    | some r =>
      let t := s.requestTrap r
      let s := t.2
      match t.1 with
      | some t => .next (s.modCtx r.core r.ctx fun x => x.faultOldest t)
      | none =>
      let s := { s with sched := s.sched.filter fun x => x.seq ≠ r.seq }
      let answer (s : State) (x : Nat) : State :=
        (s.fillLoad r.core r.ctx r.bid .c 0 (leBytes 8 x) (some s.sfc)).modCtx r.core r.ctx fun y =>
          { y with inflight := y.inflight.map fun i => if i.bid = r.bid then { i with final := true } else i }
      match r.cancel with
      | some h => let d := s.cancelLaunch (h % 2 ^ 32); .next (answer d.2 d.1)
      | none =>
        let par := ((s.ctx r.core r.ctx).task.bind fun t => s.launch? t.launch)
        match par with
        | none => .next (answer s (stPoolFull * 2 ^ 56))
        | some p =>
          let d := s.decideLaunch die (ctlCq p.desc) r.desc false (some p.handle)
          .next (answer d.2.2 (d.1 * 2 ^ 56 + d.2.1))

end Sys2Proof.Machine
end

