-- ==== Sys2Proof/Machine/Contexts.lean ====
section
/-! DEFINITION. What firmware and messages do to contexts (spec/11 R201 to R205, R207, 02 R38 and R44, 09 R174, 10 R193, 12 R220, 16 R270,
18 R299, 19 R312 and R314, 20 R330, 21 R344): pre-emption, the save image, restore, kill, the drains, and delivery. -/
namespace Sys2Proof.Machine

/-! ### What a context still has under way (R201, R204, R207) -/

/-- R207. A skim or step command of a context. -/
def SkimCmd.ofCtx (q : SkimCmd) (k c : Nat) : Bool := q.core = k && q.ctx = c
/-- A completion that is told to a context. -/
def Notify.ofCtx (n : Notify) (k c : Nat) : Bool := n.core = k && n.ctx = c
/-- R207, R299. A region holds a command of a context. -/
def Region.holds (g : Region) (k c : Nat) : Bool :=
  (g.coatw.any fun w => w.cmd.ofCtx k c) || (g.counted.any fun w => w.cmd.ofCtx k c)
    || g.slices.any fun sl => (sl.transit ++ sl.queue).any fun q => q.ofCtx k c
/-- R201, R204, R207. Engine items, cards, trowel commands, stores and arrivals on their way to a bank, or commands of a context that have
not completed.
(Assumption log 48: DEDUCED.) -/
def State.owes (s : State) (k c : Nat) : Bool :=
  let core := s.core k
  (core.cards.any fun d => d.ctx = c) || (core.mq.any fun i => i.ctx = c) || (core.mdone.any fun d => d.item.ctx = c)
    || (s.cores.any fun e => e.2.banks.any fun b => b.queue.any fun it => it.mine k c) || (s.transit.any fun t => t.2.2.2.mine k c)
    || (s.regions.any fun e => e.2.holds k c)
    || (s.chans.any fun e => e.2.cmds.any fun q => q.notify.ofCtx k c)
    || (s.messages.any fun m => m.notify.ofCtx k c)
    || (core.banks.any fun b => match b.notify with | some n => n.ofCtx k c | none => false)

/-! ### Pre-emption (R201 to R203) -/

/-- R201. The context may be pre-empted or is being. -/
def CtxStatus.preemptible : CtxStatus → Bool
  | .running => true | .ready => true | .blocked => true | .dormant => true | .trapped => true | _ => false
/-- R201, step 1. The context issues no further bundle. -/
def execPreemptRequest (core ctx area : Nat) (s : State) : Out :=
  if !coreExists core then .fault .noSuchPart
  else if (s.ctx core ctx).status.preemptible then
    .next (s.modCtx core ctx fun x => { x with preempt := some area, area := area })
  else .next s

/-- R202. The saved control registers, in ascending number order. -/
def Ctx.savedCsrs (x : Ctx) (k : Core) (c sfc : Nat) : List Nat :=
  let r := x.regs
  [r.trapvec.toNat, r.trapcause.toNat, r.trappc.toNat, r.trapslot.toNat, r.trapinfo.toNat, 2 * r.hnd.toNat + x.priv.toNat, r.msginfo.toNat,
   r.trapnpc.toNat, r.memdef.toNat, r.clm.toNat, r.stepref.toNat, r.framelen.toNat, framePos sfc r.origin.toNat r.framelen.toNat, k.bankOwn c]
    ++ r.lc.toList.map BitVec.toNat ++ r.li.toList.map BitVec.toNat ++ r.harm.toList.map BitVec.toNat
    ++ [x.cycle, x.retired.toNat, r.detmode.toNat, x.lockstep.toNat]
/-- R202. The code of a state in the header of an image.
(Assumption log 98: DESIGN CHOICE.) -/
def CtxStatus.code : CtxStatus → Nat
  | .free => 0 | .ready => 1 | .running => 2 | .blocked => 3 | .dormant => 4 | .trapped => 5 | .saved => 6 | .killed => 7
/-- R202. The version of an image. -/
def imageVersion : Nat := 1
/-- R202. The header: version, state, privilege and HND, prev_stamp, program counter and frame origin.
(Assumption log 98: DESIGN CHOICE.) -/
def Ctx.imageHeader (x : Ctx) : List Byte :=
  leBytes 1 imageVersion ++ leBytes 1 x.status.code ++ leBytes 1 (x.priv.toNat + 2 * x.regs.hnd.toNat) ++ leBytes 1 (x.regs.prevStamp.getD 255)
    ++ leBytes 4 0 ++ leBytes 8 x.regs.pc ++ leBytes 8 x.regs.origin.toNat ++ List.replicate 232 0
/-- R202. A barrier entry as 16 bytes: the bound address, whether it is bound, W, PH and the arrivals outstanding.
(Assumption log 98: DESIGN CHOICE.) -/
def barImage (addr : Option Nat) (b : BarState) : List Byte :=
  leBytes 8 (addr.getD 0) ++ leBytes 1 addr.isSome.toNat ++ b.image
/-- R202. Predicates, semaphores, hawks, offset pointers and offsets, and barrier entries, in that order from 0x400 on.
(Assumption log 98: DESIGN CHOICE.) -/
def Ctx.imageSmall (x : Ctx) : List Byte :=
  let r := x.regs
  r.p.toList.flatMap (fun b => leBytes 1 b.toNat) ++ x.sm.toList.flatMap (fun w => leBytes 1 w.toNat) ++ x.hawks.toList.flatMap Hawk.image
    ++ r.mp.toList.flatMap (fun w => leBytes 8 w.toNat) ++ r.mo.toList.flatMap (fun m => leBytes 4 m.off.toNat ++ leBytes 4 m.inc.toNat)
    ++ (List.range 16).flatMap fun i => barImage (r.barAddr[i]?.getD none) (x.bars[i]?.getD ⟨false, none, 0⟩)
/-- R202. The vector predicates of each cluster, then the loop state, from 0xB00 on.
(Assumption log 98: DESIGN CHOICE.) -/
def Regs.imageLoops (r : Regs) : List Byte :=
  ((List.range 8).flatMap fun cl => r.vp.toList.flatMap fun p =>
    leBytes 2 ((List.range 16).foldl (fun n l => if p[16 * cl + l]?.getD false then n + 2 ^ l else n) 0))
  ++ r.loops.toList.flatMap fun l => leBytes 8 l.active.toNat ++ leBytes 4 l.first ++ leBytes 4 l.last
/-- The bytes that a pending load has so far. -/
def Pend.bytes (p : Pend) : List Byte :=
  match p.kind with | .load d parts => parts.foldl layPart (List.replicate d.size 0) | _ => []
/-- R202, R38. A pending result as an opaque record: what it writes, which lanes, its remaining latency and its value.
(Assumption log 98: DESIGN CHOICE.) -/
def Pend.record (p : Pend) (cycle : Nat) : List Byte :=
  let head (kind reg n : Nat) : List Byte :=
    leBytes 1 kind ++ leBytes 1 reg ++ leBytes 2 n ++ leBytes 4 (p.due - cycle) ++ leBytes 8 (match p.fault with | some t => t.cause | none => 0)
  let lanes (m : VPred) : List Byte := (List.range 16).map fun i =>
    BitVec.ofNat 8 ((List.range 8).foldl (fun n j => if m[8 * i + j]?.getD false then n + 2 ^ j else n) 0)
  match p.kind with
  | .value (.x r v) => head 1 r.val 8 ++ leBytes 8 v.toNat
  | .value (.p r v) => head 2 r.val 1 ++ leBytes 8 v.toNat
  | .value (.v r m v) => head 3 r.val 512 ++ lanes m ++ v.toList.flatMap fun w => leBytes 4 w.toNat
  | .value (.vp r m v) => head 4 r.val 16 ++ lanes m ++ lanes v
  | .value (.mp r v) => head 5 r.val 8 ++ leBytes 8 v.toNat
  | .value (.mo r v) => head 6 r.val 8 ++ leBytes 4 v.off.toNat ++ leBytes 4 v.inc.toNat
  | .value (.ks r v) => head 7 r.val 128 ++ v.toList
  | .value (.stens first l) => head 8 0 first ++ l.flatMap fun w => leBytes 32 w.toNat
  | .load (.scalar r n sg) _ => head 9 r.val n ++ leBytes 1 sg.toNat ++ p.bytes
  | .load (.vector r m) _ => head 10 r.val 512 ++ lanes m ++ (if p.ln.isSome then [] else p.bytes)
  | .load (.atomic r) _ => head 11 r.val 8 ++ p.bytes
  | .load (.scale r) _ => head 12 r.val 128 ++ p.bytes
  | .load (.stencil first _) _ => head 13 0 first ++ p.bytes
  | .marker => head 14 0 0
/-- R202. A landing slot's descriptor: destination and lanes stand with the pending result; here its remaining latency and its fault.
(Assumption log 98: DESIGN CHOICE.) -/
def Pend.slotRecord (p : Pend) (cycle : Nat) : List Byte :=
  leBytes 1 1 ++ leBytes 1 (match p.kind with | .load (.vector r _) _ => r.val | .load (.scalar r _ _) _ => r.val | .load (.atomic r) _ => r.val | _ => 0)
    ++ leBytes 2 0 ++ leBytes 4 (p.due - cycle) ++ leBytes 8 (match p.fault with | some t => t.cause | none => 0)
/-- R202, R161, R205, R250. The engine state of a context: its armed classes, the snapshots of its matrix queue, the semaphore increments that its
next cycle brings, and the messages that it has taken and not released.
(Assumption log 98: DESIGN CHOICE.) -/
def Ctx.imageEngine (x : Ctx) (k : Core) (c : Nat) : List Byte :=
  let armed := (List.range 8).foldl (fun n i => if x.regs.armed i then n + 2 ^ i else n) 0
  let items := k.mq.filter fun i => i.ctx = c
  let taken := (List.range 32).flatMap fun b => ((k.bank b).fifo.filter fun m => m.taker = some c).map fun m => (b, m)
  leBytes 1 armed ++ leBytes 1 items.length ++ leBytes 1 x.raised.length ++ leBytes 1 taken.length ++ leBytes 4 0
    ++ x.raised.flatMap (fun e => leBytes 1 e.1.val ++ leBytes 1 e.2)
    ++ taken.flatMap (fun e => leBytes 1 e.1 ++ leBytes 1 e.2.cls ++ leBytes 2 e.2.slots ++ leBytes 4 e.2.len ++ leBytes 8 e.2.addr)
    ++ items.flatMap fun i => match i.work with
    | .routine r => leBytes 8 i.order ++ leBytes 32 r.desc.toNat ++ [r.a, r.b, r.str, r.acc, r.xa, r.xb].flatMap (fun w => leBytes 8 w.toNat)
    | .feed b off => leBytes 8 i.order ++ leBytes 8 b ++ leBytes 8 off.toNat
    | .zero first cnt => leBytes 8 i.order ++ leBytes 8 first ++ leBytes 8 cnt
/-- R202. The save image: offset and bytes of each part. -/
def Ctx.imageParts (x : Ctx) (k : Core) (c sfc : Nat) : List (Nat × List Byte) :=
  let r := x.regs
  let csrs := (x.savedCsrs k c sfc).flatMap (leBytes 8)
  let vectors := (List.range 8).flatMap fun cl => r.v.toList.flatMap fun v =>
    (List.range 16).flatMap fun l => leBytes 4 (v[16 * cl + l]?.getD 0).toNat
  let slots := x.pend.filterMap fun p => p.ln.map fun l => (l.val, p)
  [(0x0, x.imageHeader), (0x100, csrs ++ List.replicate (512 - csrs.length) 0), (0x300, r.x.toList.flatMap fun w => leBytes 8 w.toNat),
   (0x400, x.imageSmall), (0x700, r.ks.toList.flatMap fun w => w.toList), (0xB00, r.imageLoops), (0x1000, vectors),
   (0x5000, (List.range 512).flatMap fun i => leBytes 32 (AMap.getD r.sten i 0).toNat)]
    ++ slots.map (fun e => (0x9000 + 512 * e.1, e.2.bytes)) ++ slots.map (fun e => (0xD000 + 16 * e.1, e.2.slotRecord x.cycle))
    ++ [(0xD200, x.pend.flatMap fun p => p.record x.cycle), (0x14200, x.imageEngine k c)]
/-- R201, step 4. Writes bytes of the image at their homes. -/
def State.writeImage (s : State) (k area : Nat) (parts : List (Nat × List Byte)) : State :=
  parts.foldl (fun s p => s.imageWrite k (area + p.1) p.2) s
/-- R270. An issued bundle whose atomic is on its way and that withholds nothing else: from then on it can raise no fault of its own (R259). -/
def Ctx.onlyAtomic (x : Ctx) (i : Issued) : Bool :=
  i.fault.isNone && i.eff.isEmpty && i.conds = [.landed]
    && (x.pend.filter fun p => p.bid = i.bid).all fun p => match p.kind with | .load (.atomic _) _ => true | _ => false
/-- R201, R38. Data of a load have come back, or it is an atomic, whose result may reach the saved record later (R270). Stencil entries have
to be written (R223). -/
def Pend.drained (p : Pend) (sfc : Nat) : Bool :=
  !p.isStencil && (p.back sfc || (match p.kind with | .load (.atomic _) _ => true | _ => false))
/-- R201, steps 2 to 4. The context's bundles have retired or trapped and its landing data are back: the image is written and the context
is SAVED. Its pending results keep their remaining latencies (R38); before the save of a precise stop they land (R371). A bundle that only waits for the value of an atomic retires with the
save (R270). -/
def execContextSaved (core ctx : Nat) (s : State) : Out :=
  if !coreExists core then .fault .noSuchPart
  else
    let k := s.core core
    let x := k.ctx ctx
    match x.preempt with
    | none => .next s
    | some area =>
      if k.frozen || !x.status.preemptible || !(x.inflight.all x.onlyAtomic) || !x.held.isEmpty || !(x.pend.all fun p => p.drained s.sfc)
          || (x.stopped && !x.pend.isEmpty) then .next s
      else
        let x := { x with inflight := [], retired := x.retired + BitVec.ofNat 64 x.inflight.length }
        let s := s.writeImage core area (x.imageParts k (ctx % 4) s.sfc)
        .next (s.modCore core fun c => (c.modCtx ctx fun _ =>
          { x with status := .saved, before := x.status, preempt := none, stopped := false, target := none, savedPos := s.sfc,
                   issueAt := x.issueAt - k.cycle }).leavePort ctx)

/-- R209. TRAPVEC or HARMk with its reserved bits zero. -/
def lineReg (w : Word64) : LineReg := w &&& ~~~0x1E#64
/-- R8, R202, R209. The control registers of a context as its image holds them; their reserved bits read as zero, whatever the image has there. -/
def Regs.loadCsrs (r : Regs) (w : List Nat) : Regs :=
  let get (i : Nat) : Nat := w[i]?.getD 0
  let word (i : Nat) : Word64 := BitVec.ofNat 64 (get i)
  { r with trapvec := lineReg (word 0), trapcause := word 1 &&& 0xFF, trappc := word 2, trapslot := word 3 &&& 0xF, trapinfo := word 4, hnd := bitAt (get 5) 1,
           msginfo := word 6 &&& 0xFFFFFFFFFF, trapnpc := word 7, memdef := BitVec.ofNat 11 (get 8), clm := BitVec.ofNat 8 (get 9),
           stepref := BitVec.ofNat 48 (get 10), framelen := BitVec.ofNat 8 (get 11), lc := Vector.ofFn fun i : Fin 6 => word (14 + i.val),
           li := Vector.ofFn fun i : Fin 6 => word (20 + i.val), harm := Vector.ofFn fun i : Fin 8 => lineReg (word (26 + i.val)),
           detmode := bitAt (get 36) 0 }
/-- R202. The register parts from 0x400 and from 0xB00 on, as bytes of the image.
(Assumption log 98: DESIGN CHOICE.) -/
def Regs.loadSmall (r : Regs) (bs : List Byte) : Regs :=
  let val (off n : Nat) : Nat := leValue ((bs.drop off).take n)
  { r with p := Vector.ofFn fun i : Fin 8 => decide (val i.val 1 ≠ 0), mp := Vector.ofFn fun i : Fin 8 => BitVec.ofNat 64 (val (344 + 8 * i.val) 8),
           mo := Vector.ofFn fun i : Fin 4 => ⟨BitVec.ofNat 22 (val (408 + 8 * i.val) 4), BitVec.ofNat 12 (val (412 + 8 * i.val) 4)⟩,
           barAddr := Vector.ofFn fun i : Fin 16 => if val (448 + 16 * i.val) 1 ≠ 0 then some (val (440 + 16 * i.val) 8) else none }
/-- R202. Vector predicates and loop state of an image.
(Assumption log 98: DESIGN CHOICE.) -/
def Regs.loadLoops (r : Regs) (bs : List Byte) : Regs :=
  let val (off n : Nat) : Nat := leValue ((bs.drop off).take n)
  { r with vp := Vector.ofFn fun i : Fin 8 => Vector.ofFn fun L : Fin 128 => bitAt (val (16 * (L.val / 16) + 2 * i.val) 2) (L.val % 16),
           loops := Vector.ofFn fun i : Fin 6 => ⟨decide (val (128 + 16 * i.val) 1 ≠ 0), val (136 + 16 * i.val) 4, val (140 + 16 * i.val) 4⟩ }
/-- R202. The registers of a restored context, from its image.
(Assumption log 48: DEDUCED.) -/
def State.loadImage (s : State) (k area : Nat) (r : Regs) : Regs :=
  let r := match s.imageBytes k area 0x0 24 with
    | some bs =>
      let val (off n : Nat) : Nat := leValue ((bs.drop off).take n)
      { r with pc := val 8 8, origin := BitVec.ofNat 64 (val 16 8), prevStamp := if val 3 1 = 255 then none else some (val 3 1) }
    | none => r
  let r := match s.imageBytes k area 0x100 304 with | some bs => r.loadCsrs (valuesOf 8 bs) | none => r
  let r := match s.imageBytes k area 0x300 256 with
    | some bs => { r with x := Vector.ofFn fun i : Fin 32 => BitVec.ofNat 64 ((valuesOf 8 bs)[i.val]?.getD 0) } | none => r
  let r := match s.imageBytes k area 0x400 696 with | some bs => r.loadSmall bs | none => r
  let r := match s.imageBytes k area 0x700 1024 with
    | some bs => { r with ks := Vector.ofFn fun i : Fin 8 => Vector.ofFn fun j : Fin 128 => bs[128 * i.val + j.val]?.getD 0 } | none => r
  let r := match s.imageBytes k area 0xB00 224 with | some bs => r.loadLoops bs | none => r
  let r := match s.imageBytes k area 0x1000 16384 with
    | some bs =>
      let w := valuesOf 4 bs
      let lane (i L : Nat) : Word32 := BitVec.ofNat 32 (w[512 * (L / 16) + 16 * i + L % 16]?.getD 0)
      { r with v := Vector.ofFn fun i : Fin 32 => Vector.ofFn fun L : Fin 128 => lane i.val L.val } | none => r
  match s.imageBytes k area 0x5000 16384 with
  | some bs => { r with sten := ((List.range 512).zip (valuesOf 32 bs)).filterMap fun p =>
      if p.2 = 0 then none else some (p.1, BitVec.ofNat 256 p.2) }
  | none => r
/-- R202. The rest of a restored context from its image: privilege, CYCLE and RETIRED, semaphores, hawks, barrier entries, and the data of landing
slots; its pending results and held increments are the image's records, which only the part reads, and only from an image of its version.
(Assumption log 48: DEDUCED.) -/
def State.loadCtx (s : State) (k : Nat) (x : Ctx) : Ctx :=
  let val (off n : Nat) (old : Nat) : Nat := match s.imageBytes k x.area off n with | some bs => leValue bs | none => old
  let cycle := val 0x210 8 x.cycle
  let hawk (i : Fin 16) : Hawk := match s.imageBytes k x.area (0x418 + 20 * i.val) 20 with
    | some bs => Hawk.ofImage (valuesOf 4 bs) | none => x.hawks[i]
  let slot (p : Pend) : Pend := match p.ln, p.kind with
    | some l, .load d parts => match s.imageBytes k x.area (0x9000 + 512 * l.val) d.size with
      | some bs => { p with kind := .load d (parts ++ [⟨0, d.size, 0, none, some bs, some 0, 0, none⟩]) }
      | none => p
    | _, _ => p
  let bar (i : Fin 16) : BarState := match s.imageBytes k x.area (barOffset i.val) 7 with
    | some bs => BarState.ofImage bs | none => x.bars[i]
  let ours : Bool := decide (val 0x0 1 imageVersion = imageVersion)
  { x with
    bars := Vector.ofFn bar, raised := if ours then x.raised else []
    regs := s.loadImage k x.area x.regs, priv := bitAt (val 0x2 1 x.priv.toNat) 0, cycle := cycle, retired := BitVec.ofNat 64 (val 0x218 8 x.retired.toNat),
    sm := Vector.ofFn fun i : Fin 16 => BitVec.ofNat 8 (val (0x408 + i.val) 1 x.sm[i].toNat), hawks := Vector.ofFn hawk,
    pend := if ours then x.pend.map fun p => { slot p with due := p.due - x.cycle + cycle } else [] }
/-- R44. A restored deterministic context issues its first bundle at the frame position that follows the saved one, with its origin moved by
whole frames; one that still waits for its frame or group start waits for it, in a later frame if that has passed; one of a task that has not
started has no position to resume at (R239).
(Assumption log 48: DEDUCED.) -/
def Regs.resumeAt (r : Regs) (started : Bool) (saved now : Nat) : Regs :=
  if !r.detmode || (!started && r.startAt.isNone) then r
  else
    let l := max 1 r.framelen.toNat
    match r.startAt with
    | some t =>
      if now < t then r
      else { r with startAt := none, resumePos := some 0, origin := BitVec.ofNat 64 (t + (now - t) / l * l) }
    | none =>
      let o := r.origin.toNat
      { r with resumePos := some ((framePos saved o l + 1) % l), origin := BitVec.ofNat 64 (o + ((now - o) / l - (saved - o) / l) * l) }
/-- R194, R201, R203. The status of a restored context: READY, but TRAPPED if it was and firmware gives no program counter.
(Assumption log 48: DEDUCED.) -/
def restoredStatus (before : CtxStatus) (pc : Option Word64) : CtxStatus :=
  match before, pc with | .trapped, none => .trapped | _, _ => .ready
/-- R203, R22, R201. Firmware restores a SAVED context onto a FREE context of its core, once its engine work has completed. What it still had
to wait for before its next bundle, it waits for (R37).
(Assumption log 48: DEDUCED.) -/
def execContextRestore (core src dst : Nat) (pc : Option (BitVec 64)) (s : State) : Out :=
  if !coreExists core then .fault .noSuchPart
  else
    let x := s.ctx core src
    if x.status ≠ .saved ∨ (s.ctx core dst).status ≠ .free ∨ s.owes core (src % 4) ∨ s.writesQueued core (src % 4)
        ∨ !(x.pend.all fun p => p.back s.sfc) then .next s
    else
      let y := s.loadCtx core x
      let r := y.regs.resumeAt (match y.task with | some t => t.started | none => true) x.savedPos s.sfc
      let r := match pc with | some a => { r with pc := a.toNat } | none => r
      let wait := match pc with | some _ => max x.issueAt (lastLanding y) | none => x.issueAt
      let y := { y with regs := r, status := restoredStatus x.before pc, area := (s.ctx core dst).area, before := .free, lastIssue := 0,
                        issueAt := (s.core core).cycle + wait }
      let move (b : Bank) : Bank := { b with fifo := b.fifo.map fun m => if m.taker = some (src % 4) then { m with taker := some (dst % 4) } else m }
      .next (s.modCore core fun k =>
        let k := (k.modCtx dst fun _ => y).modCtx src fun z => { Ctx.reset with nextBid := z.nextBid, area := z.area }
        { k with banks := k.banks.map move })

/-! ### Kill (R204) -/

/-- R270. A trowel command of a context that has not started. -/
def BankItem.unstarted (it : BankItem) (k c : Nat) : Bool :=
  it.core = k && it.ctx = c && (match it.work with | .trowel _ _ _ _ => it.ends.isNone | _ => false)
/-- R193. Cards of a killed context start no further copy and complete with CANCELLED, silently.
(Assumption log 49: DEDUCED.) -/
def Core.killCards (k : Core) (c : Nat) : Core :=
  { k with cards := k.cards.map fun d => if d.ctx = c then { d with stopped := true, silent := true } else d }
/-- R299, R312, R314. A region's commands of a killed context: gone before admission, silent after it; pending COATWs are gone.
(Assumption log 49: DEDUCED.) -/
def Region.killCtx (g : Region) (k c : Nat) : Region :=
  let hush (q : SkimCmd) : SkimCmd := if q.ofCtx k c then { q with silent := true } else q
  { g with coatw := g.coatw.filter fun w => !w.cmd.ofCtx k c
           counted := g.counted.map fun w => { w with cmd := hush w.cmd }
           slices := g.slices.map fun sl => { sl with transit := sl.transit.filter (fun q => !q.ofCtx k c), queue := sl.queue.map hush } }
/-- R204. Kill of a context: unretired bundles are discarded, engine work ends as its chapters say, and nothing of the context signals or
arrives any more.
(Assumption log 49: DEDUCED.) -/
def State.killCtx (s : State) (k c : Nat) : State :=
  let x := s.ctx k c
  let s := match x.inflight with | [] => s | b :: _ => s.rollback k c b
  let s := s.dropRequests k c 0
  let keep (b : Bank) : Bank :=
    { b with queue := b.queue.filter fun it => !it.unstarted k c
             notify := match b.notify with | some n => if n.ofCtx k c then none else some n | none => none }
  let hushChan (q : ChanCmd) : ChanCmd := if q.notify.ofCtx k c then { q with silent := true } else q
  let s : State := { s with
    cores := s.cores.map fun e => (e.1, { e.2 with banks := e.2.banks.map keep })
    transit := s.transit.filter fun t => !t.2.2.2.unstarted k c
    regions := s.regions.map fun e => (e.1, e.2.killCtx k c)
    chans := s.chans.map fun e => (e.1, { e.2 with cmds := e.2.cmds.map hushChan })
    messages := s.messages.map fun m => if m.notify.ofCtx k c then { m with silent := true } else m }
  (s.killItems k c).modCore k fun core =>
    (((core.killCards c).releaseMessages c).modCtx c fun y =>
      { y with status := .killed, killing := true, preempt := none, pend := [], held := [], target := none }).leavePort c
/-- R204. KILL_REQUEST. -/
def execKillRequest (core ctx : Nat) (s : State) : Out :=
  if !coreExists core then .fault .noSuchPart
  else if (s.ctx core ctx).status = .free ∨ (s.ctx core ctx).status = .killed then .next s
  else .next (s.killCtx core (ctx % 4))

/-! ### Drains (R204, R207, R220) -/

/-- R204, R220. The context's task has left it: its banks are released, its launch counts it, and the context is FREE. -/
def State.freeCtx (s : State) (k c : Nat) (count : Launch → Launch) : State :=
  let t := (s.ctx k c).task
  let s := match t with
    | some t => (s.modCore k fun core => core.releaseTask t.id).modLaunch t.launch count
    | none => s
  s.modCore k fun core => (core.modCtx c fun x => { Ctx.reset with nextBid := x.nextBid, area := x.area }).leavePort c
/-- R207. The context's writes are performed at SYS scope. -/
def sysScope : Nat := 4
/-- R204, R207, R360. The task of a context that owes nothing more leaves it, once its writes are performed at SYS scope: the core's dirty blocks
go to their homes first, as at a FENCE of SYS scope. -/
def State.leaveTask (s : State) (k c : Nat) (count : Launch → Launch) : State :=
  let s := s.condStart k c (.fence sysScope)
  if s.fenced k c sysScope then (s.condEnd k c (.fence sysScope)).freeCtx k c count else s
/-- R204. A killed context has drained: its task counts as killed. -/
def execKillDrainComplete (core ctx : Nat) (s : State) : Out :=
  if !coreExists core then .fault .noSuchPart
  else if (s.ctx core ctx).status = .killed ∧ ¬ s.owes core (ctx % 4) then
    .next (s.leaveTask core (ctx % 4) fun l => { l with gone := l.gone + 1 })
  else .next s
/-- R207. END has waited for everything the context still owed: its task counts as ended. -/
def execEndDrainComplete (core ctx : Nat) (s : State) : Out :=
  if !coreExists core then .fault .noSuchPart
  else
    let x := s.ctx core ctx
    if x.status ≠ .blocked ∨ x.ending = false ∨ !x.inflight.isEmpty ∨ !x.pend.isEmpty ∨ !x.held.isEmpty ∨ s.owes core (ctx % 4) then .next s
    else .next (s.leaveTask core (ctx % 4) fun l => { l with ended := l.ended + 1 })

/-! ### Messages (R205) -/

/-- R205. The lowest-numbered DORMANT context of a core that has a class armed. -/
def Core.sleeperFor (k : Core) (cls : Nat) : Option Nat :=
  [0, 1, 2, 3].find? fun c => (k.ctx c).status = .dormant ∧ (k.ctx c).preempt = none ∧ (k.ctx c).regs.armed cls
/-- R205, R356. A message written in full into a bank is delivered to a DORMANT context that has armed its class; without one it waits. -/
def execMessageDelivery (core bank : Nat) (s : State) : Out :=
  if !coreExists core then .fault .noSuchPart
  else
    let k := s.core core
    match (k.bank bank).fifo.findSome? fun m => if m.taker.isNone then (k.sleeperFor m.cls).map fun c => (m, c) else none with
    | some (m, c) => .next ((s.handOver core c (bank % 32) m).modCtx core c fun x => { x with status := .ready })
    | none => .next s

end Sys2Proof.Machine
end

