-- ==== Sys2Proof/Machine/Channels.lean ====
section
/-! DEFINITION. The channels (spec/20 R316 to R334, 17 R283, 23 R366, 24 R380): timetables in time, ordinary accesses, near-bank visits and
passes, the channel commands after retire, power states and row sparing. -/
namespace Sys2Proof.Machine

/-- R316. A channel the module has. -/
def chanExists (ch : Nat) : Bool := decide (ch < 512)

/-! ### Timetables in time (R318, R326, R332, R333) -/

/-- The index that follows the running entry. -/
def Channel.nextIdx (c : Channel) : Nat := nextEntry c.table c.idx
/-- R326, R333, R390. A pass ends: its completion word is written at its address, and it is disarmed. -/
def State.endPass (s : State) (ch status units detail : Nat) : State :=
  match (s.chan ch).pass with
  | none => s
  | some p =>
    let s := s.modChan ch fun c => { c with pass := none }
    s.writeCompletion (ch / 128) p.cwaddr (statusWord status units detail) ch
/-- R317, R380. What an RTR entry does after n steps of the retrain under way, or where the timing monitors ask for one: it moves the delay tap by
at most one; the retrain ends after at most 64 steps. The change of the tap, and the steps then made of a retrain that goes on.
(Assumption log 59: DEDUCED.) -/
def retrainStep (free n : Nat) : Int × Nat :=
  if n = 0 ∧ Config.draw free % 2 = 0 then (0, 0)
  else (Config.draw (free + 1) % 3 - 1, if 63 ≤ n ∨ Config.draw (free + 2) % 2 = 0 then 0 else n + 1)
/-- R318, R326. An entry that is due at a tick starts, at `start`: the lap counted, a SIG that finds every operation done completes the pass,
and a REF or RTR does its step. It ends at its scheduled tick, also where a visit has cut its start.
(Assumption log 59: DEDUCED.) -/
def State.beginEntry (s : State) (ch idx sched start : Nat) : State :=
  let c := s.chan ch
  let w := c.table[idx]?.getD 0
  let count (p : Pass) : Pass := if idx = lapEntry c.table ∧ p.since < sched then { p with laps := p.laps + 1 } else p
  let r := if ttKind w = 4 then retrainStep s.free c.retrain else (0, c.retrain)
  let s := { s with free := s.free + 3 }
  let s := s.modChan ch fun c =>
    { c with idx := idx, start := start, ends := sched + ttDur w, pass := c.pass.map count,
             refreshNext := if ttKind w = 3 then (c.refreshNext + 4) % 16 else c.refreshNext, retrain := r.2, tap := c.tap + r.1 }
  match (s.chan ch).pass with
  | some p =>
    let ops := nbOps c.table
    if ttKind w = 8 ∧ (ops.all fun i => p.done.contains i) then s.endPass ch stOk ops.length p.laps else s
  | none => s
/-- A channel command ends: its reply word, its semaphore and its E arrival (R330), unless its context was killed. -/
def State.endCmd (s : State) (ch : Nat) (q : ChanCmd) (status detail : Nat) : State :=
  let s := s.modChan ch fun c => { c with cmds := c.cmds.filter fun x => x.id ≠ q.id }
  if q.silent then s
  else ((s.releaseWord q.core q.ctx (spadAddr q.core q.reply) 3 []).spadWord q.core q.ctx q.reply (statusWord status 0 detail)).notify q.notify
/-- The command that is under way. -/
def Channel.takenCmd (c : Channel) (sel : ChanOp → Bool) : Option ChanCmd := c.cmds.find? fun q => q.taken && sel q.op
/-- R330. The first command of a kind that no earlier command of its context precedes and that is not under way. -/
def nextCmd (sel : ChanOp → Bool) : List ChanCmd → List (Nat × Nat) → Option ChanCmd
  | [], _ => none
  | q :: l, seen =>
    if !q.taken && sel q.op && !seen.contains (q.core, q.ctx) then some q else nextCmd sel l ((q.core, q.ctx) :: seen)
/-- Marks a command as under way. -/
def State.takeCmd (s : State) (ch : Nat) (q : ChanCmd) : State :=
  s.modChan ch fun c => { c with cmds := c.cmds.map fun x => if x.id = q.id then { x with taken := true } else x }
def ChanOp.isLoad : ChanOp → Bool | .load _ _ => true | _ => false
def ChanOp.isGo : ChanOp → Bool | .go _ _ _ => true | _ => false
def ChanOp.isStop : ChanOp → Bool | .stop => true | _ => false
def ChanOp.isPower : ChanOp → Bool | .power _ => true | _ => false

/-- R332, R384. Entry 0 of a started table begins: the pass that goes with it is armed, and the START is answered with the tick. -/
def State.beginTable (s : State) (ch e : Nat) : State :=
  let c := s.chan ch
  let arm := c.starting.bind fun x => x.pass
  let cmd := c.takenCmd ChanOp.isGo
  let first := resolveEntry c.table 0
  let s := s.modChan ch fun c => { c with refreshRound := none, starting := none, pass := arm.map fun p => { p with since := e, laps := 1 } }
  let s := s.beginEntry ch first e e
  match cmd with | some q => s.endCmd ch q stOk (e % 2 ^ 32) | none => s
/-- R318. The next timetable entry starts at its scheduled tick, or when the visit that overruns it has finished. An overrun longer than the entry that
follows, which the entries before the cycle allow, eats that entry whole, and the ones after it one in a tick.
(Assumption log 111: DESIGN CHOICE.) -/
def execTimetableEntry (chan : Nat) (s : State) : Out :=
  if !chanExists chan then .fault .noSuchPart
  else
    let c := s.chan chan
    if !c.advances || decide (s.tick < c.ends) || c.visit.isSome then .next s
    else match c.refreshRound with
      | some e => .next (s.beginTable chan e)
      | none =>
        let replaced := match c.starting with | some x => decide (x.due ≤ c.ends) | none => false
        if replaced || (c.stopping && c.nextIdx = lapEntry c.table) then .next s
        else .next (s.beginEntry chan c.nextIdx c.ends s.tick)

/-! ### Channel commands (R330 to R333) -/

/-- R319, R333. A skimmed region holds a slice of the channel. -/
def State.skimOn (s : State) (ch : Nat) : Bool := s.regions.any fun e => e.2.slices.any fun sl => sl.pc / 2 = ch
/-- R331. TTLOAD after retire: the table is read, checked and staged. A command whose die link is not UP ends with LINK first (R341). -/
def execTimetableStage (chan : Nat) (s : State) : Out :=
  if !chanExists chan then .fault .noSuchPart
  else
    match (s.chan chan).cmds.find? fun q => !q.taken && !s.diesJoined (q.core / 128) (chan / 128), nextCmd ChanOp.isLoad (s.chan chan).cmds [] with
    | some q, _ => .next (s.endCmd chan q stLink 0)
    | none, none => .next s
    | none, some q =>
      match q.op with
      | .load a n =>
        if (s.chan chan).pass.isSome then .next (s.endCmd chan q stRejected 0xFFFFFFFF)
        else if s.poisoned (spadAddr q.core a) (8 * n) then .next (s.endCmd chan q stEcc 0)
        else
          let table := (valuesAt (s.engineSpad q.core q.ctx a (8 * n)) n).map (BitVec.ofNat 64)
          match tableFault table (s.skimOn chan) with
          | some f => .next (s.endCmd chan q stRejected (f.1 * 2 ^ 16 + f.2))
          | none => .next ((s.modChan chan fun c => { c with staged := some table }).endCmd chan q stOk 0)
      | _ => .next s

/-- R328. The frame of a window page of PC pc, if it may be used. -/
def State.windowFrame (s : State) (ch pc base page : Nat) : Option Nat :=
  if base = 0 then none
  else match spaceOf (base + page * 2 ^ 21) with
    | .global va =>
      (match translate s (ch / 128) va with
        | some l => if l.pinned && l.compute && !l.remote && !bitAt l.pa 47 && (Config.striped (l.pa / 2 ^ 21)).isSome && homePc l.pa = 2 * ch + pc then some l.pa else none
        | none => none)
    | _ => none
/-- R328. The checks of arming, over the operations of a table in table order: the frames of the window pages, or the status and the entry
that fails. -/
def State.armCheck (s : State) (ch : Nat) (base : Nat → Nat) (table : List Word64) : List Nat → AMap Nat → Except (Nat × Nat) (AMap Nat)
  | [], frames => .ok frames
  | i :: l, frames =>
    let o := nbOf (table[i]?.getD 0)
    let n := if o.dup then 2 * o.nrow else o.nrow
    let page := o.row / 64
    if (o.row + n - 1) / 64 ≠ page then .error (stBoundary, i)
    else match s.windowFrame ch o.pc (base o.pc) page with
      | some f => s.armCheck ch base table l (AMap.set frames (512 * o.pc + page) f)
      | none => .error (stAttr, i)
/-- R332. The control block's first offending field. -/
def blockOffence (t0 cw b0 b1 : Nat) : Option Nat :=
  firstOffending [(0x00, decide (2 ^ 48 ≤ t0)), (0x08, decide (cw % 8 ≠ 0)), (0x10, decide (b0 % 2 ^ 21 ≠ 0)), (0x18, decide (b1 % 2 ^ 21 ≠ 0))]
/-- A detail the spec does not state: a free value.
(Assumption log 54: DESIGN CHOICE.) -/
def State.freeDetail (s : State) : Nat × State := ((Config.freeWord s.free).toNat % 2 ^ 32, { s with free := s.free + 1 })
/-- Ends a command with a status whose detail the spec does not state.
(Assumption log 54: DESIGN CHOICE.) -/
def State.refuseCmd (s : State) (ch : Nat) (q : ChanCmd) (status : Nat) : State := s.freeDetail.2.endCmd ch q status s.freeDetail.1
/-- R326, R328, R332. TTGO takes effect: refused, armed on the running table, or its START under way. -/
def State.takeGo (s : State) (ch : Nat) (q : ChanCmd) (a : Nat) (start arm : Bool) : State :=
  let c := s.chan ch
  let blk := valuesAt (s.engineSpad q.core q.ctx a 32) 4
  let get (i : Nat) : Nat := blk[i]?.getD 0
  let table := if start then c.staged else some c.table
  if s.poisoned (spadAddr q.core a) 32 then s.endCmd ch q stEcc 0
  else match blockOffence (get 0) (get 1) (get 2) (get 3), table with
  | some off, _ => s.endCmd ch q stAttr off
  | none, none => s.refuseCmd ch q stAttr
  | none, some table =>
    if c.pass.isSome then (if start then s.refuseCmd ch q stAttr else s.endCmd ch q stAttr 0)
    else
      let checked : Except (Nat × Nat) (AMap Nat) :=
        if arm then s.armCheck ch (fun pc => if pc = 0 then get 2 else get 3) table (nbOps table) [] else .ok []
      match checked with
      | .error e => s.endCmd ch q e.1 e.2
      | .ok frames =>
        let pass : Pass := { cwaddr := get 1, frames := frames, since := s.tick, count := [], done := [], laps := 1, redo := [] }
        if start then
          (s.takeCmd ch q).modChan ch fun c => { c with
            staged := none, starting := some { table := table, due := get 0, pass := if arm then some pass else none, placed := false } }
        else (s.modChan ch fun c => { c with pass := some pass }).endCmd ch q stOk 0
/-- R329. The writes that the arming context has retired are at their homes; until then its core writes them back. -/
def State.armReady (s : State) (q : ChanCmd) : Bool × State :=
  match q.op with
  | .go _ _ true =>
    let s := s.writeBack q.core q.ctx (fun _ => true)
    (!s.writesQueued q.core q.ctx, s)
  | _ => (true, s)
/-- R332. TTGO is taken up, and a started table replaces the running one at the later of its tick and the end of the running entry, with
one refresh round before entry 0. A TTGO that meets a running visit, or a START or TTSTOP under way, waits until that is over.
(Assumption log 57: DEDUCED.) (Assumption log 110: DESIGN CHOICE.) -/
def execTableReplacement (chan : Nat) (s : State) : Out :=
  if !chanExists chan then .fault .noSuchPart
  else
    let c := s.chan chan
    match c.starting with
    | some x =>
      if x.placed || !c.advances || decide (s.tick < max x.due c.ends) || c.visit.isSome then .next s
      else
        let d := s.drawBelow 193
        let e := s.tick + d.1
        .next (d.2.modChan chan fun c => { c with
          table := x.table, idx := x.table.length, start := s.tick, ends := e, refreshRound := some e, starting := some { x with placed := true } })
    | none =>
      match nextCmd ChanOp.isGo c.cmds [] with
      | none => .next s
      | some q =>
        if c.visit.isSome || c.stopping then .next s
        else match q.op, s.armReady q with
          | .go a start arm, (true, s) => .next (s.takeGo chan q a start arm)
          | _, (_, s) => .next s
/-- R333. At a lap boundary the default table takes over from the running one, and the TTSTOP is answered. -/
def State.switchDefault (s : State) (ch e : Nat) : State :=
  let s := (s.modChan ch fun c => { c with table := defaultTable, stopping := false }).beginEntry ch 0 e e
  match (s.chan ch).takenCmd ChanOp.isStop with | some q => s.endCmd ch q stOk 0 | none => s
/-- R333. TTSTOP: refused, or the pass disarmed and the staged table gone; at the next lap boundary the default table runs. One that meets a running
visit, or a START or TTSTOP under way, waits until that is over.
(Assumption log 110: DESIGN CHOICE.) -/
def execDefaultTableSwitch (chan : Nat) (s : State) : Out :=
  if !chanExists chan then .fault .noSuchPart
  else
    let c := s.chan chan
    if c.stopping then
      if !c.advances || decide (s.tick < c.ends) || c.visit.isSome || c.nextIdx ≠ lapEntry c.table then .next s
      else .next (s.switchDefault chan c.ends)
    else match nextCmd ChanOp.isStop c.cmds [] with
      | none => .next s
      | some q =>
        if c.visit.isSome || c.starting.isSome then .next s
        else if s.skimOn chan then .next (s.refuseCmd chan q stAttr)
        else
          let s := s.endPass chan stCancelled (match c.pass with | some p => p.done.length | none => 0) 0
          .next ((s.takeCmd chan q).modChan chan fun c => { c with staged := none, stopping := true })

/-! ### Power (R334) -/

/-- R334. A low-power request takes effect: at once without a pass, else at the start of an IDLE entry. The units' registers keep their
values in the reserved rows.
(Assumption log 56: DEDUCED.) -/
def execChannelPowerDown (chan : Nat) (s : State) : Out :=
  if !chanExists chan then .fault .noSuchPart
  else
    let c := s.chan chan
    match nextCmd ChanOp.isPower c.cmds [] with
    | none => .next s
    | some q =>
      match q.op with
      | .power 0 => .next s
      | .power n =>
        if s.skimOn chan then .next (s.refuseCmd chan q stAttr)
        else if c.visit.isSome || c.refreshRound.isSome || c.power = .waking
            || (c.pass.isSome && !(c.kind = some 0 && c.start = s.tick)) then .next s
        else .next ((s.modChan chan fun c => { c with power := if n = 1 then .selfRefresh else .powerDown }).endCmd chan q stOk 0)
      | _ => .next s
/-- R334. The power commands that have been taken up are answered. -/
def State.endPower (s : State) (ch : Nat) : State :=
  ((s.chan ch).cmds.filter fun q => q.taken && q.op.isPower).foldl (fun s q => s.endCmd ch q stOk 0) s
/-- R332 to R334. A channel that has woken goes on: with the default table where a TTSTOP met the lap boundary, with nothing yet where a table
that is asked for is due, else with the entry after the one at which it halted. -/
def State.resumeChannel (s : State) (ch : Nat) : State :=
  let c := s.chan ch
  let s := s.modChan ch fun c => { c with power := .active }
  if c.stopping && c.nextIdx = lapEntry c.table then s.switchDefault ch s.tick
  else if c.starting.any fun x => !x.placed && decide (x.due ≤ s.tick) then s
  else s.beginEntry ch c.nextIdx s.tick s.tick
/-- R334. A low channel begins to wake. -/
def State.startWake (s : State) (ch : Nat) : State :=
  let d := s.drawBelow 1025
  d.2.modChan ch fun c => { c with power := .waking, wakeAt := s.tick + d.1, wanted := false }
/-- R334. A low channel wakes for an ordinary access or an ACTIVE request, within 1,024 ticks, and its timetable goes on with the entry after
the one at which it halted.
(Assumption log 56: DEDUCED.) -/
def execChannelWake (chan : Nat) (s : State) : Out :=
  if !chanExists chan then .fault .noSuchPart
  else
    let c := s.chan chan
    let ask := (nextCmd ChanOp.isPower c.cmds []).bind fun q => match q.op with | .power 0 => some q | _ => none
    match ask, s.skimOn chan with
    | some q, true => .next (s.refuseCmd chan q stAttr)
    | some q, false => match c.power with
      | .active => .next (s.endCmd chan q stOk 0)
      | .waking => .next (s.takeCmd chan q)
      | _ => if s.overheated then .next s else .next ((s.takeCmd chan q).startWake chan)
    | none, _ => match c.power with
      | .active => .next s
      | .waking => if s.tick < c.wakeAt then .next s else .next ((s.resumeChannel chan).endPower chan)
      | _ => if s.overheated || (c.q0.isEmpty && c.q1.isEmpty && !c.wanted) then .next s else .next (s.startWake chan)

/-! ### Ordinary accesses (R317, R283, R366, R385) -/

/-- R283. The copy of a row to its spare, which runs in WIN entries, ends: the spare replaces the row, or shows an error and the next spare is
tried. -/
def execSpareCopyComplete (chan bank row : Nat) (s : State) : Out :=
  if !chanExists chan ∨ 32 ≤ bank then .fault .noSuchPart
  else
    let key := 2 * (bank % 16 + 16 * row) + bank / 16
    let c := s.chan chan
    if (AMap.get? c.spareCopy key).isNone || !c.openFor 1 s.tick then .next s
    else
      let bad := Config.dramError s.free ≠ 0
      let s := { s with free := s.free + 1 }
      if !bad then
        .next (s.modChan chan fun c => { c with spareCopy := AMap.erase c.spareCopy key, corrected := AMap.erase c.corrected key })
      else if 8 ≤ AMap.getD c.spares bank 0 then
        .next ((s.modChan chan fun c => { c with spareCopy := AMap.erase c.spareCopy key }).retireRow chan key)
      else .next (s.modChan chan fun c => { c with spares := AMap.set c.spares bank (AMap.getD c.spares bank 0 + 1) })
/-- The time until a load's data are back: 16 ticks, and 320 core cycles more from another die (R385).
(Assumption log 7: DEDUCED.) -/
def State.returnTime (s : State) (k ch : Nat) : Nat × State :=
  let d := s.drawBelow 65
  let e := d.2.drawBelow (if k / 128 = ch / 128 then 1 else 321)
  (s.sfc + d.1 + e.1, e.2)
/-- R136, R137, R152. The words of the first-level cache that a read fills: the predictor's block around those it touched, or the whole sector
of a stream read or a prefetch; none for the other policies, on a control core, or in a window of an armed pass.
(Assumption log 27: DEDUCED.) -/
def State.fillAfter (s : State) (r : DramReq) : State :=
  if !isWorker r.core ∨ s.nearArmed r.addr ∨ r.policy = 2 ∨ (r.policy = 1 ∧ r.prefetch = false) then s
  else
    let first := r.addr % 64 / 8
    let n := (r.addr % 64 + r.len + 7) / 8 - first
    if r.policy = 3 ∨ r.prefetch = true then s.l1Fill r.core r.ctx (r.addr / 64) 0 8 (r.policy = 3)
    else
      let more := Config.draw s.free % (9 - first - n)
      { s with free := s.free + 1 }.l1Fill r.core r.ctx (r.addr / 64) first (n + more) false
/-- R317, R347. One ordinary access is performed at its home, from DRAM (`dram`) or in the last-level cache, which it allocates in under its
policy (R137), as a prefetch of policy 10 does (R152). An uncorrectable error stays with its word (R366).
(Assumption log 25: DEDUCED.) (Assumption log 58: DEDUCED.) -/
def State.performAccess (s : State) (ch : Nat) (dram : Bool) (r : DramReq) : State :=
  let e := if dram then (s.countTransfer ch).dramRead r.addr else (false, s)
  let s := if s.nearArmed r.addr then e.2 else e.2.llcPut r.addr (if r.prefetch ∧ r.policy = 2 then 0 else r.policy)
  let s := if e.1 && r.bytes.isNone then s.poisonWord r.addr else s
  match r.bytes with
  | some bs => r.bad.foldl State.poisonWord (s.put r.addr bs)
  | none =>
    let data := (List.range r.len).map fun i => s.loadPhys r.core (r.addr + i)
    let s := s.fillAfter r
    if r.prefetch then s
    else
      let t := s.returnTime r.core ch
      if e.1 then t.2.failLoad r.core r.ctx r.bid r.slot r.off causeEcc
      else t.2.bindLoad r.core r.ctx r.bid r.slot r.off r.addr data t.1
/-- R137, R347, R385. An access that has reached the channel and that the last-level cache serves: it holds the sector, or takes a write of a whole
sector that allocates; rows of an armed pass are not in it.
(Assumption log 25: DEDUCED.) -/
def State.llcServes (s : State) (r : DramReq) : Bool :=
  decide (r.due ≤ s.sfc) && !s.nearArmed r.addr && (s.llcHit r.addr || (r.bytes.isSome && decide (r.policy < 2 ∧ r.len = 64)))
/-- The first access of a queue that a test admits and that no earlier access to its sector precedes, with the others. -/
def takeFirst (ok : DramReq → Bool) : List DramReq → List DramReq → Option (DramReq × List DramReq)
  | _, [] => none
  | seen, r :: l =>
    if ok r && !seen.any fun q => q.addr / 64 = r.addr / 64 then some (r, seen ++ l) else takeFirst ok (seen ++ [r]) l
/-- R20, R317, R385. A pseudo-channel serves one access of its ordinary queue: in a WIN entry the one at its head, if it is there, else one that the
last-level cache serves.
(Assumption log 58: DEDUCED.) -/
def execDramAccess (chan pc : Nat) (s : State) : Out :=
  if !chanExists chan ∨ 2 ≤ pc then .fault .noSuchPart
  else
    let c := s.chan chan
    let q := if pc = 0 then c.q0 else c.q1
    let rest (s : State) (l : List DramReq) : State := s.modChan chan fun c => if pc = 0 then { c with q0 := l } else { c with q1 := l }
    match c.openFor 1 s.tick && (match q with | r :: _ => decide (r.due ≤ s.sfc) | [] => false), q, takeFirst s.llcServes [] q with
    | true, r :: l, _ => .next ((rest s l).performAccess chan (!s.llcServes r) r)
    | _, _, some p => .next ((rest s p.2).performAccess chan false p.1)
    | _, _, none => .next s

/-! ### Near-bank visits (R322 to R327) -/

/-- R322. A register of a unit: lanes of FP16, and of FP32. -/
def Channel.bgOf (c : Channel) (unit r : Nat) : List (BitVec 16) := AMap.getD c.bg (8 * unit + r) (List.replicate 16 0)
def Channel.baOf (c : Channel) (unit r : Nat) : List Word32 := AMap.getD c.ba (8 * unit + r) (List.replicate 16 0)
/-- Writes a register of a unit. -/
def State.putBg (s : State) (ch unit r : Nat) (v : List (BitVec 16)) : State :=
  s.modChan ch fun c => { c with bg := AMap.set c.bg (8 * unit + r) v }
def State.putBa (s : State) (ch unit r : Nat) (v : List Word32) : State :=
  s.modChan ch fun c => { c with ba := AMap.set c.ba (8 * unit + r) v }
/-- R322. The physical address of column c of a window row of a bank. -/
def Pass.column (p : Pass) (pc row bank c : Nat) : Nat :=
  AMap.getD p.frames (512 * pc + row / 64) 0 + row % 64 * 32768 + bank * 2048 + 32 * c
/-- The 16 FP16 codes, and the 8 FP32 codes, of a 32-byte column. -/
def State.halves (s : State) (a : Nat) : List Nat := valuesAt (Memory.read s.mem a 32) 16
def State.singles (s : State) (a : Nat) : List Nat := (List.range 8).map fun i => Memory.value s.mem (a + 4 * i) 4
/-- R329. A visit writes a column: at once, and no first-level copy of it stays. -/
def State.putColumn (s : State) (a : Nat) (bs : List Byte) : State :=
  (s.put a bs).purgeStale 512 true fun n => decide (n = a / 64)
/-- R324. NMAC: one column into one lane. -/
def macLane (acc : Nat) (col bg : List Nat) : Nat :=
  chunkSum (some (decodeNum 0 acc)) (List.zipWith (fun x y => FVal.mul (decodeNum 2 x) (decodeNum 2 y)) col bg)
/-- R324. The lanes that NMAC gives for a group of columns, from the accumulator and the columns of a row. -/
def State.macGroup (s : State) (p : Pass) (o : Nb) (row bank g : Nat) (acc : List Word32) (bg : List (BitVec 16)) : List Word32 :=
  (List.range 16).map fun i =>
    BitVec.ofNat 32 (macLane (acc[i]?.getD 0).toNat (s.halves (p.column o.pc row bank (16 * g + i))) (bg.map BitVec.toNat))
/-- The unit of a bank of the operation's pseudo-channel. -/
def Nb.unit (o : Nb) (b : Nat) : Nat := 16 * o.pc + b
/-- R324. The maximum or minimum of two FP32 codes. -/
def pickMax (least : Bool) (x y : Nat) : Nat :=
  encodeNum 0 .rn false (if least then .minimum (decodeNum 0 x) (decodeNum 0 y) else .maximum (decodeNum 0 x) (decodeNum 0 y))
/-- R324. One visit in one unit: row `row`, group g. -/
def State.visitUnit (s : State) (ch : Nat) (p : Pass) (o : Nb) (row g b : Nat) : State :=
  let c := s.chan ch
  let u := o.unit b
  let col (i : Nat) : Nat := p.column o.pc row b i
  let scale : FVal := decodeNum 2 ((c.bgOf u o.g)[o.x % 16]?.getD 0).toNat
  if o.op = 1 then s.putBg ch u o.g ((s.halves (col (16 * o.cg + o.x % 16))).map (BitVec.ofNat 16))
  else if o.op = 2 then
    (List.range 16).foldl (fun s j =>
      s.putBg ch (o.unit j) o.g ((s.halves (col (16 * o.cg + (if bitAt o.x 4 then j else o.x % 16)))).map (BitVec.ofNat 16))) s
  else if o.op = 3 then s.putBa ch u (o.a + g - o.cg) (s.macGroup p o row b g (c.baOf u (o.a + g - o.cg)) (c.bgOf u o.g))
  else if o.op = 4 then
    (List.range 8).foldl (fun s i =>
      let x := s.halves (col (16 * g + i))
      let y := s.halves (col (16 * g + 8 + i))
      s.putColumn (col (16 * g + 8 + i)) ((List.zipWith (fun x y =>
        encodeNum 2 .rn false (FVal.add .rn (FVal.mul scale (decodeNum 2 x)) (decodeNum 2 y))) x y).flatMap (leBytes 2))) s
  else if o.op = 5 then
    (List.range 16).foldl (fun s i =>
      let a := col (16 * g + i)
      s.putColumn a ((s.halves a).flatMap fun x => leBytes 2 (encodeNum 2 .rn false (FVal.mul scale (decodeNum 2 x))))) s
  else if o.op = 6 then
    (List.range (o.x % 8 + 1)).foldl (fun s i =>
      let v := (c.baOf u (o.a + i)).map BitVec.toNat
      (s.putColumn (col (16 * o.cg + 2 * i)) ((v.take 8).flatMap (leBytes 4))).putColumn (col (16 * o.cg + 2 * i + 1))
        ((v.drop 8).flatMap (leBytes 4))) s
  else if o.op = 8 then
    (List.range (o.x % 8 + 1)).foldl (fun s i =>
      s.putBa ch u (o.a + i) ((s.singles (col (16 * o.cg + 2 * i)) ++ s.singles (col (16 * o.cg + 2 * i + 1))).map (BitVec.ofNat 32))) s
  else
    s.putBa ch u o.a ((List.range 16).foldl (fun acc i =>
      List.zipWith (fun (m : Word32) x =>
        BitVec.ofNat 32 (pickMax (bitAt o.x 0) m.toNat (encodeNum 0 .rn false (decodeNum 2 x)))) acc (s.halves (col (16 * g + i)))) (c.baOf u o.a))
/-- R324. NRED's operators on one lane of two units, the lower bank first: a sum, a maximum, or a pair. -/
def redNode (x : Nat) (p q : Nat × Nat) : Nat × Nat :=
  if x = 0 then (f32Add p.1 q.1, 0)
  else if x = 1 then (pickMax false p.1 q.1, 0)
  else
    let m := pickMax false p.1 q.1
    let part (r : Nat × Nat) : Nat := if r.1 = 0xFF800000 then 0 else f32Mul r.2 (f32Exp2 (f32Sub r.1 m))
    (m, f32Add (part p) (part q))
/-- R324. The tree over the units of 16 banks: 2i and 2i + 1, then 4i and 4i + 2, 8i and 8i + 4, 0 and 8. -/
def redTree (node : Nat × Nat → Nat × Nat → Nat × Nat) (v : List (Nat × Nat)) : Nat → List (Nat × Nat)
  | 0 => v
  | fuel + 1 => redTree node ((List.range (v.length / 2)).map fun i => node (v[2 * i]?.getD (0, 0)) (v[2 * i + 1]?.getD (0, 0))) fuel
/-- R324. NRED: the result goes to bank 0. -/
def State.reduceUnits (s : State) (ch : Nat) (o : Nb) : State :=
  let c := s.chan ch
  let lane (i : Nat) : Nat × Nat :=
    let v := (List.range 16).map fun b =>
      (((c.baOf (o.unit b) o.a)[i]?.getD 0).toNat, ((c.baOf (o.unit b) (o.a + 1))[i]?.getD 0).toNat)
    (redTree (redNode o.x) v 4).headD (0, 0)
  let r := (List.range 16).map lane
  let s := s.putBa ch (o.unit 0) o.a (r.map fun p => BitVec.ofNat 32 p.1)
  if o.x = 2 then s.putBa ch (o.unit 0) (o.a + 1) (r.map fun p => BitVec.ofNat 32 p.2) else s
/-- R326. The columns that a visit reads in a bank. -/
def Nb.reads (o : Nb) (g : Nat) : List Nat :=
  if o.op = 1 then [16 * o.cg + o.x % 16]
  else if o.op = 2 then (if bitAt o.x 4 then (List.range 16).map fun j => 16 * o.cg + j else [16 * o.cg + o.x % 16])
  else if o.op = 8 then (List.range (2 * (o.x % 8 + 1))).map fun i => 16 * o.cg + i
  else if o.op = 6 then []
  else (List.range 16).map fun i => 16 * g + i
/-- R327. The lanes of a pair: two equal ones give their value to both.
(Assumption log 55: DEDUCED.) -/
def voteLane (a b c : Word32) : Option Word32 := if a = b then some a else if a = c then some a else if b = c then some b else none
/-- R327. The lanes of a bank in a doubled NMAC visit of a row.
(Assumption log 55: DEDUCED.) -/
def State.dupLanes (s : State) (ch : Nat) (p : Pass) (o : Nb) (row g b : Nat) : List Word32 :=
  let c := s.chan ch
  s.macGroup p o row b g (c.baOf (o.unit b) (o.a + g - o.cg)) (c.bgOf (o.unit b) o.g)
/-- R327. A doubled visit or its repeat: the pairs whose lanes agree are written, the others repeat on the third copy, whose lanes are voted
with the two that were compared; none when three copies differ.
(Assumption log 55: DEDUCED.) -/
def State.visitDup (s : State) (ch : Nat) (p : Pass) (o : Nb) (row g : Nat) : Option (State × List (Nat × List Word32 × List Word32)) :=
  let put (t : State) (i : Nat) (l : List Word32) : State :=
    (t.putBa ch (o.unit (2 * i)) (o.a + g - o.cg) l).putBa ch (o.unit (2 * i + 1)) (o.a + g - o.cg) l
  if p.redo.isEmpty then
    let lanes := (List.range 8).map fun i => (i, s.dupLanes ch p o row g (2 * i), s.dupLanes ch p o row g (2 * i + 1))
    let bad := lanes.filter fun l => l.2.1 ≠ l.2.2
    some (lanes.foldl (fun t l => if l.2.1 = l.2.2 then put t l.1 l.2.1 else t) s, bad)
  else
    let voted := p.redo.map fun r =>
      let third := s.dupLanes ch p o (row + o.nrow) g (2 * r.1)
      (r.1, (List.range 16).mapM fun n => voteLane (r.2.1[n]?.getD 0) (r.2.2[n]?.getD 0) (third[n]?.getD 0))
    if voted.any fun v => v.2.isNone then none
    else some (voted.foldl (fun t v => match v.2 with | some l => put t v.1 l | none => t) s, [])
/-- R324 to R327, R383. The running visit ends: its effect, its operation's counter, and the end of the pass where it fails.
(Assumption log 55: DEDUCED.) (Assumption log 59: DEDUCED.) -/
def State.finishVisit (s : State) (ch : Nat) : State :=
  let c := s.chan ch
  let entry := c.visitOp
  let s := s.modChan ch fun c => { c with visit := none }
  match c.pass with
  | none => s
  | some p =>
    let rep := opOf c.table entry
    let o := nbOf (c.table[entry]?.getD 0)
    let v := AMap.getD p.count rep 0
    let row := o.row + v / o.ncg
    let g := o.cg + v % o.ncg
    let banks := if o.all then List.range 16 else [o.bank]
    let read : List (Nat × Nat) := if p.redo.isEmpty then banks.map fun b => (row, b) else p.redo.map fun r => (row + o.nrow, 2 * r.1)
    let step (s : State) (redo : List (Nat × List Word32 × List Word32)) : State := s.modChan ch fun c => { c with pass := c.pass.map fun p =>
      if redo.isEmpty then
        { p with redo := [], count := AMap.set p.count rep (v + 1), done := if o.visits ≤ v + 1 then rep :: p.done else p.done }
      else { p with redo := redo } }
    if o.op = 0 then
      step (banks.foldl (fun s b => (List.range (o.x % 8 + 1)).foldl (fun s i => s.putBa ch (o.unit b) (o.a + i) (List.replicate 16 0)) s) s) []
    else if o.op = 7 then step (s.reduceUnits ch o) []
    else
      let err := if (o.reads g).isEmpty then (false, s) else read.foldl (fun (r : Bool × State) b =>
        let x := r.2.dramRead (p.column o.pc b.1 b.2 (16 * o.cg))
        (r.1 || x.1, x.2)) (false, s)
      let s := err.2
      if err.1 || read.any fun r => (o.reads g).any fun i => s.poisoned (p.column o.pc r.1 r.2 i) 32 then
        s.endPass ch stEcc p.done.length entry
      else if o.dup then
        match s.visitDup ch p o row g with
        | some r => step r.1 r.2
        | none => s.endPass ch stDup p.done.length entry
      else step (banks.foldl (fun s b => s.visitUnit ch p o row g b) s) []
/-- R325. The operation of the running NB entry starts a visit, if it may.
(Assumption log 59: DEDUCED.) -/
def State.startVisit (s : State) (ch : Nat) : State :=
  let c := s.chan ch
  match c.pass with
  | none => s
  | some p =>
    if !c.openFor 5 s.tick || decide (c.start < p.since) then s
    else
      let rep := opOf c.table c.idx
      let o := nbOf (c.table[c.idx]?.getD 0)
      let before := (nbOps c.table).all fun i => decide (rep ≤ i) || p.done.contains i
      let room := if o.op = 0 ∨ o.op = 7 then decide (s.tick + o.ticks ≤ c.ends) else true
      if p.done.contains rep || !before || !room then s
      else s.modChan ch fun c => { c with visit := some (s.tick + o.ticks), visitOp := c.idx }
/-- R324, R325. A near-bank visit ends, and the next one starts. -/
def execNbVisit (chan : Nat) (s : State) : Out :=
  if !chanExists chan then .fault .noSuchPart
  else
    match (s.chan chan).visit with
    | some e => if s.tick < e then .next s else .next ((s.finishVisit chan).startVisit chan)
    | none => .next (s.startVisit chan)

end Sys2Proof.Machine
end

