-- ==== Sys2Proof/Machine/PageOps.lean ====
section
/-! DEFINITION. The translation tree and the page frames as control-core firmware keeps them (spec/17 R272 to R275, R280 to R282, 19 R301): table
entries, frames in use, and taking a page out of use. -/
namespace Sys2Proof.Machine

/-! ### Frames -/

/-- R13. The bytes of the module's DRAM: 192 GiB a die. -/
def dramBytes : Nat := 4 * 192 * 2 ^ 30
/-- R272. Translation tables take 64 KiB blocks from the top of DRAM down (assumption log 60).
(Assumption log 60: DESIGN CHOICE.) -/
def tableAddr (n : Nat) : Nat := dramBytes - 2 ^ 16 * (n + 1)
/-- R280, R282. The frames that no new page may take: those of pages in every state, retired ones, and ones whose unmapping is not over. -/
def State.framesUsed (s : State) : List (Nat × Nat) :=
  (s.pages.map fun e => (e.2.frame, e.2.size)) ++ s.retired ++ s.unmaps.map fun u => (u.frame, u.size)
/-- Two ranges share a byte. -/
def rangesMeet (a b : Nat × Nat) : Bool := decide (a.1 < b.1 + b.2 ∧ b.1 < a.1 + a.2)
/-- R281. The lowest free DRAM frame of a size.
(Assumption log 60: DESIGN CHOICE.) -/
def State.freeFrame (s : State) (size : Nat) : Option Nat :=
  let used := s.framesUsed
  let ends := 0 :: used.map fun u => (u.1 + u.2 + size - 1) / size * size
  let fits := ends.filter fun a => decide (a + size ≤ tableAddr s.nextTable) && !(used.any fun u => rangesMeet u (a, size))
  match fits with | [] => none | a :: l => some (l.foldl min a)
/-- R272, R277. The lowest free bank of the control cores for a SYSATOM page.
(Assumption log 60: DESIGN CHOICE.) -/
def State.freeBank (s : State) : Option Nat :=
  let used := s.framesUsed
  ((List.range 256).map fun i => spadAddr (128 * (i / 64) + 96 + i / 8 % 8) (65536 * (i % 8))).find? fun a => !(used.any fun u => rangesMeet u (a, 65536))
/-- R277, R281. The lowest free frame that is bank-striped, for a COMPUTE page.
(Assumption log 60: DESIGN CHOICE.) (Assumption log 61: DESIGN CHOICE.) -/
def State.freeStriped (s : State) : Option Nat :=
  let used := s.framesUsed
  ((List.range (tableAddr s.nextTable / 2 ^ 21)).find? fun f =>
    (Config.striped f).isSome && !(used.any fun u => rangesMeet u (f * 2 ^ 21, 2 ^ 21))).map fun f => f * 2 ^ 21
/-- R13, R301. The 2 KiB rows of a pseudo-channel. -/
def rowsPerPc : Nat := 192 * 2 ^ 30 / 256 / 2048
/-- R277, R301. The rows of a pseudo-channel that a 64 KiB frame (by its number) holds.
(Assumption log 61: DESIGN CHOICE.) -/
def rowsOfFrame (pc f : Nat) : Nat :=
  match Config.striped (f / 32) with | some p => if p % 1024 = pc then 32 else 0 | none => Config.rowsOf pc f
/-- R301. The 64 KiB frames of DRAM whose rows are not free, each once: those of mapped pages and retired frames. The bank of a SYSATOM page has no
rows. -/
def State.smallFrames (s : State) : List Nat :=
  let pieces (u : Nat × Nat) : List Nat := if bitAt u.1 47 then [] else (List.range (u.2 / 65536)).map fun i => u.1 / 65536 + i
  (s.framesUsed.flatMap pieces).eraseDups
/-- R301. The 2 KiB rows of a pseudo-channel that are not free: those of frames in use, or of an undercoat.
(Assumption log 61: DESIGN CHOICE.) -/
def State.rowsTaken (s : State) (pc : Nat) : Nat :=
  let mapped := s.smallFrames.foldl (fun n f => n + rowsOfFrame pc f) 0
  let under := s.regions.foldl (fun n e => if e.2.step ∧ (e.2.slices.any fun sl => sl.pc = pc) then n + e.2.params.urows else n) 0
  mapped + under

/-! ### The tree (R272 to R275) -/

/-- R275. The root table; firmware makes one and gives it to every die when there is none. -/
def State.root (s : State) : Nat × State :=
  let r := (s.die 0).xlroot.toNat
  if r % 2 = 1 then (bits r 31 1 * 2 ^ 16, s)
  else
    let a := tableAddr s.nextTable
    let w : Word32 := BitVec.ofNat 32 (a / 2 ^ 16 * 2 + 1)
    (a, { s with nextTable := s.nextTable + 1, dies := s.dies.map fun d => { d with xlroot := w } })
/-- R273. The table that an entry names; firmware makes one where there is none.
(Assumption log 60: DESIGN CHOICE.) -/
def State.subTable (s : State) (entry : Nat) : Nat × State :=
  let e := Memory.value s.mem entry 8
  if e % 4 = 3 then (bits e 47 12 * 4096, s)
  else
    let a := tableAddr s.nextTable
    (a, { s with nextTable := s.nextTable + 1, mem := Memory.store s.mem entry 8 (a + 3) })
/-- R272. The address of the leaf entry of a page, with the tables above it. -/
def State.leafSlot (s : State) (va : Nat) (small : Bool) : Nat × State :=
  let t0 := s.root
  let t1 := t0.2.subTable (t0.1 + 8 * walkIndex va 0)
  let t2 := t1.2.subTable (t1.1 + 8 * walkIndex va 1)
  let e2 := t2.1 + 8 * walkIndex va 2
  if small then
    let t3 := t2.2.subTable e2
    (t3.1 + 8 * walkIndex va 3, t3.2)
  else (e2, t2.2)
/-- R273. The leaf entry of a page. -/
def leafEntry (p : Page) : Nat := 1 + 4 * p.wr.toNat + p.frame + p.attr % 128 * 2 ^ 52
/-- Writes the leaf entry of a page. -/
def State.setLeaf (s : State) (va : Nat) (p : Page) : State :=
  let e := s.leafSlot va p.small
  e.2.setMem (Memory.store e.2.mem e.1 8 (leafEntry p))
/-- Clears the leaf entry of a page. -/
def State.clearLeaf (s : State) (va : Nat) (p : Page) : State :=
  let e := s.leafSlot va p.small
  e.2.setMem (Memory.store e.2.mem e.1 8 0)
/-- Changes the page at a virtual address, in the list of pages and in the tree. -/
def State.setPage (s : State) (va : Nat) (p : Page) : State := { s.setLeaf va p with pages := AMap.set s.pages va p }
/-- R280. The pages of a range. -/
def State.pagesIn (s : State) (va len : Nat) : List (Nat × Page) := s.pages.filter fun e => rangesMeet (e.1, e.2.size) (va, len)

/-! ### Taking a frame out of use (R282, R285) -/

/-- A first-level block without what lies in a frame. -/
def stripFrame (frame size : Nat) (b : CacheBlock) : CacheBlock :=
  { b with words := b.words.filter fun w => !decide (frame ≤ 8 * w.addr ∧ 8 * w.addr < frame + size) }
/-- R20, R282, R285, R366. Every write of a frame that is still in a first-level cache or on its way is performed at its home, in the last-level cache,
with the errors of its words, and no first-level cache keeps a copy.
(Assumption log 25: DEDUCED.) -/
def State.settleFrame (s : State) (frame size : Nat) : State :=
  let inside (a : Nat) : Bool := decide (frame ≤ a ∧ a < frame + size)
  let writes := s.chans.flatMap fun e => (e.2.q0 ++ e.2.q1).filter fun r => r.bytes.isSome && inside r.addr
  let queued := writes.filterMap fun r => r.bytes.map fun bs => (r.addr, bs)
  let mem := queued.foldl (fun m w => Memory.write m w.1 w.2) s.mem
  let dirty := s.cores.flatMap fun e => e.2.l1.flatMap fun x => x.2.flatMap fun b => b.dirtyBytes.filter fun p => inside p.1
  let mem := dirty.foldl (fun m p => Memory.set m p.1 p.2) mem
  let whole (w : Nat) : Bool := (List.range 8).all fun i => dirty.any fun p => p.1 = w / 8 * 8 + i
  let bad := writes.flatMap (fun r => r.bad)
    ++ s.cores.flatMap fun e => (e.2.l1.flatMap fun x => x.2.flatMap fun b => b.dirtyBytes).flatMap fun p =>
      if inside p.1 then s.badWords e.1 p.1 1 else []
  let keep (r : DramReq) : Bool := !(r.bytes.isSome && inside r.addr)
  let core (c : Core) : Core := { c with l1 := c.l1.map fun x => (x.1, x.2.map (stripFrame frame size)) }
  { s with
    mem := mem
    poison := bad ++ (queued.foldl (fun l w => healed l w.1 w.2.length) s.poison).filter fun w => !whole w
    touched := dirty.foldl (fun l p => touch l p.1 1 s.nextSeq) (queued.foldl (fun l w => touch l w.1 w.2.length s.nextSeq) s.touched)
    cores := s.cores.map fun e => (e.1, core e.2)
    chans := s.chans.map fun e => (e.1, { e.2 with q0 := e.2.q0.filter keep, q1 := e.2.q1.filter keep }) : State }.landSectors
    (queued.map (fun w => w.1) ++ dirty.map fun p => p.1)
/-- R282. A place of n bytes lies in a frame. -/
def Where.inFrame (w : Where) (n frame size : Nat) : Bool :=
  match w with
  | .spad _ => false
  | .window k a => rangesMeet (spadAddr k a, n) (frame, size)
  | .phys pa => rangesMeet (pa, n) (frame, size)
/-- R282. What an unretired bundle of a context, or an access it has not sent, will still do to a frame. -/
def Ctx.holdsFrame (x : Ctx) (frame size : Nat) : Bool :=
  (x.inflight.any fun b => b.eff.any fun e => match e with
    | .globalStore _ l _ _ _ _ => l.any fun p => rangesMeet (p.1, p.2.length) (frame, size)
    | .windowStore _ k _ _ l => l.any fun p => rangesMeet (spadAddr k p.1, 1) (frame, size)
    | .trowel k far _ a _ _ => far && rangesMeet (spadAddr k a, 4) (frame, size)
    | _ => false)
    || x.held.any fun h => match h.work with
      | .load _ _ n _ _ _ w => w.inFrame n frame size
      | .atomic k b _ => rangesMeet (spadAddr k (65536 * b), 65536) (frame, size)
/-- R282, R328. An armed pass of a channel, or one that begins with its starting table, works in a frame that it translated when it was armed. -/
def Channel.worksIn (c : Channel) (frame size : Nat) : Bool :=
  let meets (p : Pass) : Bool := p.frames.any fun f => rangesMeet (f.2, 2 ^ 21) (frame, size)
  c.pass.any meets || (c.starting.bind fun x => x.pass).any meets
/-- R282. An access to a frame is still on its way. -/
def State.readsFrame (s : State) (frame size : Nat) : Bool :=
  let bank (k b : Nat) : Bool := rangesMeet (spadAddr k (65536 * b), 65536) (frame, size)
  (s.chans.any fun e => (e.2.q0 ++ e.2.q1).any fun r => decide (frame ≤ r.addr ∧ r.addr < frame + size))
    || (s.chans.any fun e => e.2.worksIn frame size)
    || (s.cores.any fun e => e.2.ctxs.any fun x => x.holdsFrame frame size)
    || (s.transit.any fun t => bank t.2.1 t.2.2.1)
    || (decide (2 ^ 47 ≤ frame) && s.cores.any fun e => (List.range 8).any fun b => bank e.1 b && !(e.2.bank b).queue.isEmpty)
/-- R276. The dies whose lookaside buffers, or one of whose cores' buffers, hold the entry of a page. -/
def State.diesWith (s : State) (va size : Nat) : List Nat :=
  (List.range 4).filter fun d => (tlbFind (s.die d).tlb va size).isSome
    || s.cores.any fun e => e.1 / 128 = d && (tlbFind e.2.tlb va size).isSome
/-- R276, R282. In any cycle a die may drop the entry of an unmapped page from its lookaside buffers and those of its cores: a free choice. -/
def State.dropEntries (s : State) : State :=
  let r := s.unmaps.foldl (fun (a : State × List Unmap) u =>
    if u.dies.isEmpty then (a.1, a.2 ++ [u])
    else
      let d := a.1.drawBelow 16
      let gone := u.dies.filter fun i => !bitAt d.1 i
      (d.2.tlbDrop gone u.va u.size, a.2 ++ [{ u with dies := u.dies.filter fun i => !gone.contains i }])) (s, [])
  { r.1 with unmaps := r.2 }
/-- R282. An unmapping is over when no die holds its entry and every access in flight has been performed; what those accesses wrote is then
at its home, and a command with none left is answered. -/
def State.settleUnmaps (s : State) : State :=
  let s := s.dropEntries
  let ended (u : Unmap) : Bool := u.dies.isEmpty && !s.readsFrame u.frame u.size
  let left := s.unmaps.filter fun u => !ended u
  let tags := (s.unmaps.map fun u => u.tag).eraseDups.filter fun t => !(left.any fun u => u.tag = t)
  let t := (s.unmaps.filter ended).foldl (fun s u => s.settleFrame u.frame u.size) s
  tags.foldl (fun s t => s.report .response t stOk []) { t with unmaps := left }

end Sys2Proof.Machine
end

