-- ==== Sys2Proof/Machine/Cursor.lean ====
section
/-! DEFINITION. The cursors of skimmed and step regions (spec/18 R286 to R299, 19 R300 to R314, 28 R388): admission, coats, visits of rows and
groups, commits, undo records, step loads and the end of a region. -/
namespace Sys2Proof.Machine

/-! ### Regions and slices -/

/-- The region and slice of a step, if there are such. -/
def State.sliceAt (s : State) (r i : Nat) : Option (Region × Slice) :=
  (AMap.get? s.regions r).bind fun g => (g.slices[i]?).map fun sl => (g, sl)
/-- R284, R300. Bytes of a unit of the sweep: a row, or a group. -/
def Region.unitBytes (g : Region) : Nat := if g.step then 8192 else 2048
/-- R284, R300. The rows or groups that slice i holds. -/
def Region.unitsIn (g : Region) (i : Nat) : Nat := (g.len / g.unitBytes + g.slices.length - 1 - i) / max 1 g.slices.length
/-- The slice-local unit of a region offset. -/
def Region.unitOf (g : Region) (off : Nat) : Nat := off / g.unitBytes / max 1 g.slices.length
/-- The region offset of slice i's local unit u. -/
def Region.unitOff (g : Region) (i u : Nat) : Nat := (u * g.slices.length + i) * g.unitBytes
/-- The home of a region offset, through the tree of the slice's die. -/
def State.regionHome (s : State) (g : Region) (sl : Slice) (off : Nat) : Option Nat := (translate s (sl.pc / 256) (g.base + off)).map fun l => l.pa
/-- R289. The cursor may move: its channel is in a CUR window with `need` ticks left.
(Assumption log 50: DEDUCED.) -/
def State.curOpen (s : State) (sl : Slice) (need : Nat) : Bool :=
  let c := s.chan (sl.pc / 2)
  c.openFor 2 s.tick && decide (s.tick + need ≤ c.ends)
/-- R291. The last coat that every slice has completed. -/
def Region.coatDone (g : Region) : Nat := match g.slices with | [] => 0 | sl :: l => l.foldl (fun n x => min n x.done) sl.done
/-- R307. F.
(Assumption log 52: DEDUCED.) -/
def Region.reach (g : Region) : Int :=
  let back : Int := (g.head : Int) - g.params.bcfg
  match g.readers with
  | [] => back
  | e :: l => max back (l.foldl (fun n x => min n x.2) e.2 : Nat)
/-- R306. The bytes of a record. -/
def recordSize (pm : Nat) : Nat := 8 + 512 * ((List.range 4).filter fun b => bitAt pm b).length
/-- R306. The undercoat rows of a slice that no held record touches. -/
def Region.freeUnder (g : Region) (sl : Slice) : Nat :=
  let rows := g.params.urows
  let used (u : UndoRec) : List Nat := (List.range ((u.pos % 2048 + recordSize u.pm + 2047) / 2048)).map fun i => (u.pos / 2048 + i) % max 1 rows
  rows - ((sl.undo.flatMap used).eraseDups).length
/-- R304, R306. Every slice has free rows for a full record of each of its groups. -/
def Region.canCommit (g : Region) : Bool :=
  (List.range g.slices.length).all fun i => match g.slices[i]? with
    | some sl => decide ((2056 * g.unitsIn i + 2047) / 2048 ≤ g.freeUnder sl)
    | none => true

/-! ### What commands are told (R296, R312) -/

/-- A command has had its effect: its semaphore and E arrival, unless its context was killed. -/
def State.skimDone (s : State) (q : SkimCmd) : State := if q.silent then s else s.notify q.notify
/-- The reply word of a command, a release at PKG scope (R253, R296, R312). -/
def State.skimWord (s : State) (q : SkimCmd) (a word : Nat) : State :=
  if q.silent then s else (s.releaseWord q.core q.ctx (spadAddr q.core a) 3 []).spadWord q.core q.ctx a word
/-- Bytes that a command writes into its scratchpad. -/
def State.skimData (s : State) (q : SkimCmd) (a : Nat) (bs : List Byte) : State := if q.silent then s else s.engineWrite q.core q.ctx a bs
/-- R297, R286. COATWs that are due complete: those whose target the coat completed on every slice has reached, or all with a status when
the region goes. -/
def State.settleCoatw (s : State) (r : Nat) (gone : Bool) : State :=
  match AMap.get? s.regions r with
  | none => s
  | some g =>
    let m := g.coatDone
    let due (w : CoatWait) : Bool := gone || decide ((m + 2 ^ 32 - w.target % 2 ^ 32) % 2 ^ 32 < 2 ^ 31)
    let s := s.modRegion r fun g => { g with coatw := g.coatw.filter fun w => !due w }
    (g.coatw.filter due).foldl (fun s w =>
      (s.skimWord w.cmd w.reply (statusWord (if gone then stAttr else stOk) 0 (m % 2 ^ 32))).skimDone w.cmd) s
/-- R304, R305. Every counted STEPC completes, and the count returns to 0.
(Assumption log 51: DEDUCED.) -/
def State.endCounted (s : State) (r status coat : Nat) : State :=
  match AMap.get? s.regions r with
  | none => s
  | some g =>
    let s := s.modRegion r fun g => { g with counted := [], readyCoat := none, commit := none }
    g.counted.foldl (fun s w =>
      let s := match w.cmd.op with
        | .stepc _ (some a) => s.skimWord w.cmd a (statusWord status 0 (coat % 2 ^ 32))
        | _ => s
      s.skimDone w.cmd) s

/-! ### Admission (R287, R288, R304) -/

/-- R304. A STEPC waits for an earlier SKU of its context to its region. -/
def Region.holdsBack (g : Region) (q : SkimCmd) : Bool :=
  match q.op with
  | .stepc _ _ => g.slices.any fun sl => sl.transit.any fun p =>
      p.ofCtx q.core q.ctx && decide (p.bid < q.bid) && (match p.op with | .sku _ _ _ => true | _ => false)
  | _ => false
/-- R287. The first command on its way that may be admitted; commands of one context keep their order. -/
def Region.nextAdmitted (g : Region) : List SkimCmd → List (Nat × Nat) → Option SkimCmd
  | [], _ => none
  | q :: l, held =>
    if held.contains (q.core, q.ctx) then g.nextAdmitted l held
    else if g.holdsBack q then g.nextAdmitted l ((q.core, q.ctx) :: held)
    else some q
/-- R341. A command whose die link goes DOWN before it completes ends with LINK. -/
def State.skimCut (s : State) (q : SkimCmd) : State :=
  let s := match q.op.reply? with | some a => s.skimWord q a (statusWord stLink 0 0) | none => s
  s.skimDone q
/-- R341. The commands of a region that wait for a slice on the other side of a cut end with LINK; a counted STEPC stays counted. -/
def State.cutRegion (s : State) (cut : Nat → Nat → Bool) (r : Nat) (g : Region) : State :=
  let lost (sl : Slice) (q : SkimCmd) : Bool := cut (q.core / 128) (sl.pc / 256)
  let far (w : CoatWait) : Bool := g.slices.any fun sl => lost sl w.cmd
  let gone := g.slices.flatMap fun sl => (sl.transit ++ sl.queue).filter (lost sl)
  let home (q : SkimCmd) : Bool := match g.slices with | sl :: _ => lost sl q && !q.silent | [] => false
  let mute (w : Counted) : Counted := if home w.cmd then { cmd := { w.cmd with silent := true } } else w
  let s := s.modRegion r fun g => { g with
    slices := g.slices.map fun sl => { sl with transit := sl.transit.filter fun q => !lost sl q, queue := sl.queue.filter fun q => !lost sl q },
    coatw := g.coatw.filter fun w => !far w, counted := g.counted.map mute }
  let s := (gone ++ (g.counted.filter fun w => home w.cmd).map fun w => w.cmd).foldl State.skimCut s
  (g.coatw.filter far).foldl (fun s w => (s.skimWord w.cmd w.reply (statusWord stLink 0 0)).skimDone w.cmd) s
/-- R287, R288. A slice writes a command into its admission queue; the coat that handles it is the one after the coat in progress, or the
next one. -/
def execSkimAdmission (region slice : Nat) (s : State) : Out :=
  match s.sliceAt region slice with
  | none => .next s
  | some (g, sl) =>
    match g.nextAdmitted sl.transit [] with
    | none => .next s
    | some q =>
      let coat := sl.done + (if sl.busy then 2 else 1)
      if !s.diesJoined (q.core / 128) (sl.pc / 256) then
        .next ((s.modSlice region slice fun x => { x with transit := x.transit.erase q }).skimCut q)
      else
      .next (s.modSlice region slice fun x => { x with
        transit := x.transit.erase q, queue := x.queue ++ [{ q with coat := some coat, order := x.nextOrder }], nextOrder := x.nextOrder + 1 })

/-! ### The start of a coat (R289, R291, R304, R308, R314) -/

/-- R304, R314. A STEPC is handled: counted for step H + 1, or answered. -/
def State.handleStepc (s : State) (r : Nat) (q : SkimCmd) (step : Nat) (reply : Option Nat) (n : Nat) : State :=
  match AMap.get? s.regions r with
  | none => s
  | some g =>
    if step = g.head + 1 then s.modRegion r fun g => { g with counted := g.counted ++ [⟨q⟩] }
    else
      let status := if step ≤ g.head then stStepBack else stStepFwd
      let s := match reply with | some a => s.skimWord q a (statusWord status 0 (n % 2 ^ 32)) | none => s
      s.skimDone q
/-- R307, R314. An LWM takes effect. -/
def Region.lwm (g : Region) (step id : Nat) (drop : Bool) : Region :=
  if drop then { g with readers := AMap.erase g.readers id }
  else { g with readers := AMap.set g.readers id (max step (AMap.getD g.readers id 0)) }
/-- R314. STEPQ's answer.
(Assumption log 52: DEDUCED.) -/
def State.answerStepq (s : State) (g : Region) (q : SkimCmd) (a n : Nat) : State :=
  let free := match g.slices with | [] => 0 | sl :: l => l.foldl (fun m x => min m (g.freeUnder x)) (g.freeUnder sl)
  let w3 := g.counted.length % 2 ^ 16 + min free (2 ^ 32 - 1) * 2 ^ 16
  let s := s.skimData q (a + 8) (leBytes 8 g.head ++ leBytes 8 (g.reach % 2 ^ 64).toNat ++ leBytes 8 w3)
  (s.skimWord q a (statusWord stOk 0 (n % 2 ^ 32))).skimDone q
/-- R304, R308, R314. The coordinating slice begins coat n: its STEPCs, LWMs and STEPQs are handled, in admission order. -/
def State.coordinate (s : State) (r n : Nat) : State :=
  match s.sliceAt r 0 with
  | none => s
  | some (_, sl) =>
    let now (q : SkimCmd) : Bool := (match q.coat with | some c => decide (c ≤ n) | none => false) &&
      (match q.op with | .stepc _ _ => true | .lwm _ _ _ => true | .stepq _ => true | _ => false)
    let s := s.modSlice r 0 fun x => { x with queue := x.queue.filter fun q => !now q }
    let s := (sl.queue.filter now).foldl (fun s q => match q.op with
      | .stepc step reply => s.handleStepc r q step reply n
      | .lwm step id drop => (s.modRegion r fun g => g.lwm step id drop).skimDone q
      | .stepq a => (match AMap.get? s.regions r with | some g => s.answerStepq g q a n | none => s)
      | _ => s) s
    s.modRegion r fun g =>
      if g.params.nupd ≤ g.counted.length ∧ g.step = true ∧ g.readyCoat.isNone ∧ g.commit.isNone then { g with readyCoat := some n } else g
/-- R304. At the first start of coat n, the coat is chosen as commit coat if it qualifies. -/
def Region.choose (g : Region) (n : Nat) : Region :=
  match g.readyCoat, g.commit with
  | some c, none =>
    if c < n ∧ n ≤ c + g.params.dlim ∧ g.head < 2 ^ 48 - 1 ∧ g.canCommit = true then { g with commit := some n } else g
  | _, _ => g
/-- R289, R291. A slice begins its next coat once every slice has completed the one before: in the first tick after that in which a CUR window of its
channel is open, and so commands admitted until then are handled in it (R288).
(Assumption log 108: DESIGN CHOICE.) -/
def execCoatStart (region slice : Nat) (s : State) : Out :=
  match s.sliceAt region slice with
  | none => .next s
  | some (g, sl) =>
    if sl.busy || g.slices.any (fun x => decide (x.done < sl.done) || !s.diesJoined (x.pc / 256) (sl.pc / 256)) || !s.curOpen sl 1 then .next s
    else
      let n := sl.done + 1
      let first := g.slices.all fun x => decide (x.done = sl.done) && !x.busy
      let s := if first then s.modRegion region fun g => g.choose n else s
      let s := s.modSlice region slice fun x => { x with busy := true, row := 0 }
      .next (if slice = 0 then s.coordinate region n else s)
/-- R304. No coat qualified within DLIM coats: the commit fails. -/
def execCommitFail (region : Nat) (s : State) : Out :=
  match AMap.get? s.regions region with
  | none => .next s
  | some g =>
    match g.readyCoat, g.commit with
    | some c, none =>
      if g.slices.any fun x => decide (c + g.params.dlim ≤ x.done + x.busy.toNat) then .next (s.endCounted region stRetentionFull (c + g.params.dlim))
      else .next s
    | _, _ => .next s

/-! ### Visits (R289, R290, R295, R296, R298, R303, R305) -/

/-- R290. Updates in service order: admission order, or ascending (die, core, seq). -/
def serviceOrder (dord : Bool) (l : List SkimCmd) : List SkimCmd :=
  if dord then l.mergeSort fun a b => decide (a.core < b.core) || (decide (a.core = b.core) && decide (a.seq ≤ b.seq)) else l
/-- R295. The new word of an update. -/
def skuWord (op w x : Nat) : Nat := if op = 0 then (w + x) % 2 ^ 32 else if op = 1 then x else f32Add w x
/-- R295, R303. An update is applied to the 512 bytes at their home. -/
def State.applySku (s : State) (a op : Nat) (clusters : BitVec 8) (v : VReg) : State :=
  { s.setMem ((List.range 128).foldl (fun m i =>
    if clusters.getLsbD (i / 16) then Memory.store m (a + 4 * i) 4 (skuWord op (Memory.value m (a + 4 * i) 4) (v[i]?.getD 0).toNat) else m) s.mem) with
    touched := touch s.touched a 512 s.nextSeq }
/-- R298. An uncorrectable error in a row in coat n: RSTAT records it, and the host is told once. -/
def State.rowError (s : State) (r row n : Nat) : State :=
  match AMap.get? s.regions r with
  | none => s
  | some g =>
    let known := g.told.contains (row, n)
    let s := s.modRegion r fun g => { g with
      lastError := some (row, n), told := if known then g.told else (row, n) :: g.told.filter fun t => decide (n ≤ t.2 + 1) }
    if known then s else s.report .event r stEcc [row, n % 2 ^ 32]
/-- R283, R298, R366, R380. The cursor reads a row from DRAM: an uncorrectable error stays with its first word.
(Assumption log 83: PRESUMED.) -/
def State.openRow (s : State) (a : Nat) : State :=
  let r := (s.countTransfer (chanOfPc (homePc a))).dramRead a
  if r.1 then { r.2 with poison := a :: r.2.poison } else r.2
/-- R303, R305. The row of a unit, from 0, that a command reads or writes; in a step region a WLD's prediction reads the change row too. -/
def SkimCmd.rowsIn (q : SkimCmd) (step : Bool) : List Nat :=
  if !step then [0]
  else match q.op with
    | .sku _ _ _ => [3]
    | .wld _ _ mode _ => if mode = 2 then [0, 2] else [0]
    | _ => [q.off / 2048 % 4]
/-- R289, R305. The rows of a unit that its visit opens: those of its commands, and all four of a group that is committed. -/
def visitRows (step commit : Bool) (work : List SkimCmd) : List Nat :=
  if commit then [0, 1, 2, 3] else ((work.flatMap fun q => q.rowsIn step)).eraseDups
/-- R295, R298, R303. One update of a unit, in coat n. -/
def State.serveUpdate (s : State) (r : Nat) (g : Region) (sl : Slice) (n : Nat) (q : SkimCmd) : State :=
  match q.op with
  | .sku op clusters v =>
    let off := if g.step then q.off / 8192 * 8192 + 0x1800 + q.off % 2048 else q.off
    let s := match s.regionHome g sl off with
      | some a => if s.poisoned (a / 2048 * 2048) 2048 then s.rowError r (off / 2048) n else s.applySku a op clusters v
      | none => s
    s.skimDone q
  | _ => s
/-- R296, R298. One SKR is served in coat n. -/
def State.serveSkr (s : State) (r : Nat) (g : Region) (sl : Slice) (n : Nat) (q : SkimCmd) (dest reply : Nat) : State :=
  match s.regionHome g sl q.off with
  | none => (s.skimWord q reply (statusWord stXlate 0 (n % 2 ^ 32))).skimDone q
  | some a =>
    if s.poisoned (a / 2048 * 2048) 2048 then
      ((s.rowError r (q.off / 2048) n).skimWord q reply (statusWord stEcc 0 (n % 2 ^ 32))).skimDone q
    else ((s.skimData q dest (Memory.read s.mem a 512)).skimWord q reply (statusWord stOk 0 (n % 2 ^ 32))).skimDone q

/-! ### Commits (R302, R305, R306) -/

/-- The 512 words of a row. -/
def State.rowWords (s : State) (a : Nat) : List Nat := (List.range 512).map fun j => Memory.value s.mem (a + 4 * j) 4
/-- Writes a row's words. -/
def State.putRow (s : State) (a : Nat) (ws : List Nat) : State := s.put a (ws.flatMap (leBytes 4))
/-- R305. One word of a commit: the new momentum, change and master. -/
def commitWord (mu eta w u g : Nat) : Nat × Nat × Nat :=
  let u' := encodeNum 0 .rn false (FVal.add .rn (FVal.mul (decodeNum 0 mu) (decodeNum 0 u)) (decodeNum 0 g))
  let d := encodeNum 0 .rn false (FVal.mul (decodeNum 0 eta).negate (decodeNum 0 u'))
  (u', d, f32Add w d)
/-- R306. The plane mask of undo words. -/
def planeMask (undo : List Nat) : Nat :=
  (List.range 4).foldl (fun m b => if undo.any fun x => bits x (8 * b + 7) (8 * b) ≠ 0 then m + 2 ^ b else m) 0
/-- R306. An undo record at the end of a slice's ring. -/
def State.keepRecord (s : State) (r i u step urows : Nat) (undo : List Nat) : State :=
  let pm := planeMask undo
  s.modSlice r i fun x => { x with
    undo := x.undo ++ [{ group := u, step := step, undo := undo, pm := pm, pos := x.ringPos }],
    ringPos := (x.ringPos + recordSize pm) % max 1 (2048 * urows) }
/-- R305, R306. The commit of one group: its rows, and its undo record. -/
def State.commitRows (s : State) (r i u : Nat) (g : Region) (a : Nat) : State :=
  let w := s.rowWords a
  let old := List.zip w (List.zip (s.rowWords (a + 0x800)) (s.rowWords (a + 0x1800)))
  let new := old.map fun p => commitWord g.params.mu.toNat g.params.eta.toNat p.1 p.2.1 p.2.2
  let undo := List.zipWith (fun x p => Nat.xor x p.2.2) w new
  let s := s.putRow a (new.map fun p => p.2.2)
  let s := s.putRow (a + 0x800) (new.map fun p => p.1)
  let s := s.putRow (a + 0x1000) (new.map fun p => p.2.1)
  let s := s.putRow (a + 0x1800) (List.replicate 512 0)
  s.keepRecord r i u g.head g.params.urows undo
/-- R298, R305. The commit of one group in coat n; where a row of it shows an uncorrectable error, its rows stay as they are, with a record of
no change.
(Assumption log 51: DEDUCED.) -/
def State.commitGroup (s : State) (r i u n : Nat) (g : Region) (a : Nat) : State :=
  match (List.range 4).find? fun j => s.poisoned (a + 2048 * j) 2048 with
  | some j => (s.rowError r (g.unitOff i u / 2048 + j) n).keepRecord r i u g.head g.params.urows (List.replicate 512 0)
  | none => s.commitRows r i u g a

/-! ### Step loads (R311, R312, R388) -/

/-- R311, R312. The bytes of an answer. An FP32 answer is the stored word bit by bit: the spec does not say whether a NaN master, which R311 calls "the
stored w", becomes the canonical NaN of R49 on its way.
(Assumption log 103: DESIGN CHOICE.) -/
def wldData (lfmt : Nat) (ws : List Nat) : List Byte :=
  packRow (wldFmt lfmt) (if lfmt = 0 then ws else ws.map fun w => convert 0 (wldFmt lfmt) .rn true w)
/-- R312. A step load is answered: data, reply word 1, reply word 0, the signal. -/
def State.wldAnswer (s : State) (q : SkimCmd) (dest lfmt : Nat) (step : Int) (kind n : Nat) (ws : List Nat) : State :=
  let z := wldBytes lfmt
  let s := s.skimData q dest (wldData lfmt ws)
  let s := s.skimData q (dest + z + 8) (leBytes 8 ((step % 2 ^ 48).toNat + kind * 2 ^ 48))
  (s.skimWord q (dest + z) (statusWord stOk 512 (n % 2 ^ 32))).skimDone q
/-- R312, R388. A step load fails; the detail is the coat of the visit.
(Assumption log 52: DEDUCED.) -/
def State.wldFail (s : State) (q : SkimCmd) (dest lfmt : Nat) (step : Int) (status n : Nat) : State :=
  let z := wldBytes lfmt
  let s := s.skimData q (dest + z + 8) (leBytes 8 (step % 2 ^ 48).toNat)
  (s.skimWord q (dest + z) (statusWord status 0 (n % 2 ^ 32))).skimDone q
/-- R311. The masters of a group at an earlier step, if every record is held: from step `at_` back by n steps.
(Assumption log 52: DEDUCED.) -/
def undoTo (recs : List UndoRec) (u at_ : Nat) (ws : List Nat) : Nat → Option (List Nat)
  | 0 => some ws
  | n + 1 =>
    match recs.find? fun x => x.group = u ∧ x.step = at_ - 1 with
    | some x => undoTo recs u (at_ - 1) (List.zipWith Nat.xor ws x.undo) n
    | none => none
/-- R311. One word of a prediction. -/
def predictWord (ahead : Int) (w d : Nat) : Nat :=
  encodeNum 0 .rn false (FVal.add .rn (decodeNum 0 w) (FVal.mul (.ofInt ahead) (decodeNum 0 d)))
/-- R311. A step load is served in coat n with group step `gs`; false if it goes on waiting.
(Assumption log 52: DEDUCED.) -/
def State.serveWld (s : State) (r : Nat) (g : Region) (sl : Slice) (u n gs : Nat) (q : SkimCmd) (dest lfmt mode : Nat) (step : Int) : State × Bool :=
  match s.regionHome g sl (q.off / 8192 * 8192) with
  | none => (s.wldFail q dest lfmt step stXlate n, true)
  | some a =>
    if s.poisoned a 2048 then ((s.rowError r (q.off / 8192 * 4) n).wldFail q dest lfmt step stEcc n, true)
    else
      let w := s.rowWords a
      let waited := match q.coat with | some c => decide (c < n) | none => false
      let fail := (s.wldFail q dest lfmt step (if step < gs then stStepBack else stStepFwd) n, true)
      if step = gs then (s.wldAnswer q dest lfmt step (if waited then 2 else 0) n w, true)
      else if (gs : Int) - g.params.bcfg ≤ step ∧ step < gs ∧ g.reach ≤ step ∧ 0 ≤ step then
        (match undoTo sl.undo u gs w ((gs : Int) - step).toNat with
          | some ws => (s.wldAnswer q dest lfmt step 1 n ws, true)
          | none => fail)
      else if step = gs + 1 ∧ mode = 1 ∧ step < 2 ^ 48 then (s, false)
      else if (gs : Int) < step ∧ step ≤ gs + g.params.fcfg ∧ mode = 2 ∧ step < 2 ^ 48 then
        if s.poisoned (a + 0x1000) 2048 then ((s.rowError r (q.off / 8192 * 4 + 2) n).wldFail q dest lfmt step stEcc n, true)
        else (s.wldAnswer q dest lfmt step 3 n (List.zipWith (predictWord (step - gs)) w (s.rowWords (a + 0x1000))), true)
      else fail

/-! ### The cursor moves (R289, R305) -/

/-- The commands of a unit that coat n handles, or that have waited for it, in admission order. -/
def Slice.workFor (sl : Slice) (g : Region) (u n : Nat) : List SkimCmd :=
  sl.queue.filter fun q => (match q.coat with | some c => decide (c ≤ n) | none => false) && g.unitOf q.off = u
    && (match q.op with | .sku _ _ _ => true | .skr _ _ => true | .wld _ _ _ _ => true | _ => false)
/-- A command's entry leaves the admission queue. -/
def State.leaveQueue (s : State) (r i : Nat) (q : SkimCmd) : State := s.modSlice r i fun x => { x with queue := x.queue.filter fun p => p.order ≠ q.order }
/-- R289, R290, R305. The visit of one unit in coat n: updates in service order, a commit coat's commit, then the reads.
(Assumption log 50: DEDUCED.) -/
def State.visitUnitAt (s : State) (r i : Nat) (g : Region) (sl : Slice) (u n : Nat) : State :=
  let work := sl.workFor g u n
  let isSku (q : SkimCmd) : Bool := match q.op with | .sku _ _ _ => true | _ => false
  let commit := g.step && g.commit = some n
  let s := match s.regionHome g sl (g.unitOff i u) with
    | some a => (visitRows g.step commit work).foldl (fun s j => s.openRow (a + 2048 * j)) s
    | none => s
  let s := (serviceOrder g.dord (work.filter isSku)).foldl (fun s q => (s.leaveQueue r i q).serveUpdate r g sl n q) s
  let s := if commit then (match s.regionHome g sl (g.unitOff i u) with | some a => s.commitGroup r i u n g a | none => s) else s
  let gs := g.head + commit.toNat
  let old (q : SkimCmd) : Bool := match q.coat with | some c => decide (c < n) | none => false
  let reads := work.filter fun q => !isSku q
  (reads.filter old ++ reads.filter fun q => !old q).foldl (fun s q => match q.op with
    | .skr dest reply => (s.leaveQueue r i q).serveSkr r g sl n q dest reply
    | .wld dest lfmt mode step =>
      (match (s.sliceAt r i).map fun x => s.serveWld r g x.2 u n gs q dest lfmt mode step with
        | some (s', true) => s'.leaveQueue r i q
        | _ => s)
    | _ => s) s
/-- R289. The cursor of a slice passes its next unit: an idle one at once, one with work when 27 ticks of the window remain.
(Assumption log 50: DEDUCED.) -/
def State.sweep (s : State) (r i : Nat) (step : Bool) : State :=
  match s.sliceAt r i with
  | none => s
  | some (g, sl) =>
    if g.step ≠ step ∨ !sl.busy ∨ g.unitsIn i ≤ sl.row then s
    else
      let n := sl.done + 1
      let busy := !(sl.workFor g sl.row n).isEmpty || (g.step && g.commit = some n)
      if s.curOpen sl (if busy then 27 else 1) then
        (s.visitUnitAt r i g sl sl.row n).modSlice r i fun x => { x with row := x.row + 1 }
      else s
/-- R289, R290. SKIM_ROW_VISIT.
(Assumption log 50: DEDUCED.) -/
def execSkimRowVisit (region slice : Nat) (s : State) : Out := .next (s.sweep region slice false)
/-- R305. GROUP_VISIT.
(Assumption log 50: DEDUCED.) -/
def execGroupVisit (region slice : Nat) (s : State) : Out := .next (s.sweep region slice true)
/-- R311. A waiting step load has waited for WLIM coats after the one that handled it. -/
def execWaitTimeout (region slice : Nat) (s : State) : Out :=
  match s.sliceAt region slice with
  | none => .next s
  | some (g, sl) =>
    let late (q : SkimCmd) : Bool := match q.op, q.coat with
      | .wld _ _ _ _, some c => decide (c + g.params.wlim ≤ sl.done)
      | _, _ => false
    .next ((sl.queue.filter late).foldl (fun s q => match q.op, q.coat with
      | .wld dest lfmt _ step, some c => (s.leaveQueue region slice q).wldFail q dest lfmt step stWaitTimeout (c + g.params.wlim)
      | _, _ => s) s)

/-! ### The end of a coat (R289, R302, R305, R307) -/

/-- R302, R305, R307. Coat n is complete on every slice: a commit advances the head and completes its STEPCs, records below F go, and COATWs
that waited for the coat complete. -/
def State.endCoat (s : State) (r n : Nat) : State :=
  let commit := match AMap.get? s.regions r with | some g => decide (g.commit = some n) | none => false
  let s := if commit then (s.modRegion r fun g => { g with head := g.head + 1 }).endCounted r stOk n else s
  let s := s.modRegion r fun g =>
    { g with slices := g.slices.map fun sl => { sl with undo := sl.undo.filter fun x => decide (g.reach ≤ x.step) } }
  s.settleCoatw r false
/-- R289. A slice has completed its coat. -/
def execCoatComplete (region slice : Nat) (s : State) : Out :=
  match s.sliceAt region slice with
  | none => .next s
  | some (g, sl) =>
    if !sl.busy ∨ sl.row < g.unitsIn slice then .next s
    else
      let n := sl.done + 1
      let s := s.modSlice region slice fun x => { x with done := n, busy := false }
      match AMap.get? s.regions region with
      | some g => if g.coatDone = n then .next (s.endCoat region n) else .next s
      | none => .next s

/-! ### The end of a region (R286) -/

/-- R286. The pages of a removed region return to their earlier state. -/
def State.restorePages (s : State) (g : Region) : State :=
  ((List.range g.pinnedBefore.length).zip g.pinnedBefore).foldl (fun s e =>
    let va := g.base + 2 ^ 21 * e.1
    match AMap.get? s.pages va with
    | some p =>
      if e.2 ∨ p.state ≠ .pinned then s else s.setPage va { p with state := .mapped, attr := p.attr / 2 * 2 }
    | none => s) s
/-- R286. The COATWs of a removed region that have issued and not retired: they complete when they retire, for no region, which the number 64
stands for. -/
def Ctx.endCoatw (r m : Nat) (x : Ctx) : Ctx :=
  let turn (e : Effect) : Effect := match e with
    | .coatw r' w => if r' = r then .coatw 64 { w with last := m } else e
    | e => e
  { x with inflight := x.inflight.map fun i => { i with eff := i.eff.map turn } }
/-- R286. A draining region whose queues are empty and whose slices have each completed one further coat is removed.
(Assumption log 51: DEDUCED.) -/
def execRegionRemoved (region : Nat) (s : State) : Out :=
  match AMap.get? s.regions region with
  | none => .next s
  | some g =>
    let empty := g.slices.all fun sl => sl.queue.isEmpty && sl.transit.isEmpty && sl.reserved = 0
    let begun := g.slices.foldl (fun n sl => max n (sl.done + sl.busy.toNat)) 0
    if g.state ≠ .draining then .next s
    else if !empty then .next (s.modRegion region fun g => { g with drainFrom := none })
    else match g.drainFrom with
      | none => .next (s.modRegion region fun g => { g with drainFrom := some begun })
      | some d =>
        if g.coatDone ≤ d then .next s
        else
          let s := (s.settleCoatw region true).endCounted region stAttr g.coatDone
          let turn (e : Nat × Core) : Nat × Core := (e.1, { e.2 with ctxs := e.2.ctxs.map (Ctx.endCoatw region (g.coatDone % 2 ^ 32)) })
          let s := { s with regions := AMap.erase s.regions region, cores := s.cores.map turn }.restorePages g
          .next (g.destroyTags.foldl (fun s t => s.report .response t stOk []) s)

end Sys2Proof.Machine
end

