-- ==== Sys2Proof/Machine/Pages.lean ====
section
/-! DEFINITION. Host transfers and the host's page and region commands (spec/17 R271, R279 to R282, 18 R285, R286, 19 R301, 13 R234). -/
namespace Sys2Proof.Machine

/-! ### Host commands (R234, R376, R378) -/

/-- A response to a host command. -/
def State.respond (s : State) (h : HostHdr) (status : Nat) (data : List Nat) : State := s.report .response h.tag status data
/-- R234. The header is refused: a version that was not negotiated, or a reserved field.
(Assumption log 93: DEDUCED.) -/
def badHeader (h : HostHdr) : Bool := h.ver ≠ 1 || h.reserved ≠ 0
/-- R376, R378. The module takes commands: it is READY and not in recovery. -/
def State.takesCommands (s : State) : Bool := s.stage = .ready && !s.recovery
/-- R234, R376, R378. A command of a READY module: refused with ATTR, or what it does. -/
def command (h : HostHdr) (s : State) (f : State) : Out :=
  .next (if badHeader h || !s.takesCommands then s.respond h stAttr [] else f)

/-! ### Host transfers (R271, R279) -/

/-- R279. The leaf of a host address: an unmapped one has none.
(Assumption log 72: DEDUCED.) -/
def hostLeaf (s : State) (a : Nat) : Option Leaf :=
  match spaceOf a with | .global va => translate s 0 va | _ => none
/-- The parts of a host transfer, one for each 64 KiB that it touches: address and length.
(Assumption log 72: DEDUCED.) -/
def hostParts (va len : Nat) : List (Nat × Nat) :=
  (List.range (len / 65536 + 2)).filterMap fun i =>
    let lo := max va (va / 65536 * 65536 + 65536 * i)
    let hi := min (va + len) (va / 65536 * 65536 + 65536 * (i + 1))
    if lo < hi then some (lo, hi - lo) else none
/-- R279, R366. The status of one part: XLATE without a mapping, ATTR where the page's attributes refuse it; a read that meets an uncorrectable
error reports it.
(Assumption log 83: PRESUMED.) -/
def hostStatus (s : State) (write : Bool) (p : Nat × Nat) : Nat :=
  match hostLeaf s p.1 with
  | none => stXlate
  | some l => if !l.allows write then stAttr else if !write && !l.remote && s.poisoned l.pa p.2 then stEcc else stOk
/-- R279. The status of a transfer: that of the first page that refuses. -/
def transferStatus (s : State) (write : Bool) (parts : List (Nat × Nat)) : Nat :=
  ((parts.map fun p => hostStatus s write p).find? fun x => x ≠ stOk).getD stOk
/-- R20, R279. The sectors of this module's DRAM in the parts of a transfer that are allowed. -/
def hostSectors (s : State) (write : Bool) (parts : List (Nat × Nat)) : List Nat :=
  parts.flatMap fun p => match hostLeaf s p.1 with
    | some l => if !l.allows write || l.remote || bitAt l.pa 47 then [] else sectorsOf l.pa p.2
    | none => []
/-- R258, R347. The control-core banks in the parts of a transfer that are allowed have nothing in their orders: what a transfer does there
comes after what had reached the bank.
(Assumption log 72: DEDUCED.) -/
def hostBanksQuiet (s : State) (write : Bool) (parts : List (Nat × Nat)) : Bool :=
  parts.all fun p => match hostLeaf s p.1 with
    | some l => !(l.allows write && !l.remote && bitAt l.pa 47) || (s.bank (bits l.pa 29 21) (bits l.pa 20 16)).queue.isEmpty
    | none => true
/-- R20. A host transfer that cannot be served yet is taken up again in the next cycle. -/
def State.later (s : State) (j : HostJob) : State := { s with hostJobs := s.hostJobs ++ [j] }
/-- R20. A byte of a host read: as it is now, or, of an armed pass's storage, as it was in the WIN entry in which it was read. -/
def State.hostByte (s : State) (got : AMap (List Byte)) (pa : Nat) : Byte :=
  if s.nearArmed pa && !s.winOpen pa then ((AMap.getD got (pa / 64) [])[pa % 64]?).getD 0 else Memory.get s.mem pa
/-- R20, R258, R279. HOST_READ: the bytes of the pages that allow it, and the status of the first that does not; sectors that the last-level caches
lack are read in WIN entries of their channels, those of an armed pass's storage (`got`) one by one as their windows come.
(Assumption log 72: DEDUCED.) -/
def State.hostRead (s : State) (tag va len : Nat) (got : AMap (List Byte)) : State :=
  let parts := hostParts va len
  let sectors := hostSectors s false parts
  let r := s.fetchSectors sectors
  let s := r.2
  let got := sectors.foldl (fun m pa => if s.nearArmed pa && s.winOpen pa then AMap.set m (pa / 64) (Memory.read s.mem pa 64) else m) got
  let there := r.1 || sectors.all fun pa => (AMap.get? got (pa / 64)).isSome || s.winOpen pa || (!s.nearArmed pa && s.llcHit pa)
  if !there || !hostBanksQuiet s false parts then s.later (.read tag va len got)
  else
    let data := parts.flatMap fun p => match hostLeaf s p.1 with
      | some l =>
        if !l.allows false then []
        else if l.remote then (remoteBytes s.free l.pa p.2).map BitVec.toNat
        else if r.1 then (Memory.read s.mem l.pa p.2).map BitVec.toNat
        else ((List.range p.2).map fun i => s.hostByte got (l.pa + i)).map BitVec.toNat
      | none => []
    { s with free := s.free + 1 }.report .response tag (transferStatus s false parts) data
/-- R20. What a host write writes into an armed pass's storage now, piece by piece as windows come; `done` are the pieces written. -/
def State.hostPieces (s : State) (va : Nat) (bytes : List Byte) (done : List Nat) : List Nat × State :=
  let pieces := (hostParts va bytes.length).flatMap fun p => match hostLeaf s p.1 with
    | some l => if !l.allows true || l.remote then [] else runsOf (bytesAt l.pa ((bytes.drop (p.1 - va)).take p.2))
    | none => []
  (pieces.filter fun w => s.nearArmed w.1 && s.winOpen w.1 && !done.contains (w.1 / 64)).foldl (fun r w => (w.1 / 64 :: r.1, r.2.put w.1 w.2)) (done, s)
/-- R20, R258, R279, R360. HOST_WRITE: performed at its home on the pages that allow it.
(Assumption log 72: DEDUCED.) -/
def State.hostWrite (s : State) (tag va : Nat) (bytes : List Byte) (done : List Nat) : State :=
  let parts := hostParts va bytes.length
  let sectors := hostSectors s true parts
  if !hostBanksQuiet s true parts then s.later (.write tag va bytes done)
  else if s.homeOpen (sectors.filter fun pa => !done.contains (pa / 64)) then
    let put (s : State) (p : Nat × Nat) : State := match hostLeaf s p.1 with
      | some l => if !l.allows true || l.remote then s else
          if done.isEmpty then s.put l.pa ((bytes.drop (p.1 - va)).take p.2)
          else (runsOf (bytesAt l.pa ((bytes.drop (p.1 - va)).take p.2))).foldl (fun s w => if done.contains (w.1 / 64) then s else s.put w.1 w.2) s
      | none => s
    ((parts.foldl put s).landSectors sectors).report .response tag (transferStatus s true parts) []
  else
    let r := s.hostPieces va bytes done
    r.2.later (.write tag va bytes r.1)
/-- R271, R279. HOST_ATOMIC: to the trowel unit of a control-core bank on a SYSATOM page, else refused; it waits while the bank's queue is full.
(Assumption log 72: DEDUCED.) -/
def State.hostAtomic (s : State) (tag va : Nat) (op : HostAtomOp) (wide : Bool) (a b : Nat) : State :=
  match hostLeaf s va with
  | none => s.report .response tag stHostAtomic []
  | some l =>
    let k := bits l.pa 29 21
    let bank := bits l.pa 20 16
    if !l.sysatom || va % (if wide then 8 else 4) ≠ 0 then s.report .response tag stHostAtomic []
    else if !l.wr || !(s.bank k bank).mode.plain then s.report .response tag stAttr []
    else if 16 ≤ s.queueHeld k bank then s.later (.atomic tag va op wide a b)
    else s.modBank k bank fun x => x.add
      { core := 512, ctx := 0, work := .trowel (.hostAtomic op wide a b tag) (bits l.pa 20 0) 0 none, issued := 0,
        notBefore := s.sfc + 1, cycle := 0, ends := none, sent := s.sfc }
/-- What a host transfer or host atomic comes to now. -/
def State.hostJob (s : State) (j : HostJob) : State :=
  match j with
  | .read tag va len got => s.hostRead tag va len got
  | .write tag va bytes done => s.hostWrite tag va bytes done
  | .atomic tag va op wide a b => s.hostAtomic tag va op wide a b
/-- R20, R271. The host transfers and atomics that wait are taken up again. -/
def State.retryHost (s : State) : State := s.hostJobs.foldl State.hostJob { s with hostJobs := [] }
/-- R279. HOST_READ. -/
def execHostRead (tag va len : Nat) (s : State) : Out := .next (s.hostRead tag va len [])
/-- R279, R360. HOST_WRITE. -/
def execHostWrite (tag va : Nat) (bytes : List (BitVec 8)) (s : State) : Out := .next (s.hostWrite tag va bytes [])
/-- R271, R279. HOST_ATOMIC. -/
def execHostAtomic (tag va : Nat) (op : HostAtomOp) (wide : Bool) (a b : Nat) (s : State) : Out := .next (s.hostAtomic tag va op wide a b)

/-! ### PMAP (R277, R281) -/

/-- The index of the first of n pages that fails a test. -/
def firstPage (n : Nat) (bad : Nat → Bool) : Option Nat := (List.range n).find? bad
/-- R280, R281. A virtual page is free for PMAP: global space, and no page in use overlaps it. -/
def State.pageFree (s : State) (va size : Nat) : Bool :=
  (match spaceOf va, spaceOf (va + size - 1) with | .global _, .global _ => true | _, _ => false)
  && !(s.pages.any fun e => e.2.state ≠ .retired && rangesMeet (e.1, e.2.size) (va, size))
/-- R277, R281. The attributes that a PMAP may not ask for.
(Assumption log 71: DEDUCED.) -/
def badAttr (attr : Nat) (small : Bool) : Bool :=
  bitAt attr 2 || bitAt attr 3 || (bitAt attr 1 && (!bitAt attr 0 || small)) || (bitAt attr 4 && !small)
/-- R277, R281. A frame of its size for one page: a control-core bank for SYSATOM, a bank-striped frame for COMPUTE.
(Assumption log 60: DESIGN CHOICE.) -/
def State.frameFor (s : State) (attr : Nat) (small : Bool) : Option Nat :=
  if bitAt attr 4 then s.freeBank else if bitAt attr 1 then s.freeStriped else s.freeFrame (if small then 2 ^ 16 else 2 ^ 21)
/-- R281. The translation tables lie in DRAM that no frame takes.
(Assumption log 60: DESIGN CHOICE.) -/
def State.tablesFit (s : State) : Bool :=
  s.framesUsed.all fun u => decide (dramBytes ≤ u.1 ∨ u.1 + u.2 + 2 ^ 16 * s.nextTable ≤ dramBytes)
/-- R301. Every undercoat still has its rows.
(Assumption log 71: DEDUCED.) -/
def State.undercoatsFit (s : State) : Bool :=
  s.regions.all fun e => !e.2.step || e.2.slices.all fun sl => decide (s.rowsTaken sl.pc ≤ rowsPerPc)
/-- R280, R281. Maps n pages, each on a new frame; none if the frames do not suffice.
(Assumption log 71: DEDUCED.) -/
def State.mapPages (s : State) (va attr : Nat) (wr small : Bool) : Nat → Option State
  | 0 => some s
  | n + 1 =>
    match s.frameFor attr small with
    | none => none
    | some f =>
      let size := if small then 2 ^ 16 else 2 ^ 21
      let s : State := { s with pages := s.pages.filter fun e => !rangesMeet (e.1, e.2.size) (va, size) }
      (s.setPage va { state := if bitAt attr 0 then .pinned else .mapped, frame := f, small := small, attr := attr, wr := wr }).mapPages
        (va + size) attr wr small n
/-- R281. PMAP.
(Assumption log 71: DEDUCED.) -/
def execPmap (hdr : HostHdr) (va len flags : Nat) (s : State) : Out :=
  let small := bitAt flags 8
  let size := if small then 2 ^ 16 else 2 ^ 21
  let attr := bits flags 6 0
  command hdr s
    (if va % size ≠ 0 ∨ len % size ≠ 0 ∨ 2 ^ 9 ≤ flags ∨ badAttr attr small = true then s.respond hdr stAttr [0]
     else match firstPage (len / size) fun i => !s.pageFree (va + size * i) size with
       | some i => s.respond hdr stAttr [i]
       | none =>
         match s.mapPages va attr (bitAt flags 7) small (len / size) with
         | some t => if t.undercoatsFit && t.tablesFit then t.respond hdr stOk [] else s.respond hdr stPoolFull []
         | none => s.respond hdr stPoolFull [])

/-! ### PPIN, PUNPIN, PUNMAP, PSTAT (R280 to R282) -/

/-- The pages from an address to an end, in order; a stretch that is no page ends the list with none. -/
def State.pageRun (s : State) (a e : Nat) : Nat → List (Nat × Option Page)
  | 0 => if a < e then [(a, none)] else []
  | n + 1 =>
    if e ≤ a then []
    else match AMap.get? s.pages a with
      | some p => if a + p.size ≤ e then (a, some p) :: s.pageRun (a + p.size) e n else [(a, none)]
      | none => [(a, none)]
/-- The pages of a command's range. -/
def State.rangePages (s : State) (va len : Nat) : List (Nat × Option Page) := s.pageRun va (va + len) (s.pages.length + 1)
/-- R281. The address is a multiple of the size of the page there; of the smallest page size where there is none. -/
def State.aligned (s : State) (va : Nat) : Bool :=
  va % 65536 = 0 && !(s.pages.any fun e => decide (e.1 < va ∧ va < e.1 + e.2.size))
/-- R280. The page lies in the range of a region that has not been removed. -/
def State.inRegion (s : State) (va : Nat) : Bool := s.regions.any fun e => decide (e.2.base ≤ va ∧ va < e.2.base + e.2.len)
/-- R280, R281. A page command: refused with the index of the first page that does not allow it, or done on every page. -/
def pageCommand (h : HostHdr) (s : State) (va len : Nat) (allow : Nat → Page → Bool) (act : State → Nat → Page → State) (finish : State → State) : Out :=
  let run := s.rangePages va len
  command h s
    (if !s.aligned va then s.respond h stAttr [0]
     else match run.findIdx? fun e => match e.2 with | some p => !allow e.1 p | none => true with
     | some i => s.respond h stAttr [i]
     | none => finish (run.foldl (fun s e => match e.2 with | some p => act s e.1 p | none => s) s))
/-- R280. PPIN: a pinned page stays as it is. -/
def execPpin (hdr : HostHdr) (va len : Nat) (s : State) : Out :=
  pageCommand hdr s va len (fun _ p => p.state = .mapped || p.state = .pinned)
    (fun s a p => if p.state = .pinned then s else s.setPage a { p with state := .pinned, attr := p.attr / 2 * 2 + 1 })
    fun s => s.respond hdr stOk []
/-- R280. PUNPIN: COMPUTE goes with PINNED; a mapped page stays as it is, and a region's page refuses. -/
def execPunpin (hdr : HostHdr) (va len : Nat) (s : State) : Out :=
  pageCommand hdr s va len (fun a p => p.state = .mapped || (p.state = .pinned && !s.inRegion a))
    (fun s a p => if p.state = .mapped then s else s.setPage a { p with state := .mapped, attr := p.attr / 4 * 4 })
    fun s => s.respond hdr stOk []
/-- R280, R282. One page leaves use: its entry is cleared, what was written of it performed, and its frame is free, or retired, once no access
to it is on its way. -/
def State.unmapPage (s : State) (tag va : Nat) (p : Page) : State :=
  let s := (s.settleFrame p.frame p.size).clearLeaf va p
  let s : State := { s with unmaps := s.unmaps ++ [⟨tag, va, p.frame, p.size, p.attr, p.wr, s.diesWith va p.size⟩] }
  if p.state = .retiring then { s with pages := AMap.set s.pages va { p with state := .retired }, retired := s.retired ++ [(p.frame, p.size)] }
  else { s with pages := AMap.erase s.pages va }
/-- R280, R282. PUNMAP: answered when every access that used the old translation has been performed. -/
def execPunmap (hdr : HostHdr) (va len : Nat) (s : State) : Out :=
  pageCommand hdr s va len (fun a p => (p.state = .mapped || p.state = .retiring) && !s.inRegion a)
    (fun s a p => s.unmapPage hdr.tag a p) fun s => if len = 0 then s.respond hdr stOk [] else s
/-- R281. The state as PSTAT reports it.
(Assumption log 70: PRESUMED.) -/
def PageState.code : PageState → Nat | .mapped => 1 | .pinned => 2 | .retiring => 3 | .retired => 4
/-- R281. PSTAT: state, page size, and attributes with WR in [7].
(Assumption log 70: PRESUMED.) -/
def execPstat (hdr : HostHdr) (va : Nat) (s : State) : Out :=
  command hdr s
    (if !s.aligned va then s.respond hdr stAttr [0]
     else match s.pages.find? fun e => decide (e.1 ≤ va ∧ va < e.1 + e.2.size) with
     | some e => s.respond hdr stOk [e.2.state.code, e.2.size, e.2.attr + 128 * e.2.wr.toNat]
     | none => s.respond hdr stOk [0, 0, 0])

/-! ### Regions (R284 to R286, R301) -/

/-- R301. The parameters of a step region, if every field is in its range. -/
def stepParamsOf (w : List Nat) : Option StepParams :=
  let get (i : Nat) : Nat := w[i]?.getD 0
  let finite (x : Nat) : Bool := bits x 30 23 ≠ 255
  if bits (get 0) 63 48 ≠ 0 ∨ !finite (get 1) ∨ !finite (get 1 / 2 ^ 32) ∨ bits (get 2) 7 5 ≠ 0 ∨ bits (get 2) 15 11 ≠ 0
      ∨ bits (get 2) 31 16 = 0 ∨ bits (get 2) 47 32 = 0 ∨ bits (get 2) 63 48 = 0 ∨ bits (get 3) 31 0 = 0 ∨ bits (get 3) 63 32 ≠ 0 then none
  else some { h0 := bits (get 0) 47 0, eta := BitVec.ofNat 32 (get 1), mu := BitVec.ofNat 32 (get 1 / 2 ^ 32), bcfg := bits (get 2) 4 0,
              fcfg := bits (get 2) 10 8, nupd := bits (get 2) 31 16, wlim := bits (get 2) 47 32, dlim := bits (get 2) 63 48,
              urows := bits (get 3) 31 0 }
/-- The parameters that a skimmed region without steps holds. -/
def noParams : StepParams := { h0 := 0, eta := 0, mu := 0, bcfg := 0, fcfg := 0, nupd := 0, wlim := 0, dlim := 0, urows := 0 }
/-- R284, R285. The pseudo-channels of the masks, by die and then number. -/
def maskPcs (masks : List Nat) : List Nat :=
  (List.range 4).flatMap fun d => (List.range 256).filterMap fun p => if bitAt (masks[d]?.getD 0) p then some (256 * d + p) else none
/-- R285, R318. The running timetable of a pseudo-channel cannot carry a cursor: its cycle has no CUR entry, or one that is too short. -/
def State.noCursor (s : State) (pc : Nat) : Bool :=
  let table := (s.chan (pc / 2)).table
  let curs := ((cycleOf table).filterMap fun i => table[i]?).filter fun w => ttKind w = 2
  curs.isEmpty || curs.any fun w => decide (ttDur w < 27)
/-- R284. A slice at the start of its region: coat 0 counts as complete. -/
def Slice.fresh (pc : Nat) : Slice :=
  { pc := pc, done := 0, busy := false, row := 0, transit := [], queue := [], reserved := 0, seqs := [], nextOrder := 0, undo := [], ringPos := 0 }
/-- R285. The page may become part of a region. -/
def Page.regionable (p : Page) : Bool :=
  (p.state = .mapped || p.state = .pinned) && !p.small && !bitAt p.attr 1 && !bitAt p.attr 2 && !bitAt p.attr 3 && !bitAt p.attr 4
/-- R280, R285. One page becomes part of a region: what was written of it is performed, and it carries SKIM, or SKIM and STEP, and PINNED; a
RETIRING one, which only a restore meets, stays in that state. -/
def State.skimPage (s : State) (step : Bool) (va : Nat) (p : Page) : State :=
  (s.settleFrame p.frame p.size).setPage va { p with state := if p.state = .retiring then .retiring else .pinned, attr := p.attr ||| (if step then 13 else 5) }
/-- R284 to R286, R301. A region is created. -/
def State.createRegion (s : State) (r : Nat) (step dord : Bool) (va len : Nat) (pcs : List Nat) (params : StepParams)
    (run : List (Nat × Option Page)) : State :=
  let g : Region :=
    { state := .active, step := step, dord := dord, base := va, len := len,
      pinnedBefore := run.map fun e => match e.2 with | some p => decide (p.state = .pinned) | none => false,
      slices := pcs.map Slice.fresh, coatw := [], lastError := none, told := [], params := params, head := params.h0, counted := [], readyCoat := none,
      commit := none, readers := [], drainFrom := none, destroyTags := [] }
  let s := run.foldl (fun s e => match e.2 with | some p => s.skimPage step e.1 p | none => s) s
  { s with regions := AMap.set s.regions r g }
/-- R285, R301. RCREATE.
(Assumption log 73: DEDUCED.) -/
def execRcreate (hdr : HostHdr) (ctl va len : Nat) (masks params : List Nat) (s : State) : Out :=
  let r := bits ctl 5 0
  let step := bitAt ctl 8
  let run := s.rangePages va len
  let pcs := maskPcs masks
  let fit := if step then stepParamsOf params else some noParams
  let held (pc : Nat) : Bool := s.regions.any fun e => e.2.slices.any fun sl => sl.pc = pc
  command hdr s
    (match fit with
     | none => s.respond hdr stAttr []
     | some q =>
       if bits ctl 7 6 ≠ 0 ∨ 2 ^ 10 ≤ ctl ∨ (AMap.get? s.regions r).isSome ∨ va % 2 ^ 21 ≠ 0 ∨ len % 2 ^ 21 ≠ 0
           ∨ (run.any fun e => match e.2 with | some p => !p.regionable | none => true) ∨ pcs.isEmpty ∨ (pcs.any held)
           ∨ (step = true ∧ pcs.any fun pc => decide (rowsPerPc < s.rowsTaken pc + q.urows)) then s.respond hdr stAttr []
       else if pcs.any s.noCursor then s.respond hdr stRejected []
       else (s.createRegion r step (bitAt ctl 9) va len pcs q run).respond hdr stOk [])
/-- R286. SKIM and STEP leave the pages of a region. -/
def State.unskimPages (s : State) (g : Region) : State :=
  (s.pagesIn g.base g.len).foldl (fun s e =>
    (s.settleFrame e.2.frame e.2.size).setPage e.1 { e.2 with attr := e.2.attr / 16 * 16 + e.2.attr % 4 }) s
/-- R286. RDESTROY: the region drains; it is answered when the region is removed.
(Assumption log 73: DEDUCED.) -/
def execRdestroy (hdr : HostHdr) (region : Nat) (s : State) : Out :=
  command hdr s
    (match AMap.get? s.regions region with
     | none => s.respond hdr stAttr []
     | some g =>
       let s := if g.state = .active then s.unskimPages g else s
       s.modRegion region fun x => { x with state := .draining, destroyTags := x.destroyTags ++ [hdr.tag] })
/-- R285. RSTAT: state, coat of the lowest slice, occupancy of the admission queues, row and coat of the last uncorrectable error.
(Assumption log 70: PRESUMED.) (Assumption log 73: DEDUCED.) -/
def execRstat (hdr : HostHdr) (region : Nat) (s : State) : Out :=
  command hdr s
    (match AMap.get? s.regions region with
     | none => s.respond hdr stAttr []
     | some g =>
       let e := g.lastError.getD (0, 0)
       let first := match g.slices with | sl :: _ => sl.done | [] => 0
       s.respond hdr stOk [if g.state = .active then 1 else 2, first % 2 ^ 32,
         g.slices.foldl (fun n sl => n + sl.queue.length) 0, e.1, e.2 % 2 ^ 32])

end Sys2Proof.Machine
end

