-- ==== Sys2Proof/Machine/Checkpoint.lean ====
section
/-! DEFINITION. Difference checkpoints (spec/24 R373 to R375): links, folds of undo records, restore, and power-loss hold-up. -/
namespace Sys2Proof.Machine

/-! ### What a link holds (R374) -/

/-- R374. A page holds a step region's rows, which a link holds as its region's. -/
def State.inStep (s : State) (va size : Nat) : Bool := s.regions.any fun e => e.2.step && rangesMeet (va, size) (e.2.base, e.2.len)
/-- R277, R374. The CKPT pages: PINNED ones; those of step regions are captured with their regions.
(Assumption log 78: DEDUCED.) -/
def State.ckPages (s : State) : AMap Page :=
  s.pages.filter fun e => bitAt e.2.attr 6 && bitAt e.2.attr 0 && e.2.state ≠ .retired && !s.inStep e.1 e.2.size
/-- R374. The 64 KiB pieces of the CKPT pages as they stand: virtual address, physical address and bytes. -/
def State.ckPieces (s : State) : List (Nat × Nat × List Byte) :=
  s.ckPages.flatMap fun e => (List.range (e.2.size / 65536)).map fun i =>
    (e.1 + 65536 * i, e.2.frame + 65536 * i, Memory.read s.mem (e.2.frame + 65536 * i) 65536)
/-- R373. The stored link of a number. -/
def State.ckLink? (s : State) (id : Nat) : Option CkLink := s.ckLinks.find? fun l => l.id = id
/-- R375. The chain of a link, from its full link onward; none if it is broken. -/
def State.ckChain (s : State) (id : Nat) : Nat → Option (List CkLink)
  | 0 => none
  | n + 1 => match s.ckLink? id with
    | none => none
    | some l => if l.base = 0 then some [l] else (s.ckChain l.base n).map fun ls => ls ++ [l]
/-- R375. The chain of a link. -/
def State.chainOf (s : State) (id : Nat) : Option (List CkLink) := s.ckChain id s.ckLinks.length
/-- The bytes that a chain holds last under a key. -/
def lastHeld (lists : List (List (Nat × List Byte))) (key : Nat) : Option (List Byte) :=
  lists.foldl (fun r l => match l.find? fun p => p.1 = key with | some p => some p.2 | none => r) none
/-- R374. The 64 KiB piece at a physical address has been written since the capture of a chain's last link. -/
def State.writtenSince (s : State) (ls : List CkLink) (pa : Nat) : Bool :=
  match ls.getLast? with | some l => (AMap.get? s.touched (pa / 65536)).any fun t => decide (l.event < t) | none => true
/-- R374. The pieces that a link holds: those written since its base link's capture, with those that its chain does not hold; all of them
without one.
(Assumption log 78: DEDUCED.) -/
def State.newPieces (s : State) (ls : List CkLink) : List (Nat × List Byte) :=
  s.ckPieces.filterMap fun p =>
    if s.writtenSince ls p.2.1 || (lastHeld (ls.map fun l => l.pieces) p.1).isNone then some (p.1, p.2.2) else none
/-- R374. The XOR of a group's undo records for n steps from s0 on, if all are held. -/
def foldRecords (recs : List UndoRec) (u s0 : Nat) : Nat → Option (List Nat)
  | 0 => some (List.replicate 512 0)
  | n + 1 => match foldRecords recs u s0 n, recs.find? fun r => r.group = u ∧ r.step = s0 + n with
    | some x, some r => some (List.zipWith Nat.xor x r.undo)
    | _, _ => none
/-- The groups of a region: slice, slice-local group, region offset. -/
def Region.groups (g : Region) : List (Nat × Nat × Nat) :=
  (List.range g.slices.length).flatMap fun i => (List.range (g.unitsIn i)).map fun u => (i, u, g.unitOff i u)
/-- The bytes at a region offset, through the tree. -/
def State.regionBytes (s : State) (g : Region) (off n : Nat) : List Byte :=
  match translate s 0 (g.base + off) with | some l => Memory.read s.mem l.pa n | none => []
/-- R374. What a chain's last link holds of a region that has kept its place. -/
def regionBase (ls : List CkLink) (r : Nat) (g : Region) : Option CkRegion :=
  (ls.getLast?).bind fun l => l.regions.find? fun x => x.region = r && x.shape.base = g.base && x.shape.len = g.len && decide (x.step ≤ g.head)
/-- R374. The u, change and g rows of the groups of a 64 KiB piece of a region. -/
def State.stepRows (s : State) (g : Region) (off : Nat) : List Byte := (List.range 8).flatMap fun i => s.regionBytes g (off + 8192 * i + 0x800) 6144
/-- R374. The u, change and g rows of a region, by 64 KiB pieces, as far as a link holds them: those written since the base link's capture.
(Assumption log 78: DEDUCED.) -/
def State.stepPieces (s : State) (ls : List CkLink) (g : Region) (based : Bool) : List (Nat × List Byte) :=
  (List.range (g.len / 65536)).filterMap fun i =>
    let written := match translate s 0 (g.base + 65536 * i) with | some l => s.writtenSince ls l.pa | none => true
    if based && !written then none else some (65536 * i, s.stepRows g (65536 * i))
/-- R374. A step region at s = H: folds against the base link's step where every record is held, the w row whole where not, and the pieces of the
u, change and g rows.
(Assumption log 78: DEDUCED.) -/
def State.captureRegion (s : State) (ls : List CkLink) (r : Nat) (g : Region) : CkRegion :=
  let base := regionBase ls r g
  let fold (e : Nat × Nat × Nat) : Option (List Nat) :=
    base.bind fun b => foldRecords ((g.slices[e.1]?).map (fun sl => sl.undo) |>.getD []) e.2.1 b.step (g.head - b.step)
  { region := r, shape := g, pages := s.pagesIn g.base g.len, step := g.head,
    folds := g.groups.filterMap fun e => (fold e).map fun f => (e.2.2, f),
    whole := g.groups.filterMap fun e => if (fold e).isNone then some (e.2.2, s.regionBytes g e.2.2 2048) else none,
    rows := s.stepPieces ls g base.isSome }
/-- R374, R307. Reader 63 is registered with the captured step. -/
def State.reader63 (s : State) (r : Nat) : State := s.modRegion r fun g => g.lwm g.head 63 false
/-- R306, R374. The flash bytes of a region in a link.
(Assumption log 78: DEDUCED.) -/
def CkRegion.size (x : CkRegion) : Nat :=
  (x.folds.foldl (fun n f => n + recordSize (planeMask f.2)) 0) + (x.whole.foldl (fun n w => n + w.2.length) 0)
    + 65536 * x.rows.length
/-- The flash bytes of a link. -/
def CkLink.size (l : CkLink) : Nat := (l.pieces.foldl (fun n p => n + p.2.length) 0) + l.regions.foldl (fun n x => n + x.size) 0

/-! ### Commands (R373 to R375) -/

/-- R373. The checkpoint flash: 1 TiB. -/
def flashBytes : Nat := 2 ^ 40
/-- The flash bytes in use. -/
def State.flashUsed (s : State) : Nat := s.ckLinks.foldl (fun n l => n + l.size) 0
/-- R373. The answer to a CKSAVE whose last region has been captured: the capture point, or POOL_FULL, and no link, when the flash lacks room.
(Assumption log 78: DEDUCED.) -/
def State.answerSave (s : State) (l : CkLink) : State :=
  match l.tag with
  | none => s
  | some tag =>
    let answered (x : CkLink) : CkLink := if x.id = l.id then { x with tag := none } else x
    if flashBytes < s.flashUsed then { s with ckLinks := s.ckLinks.filter fun x => x.id ≠ l.id }.report .response tag stPoolFull []
    else { s with ckLinks := s.ckLinks.map answered }.report .response tag stOk [l.point]
/-- R373, R374. CKSAVE: the link as of now; a region in a commit coat is captured when that coat is complete, and the command is answered then.
(Assumption log 78: DEDUCED.) -/
def execCksave (hdr : HostHdr) (id base : Nat) (s : State) : Out :=
  let chain := if base = 0 then some [] else s.chainOf base
  command hdr s
    (match chain with
     | none => s.respond hdr stAttr []
     | some ls =>
       if id = 0 ∨ 2 ^ 32 ≤ id ∨ (s.ckLink? id).isSome then s.respond hdr stAttr []
       else
         let steps := s.regions.filter fun e => e.2.step
         let now := steps.filter fun e => e.2.commit.isNone
         let l : CkLink :=
           { id := id, base := base, point := s.sfc, pieces := s.newPieces ls, pages := s.ckPages,
             regions := now.map fun e => s.captureRegion ls e.1 e.2, waits := (steps.filter fun e => e.2.commit.isSome).map fun e => e.1,
             complete := false, event := s.nextSeq, tag := if steps.all fun e => e.2.commit.isNone then none else some hdr.tag }
         if flashBytes < s.flashUsed + l.size then s.respond hdr stPoolFull []
         else
           let t := now.foldl (fun (t : State) e => t.reader63 e.1) { s with ckLinks := s.ckLinks ++ [l], nextSeq := s.nextSeq + 1 }
           if l.tag.isSome then t else t.respond hdr stOk [s.sfc])
/-- R374. A region that a link waits for is captured once its commit coat is complete; with the last one the command is answered.
(Assumption log 78: DEDUCED.) -/
def State.captureWaiting (s : State) (l : CkLink) (r : Nat) : State :=
  let put (x : CkLink) (c : List CkRegion) : CkLink := if x.id = l.id then { x with regions := x.regions ++ c, waits := x.waits.erase r } else x
  let end_ (s : State) : State := match s.ckLink? l.id with | some x => if x.waits.isEmpty then s.answerSave x else s | none => s
  match AMap.get? s.regions r with
  | none => end_ { s with ckLinks := s.ckLinks.map fun x => put x [] }
  | some g =>
    if g.commit.isSome then s
    else
      let ls := if l.base = 0 then [] else (s.chainOf l.base).getD []
      end_ ({ s with ckLinks := s.ckLinks.map fun x => put x [s.captureRegion ls r g] }.reader63 r)
/-- R374. Every region that some link waits for. -/
def State.settleCaptures (s : State) : State :=
  s.ckLinks.foldl (fun s l => l.waits.foldl (fun s r => s.captureWaiting l r) s) s
/-- R375. Every flash write of a link has finished.
(Assumption log 78: DEDUCED.) -/
def execCheckpointWriteComplete (id : Nat) (s : State) : Out :=
  .next { s with ckLinks := s.ckLinks.map fun l => if l.id = id ∧ l.waits = [] ∧ l.cut = false then { l with complete := true } else l }
/-- R373. CKDROP. -/
def execCkdrop (hdr : HostHdr) (id : Nat) (s : State) : Out :=
  command hdr s
    (if (s.ckLink? id).isNone ∨ (s.ckLinks.any fun l => l.base = id) then s.respond hdr stAttr []
     else { s with ckLinks := s.ckLinks.filter fun l => l.id ≠ id }.respond hdr stOk [])

/-! ### Restore (R375) -/

/-- Maps the pages of a list that are not mapped; none without frames for them. -/
def State.mapMissing (s : State) : List (Nat × Page) → Option State
  | [] => some s
  | (va, p) :: l =>
    if ((AMap.get? s.pages va).any fun x => x.state ≠ .retired) ∨ s.pageFree va p.size = false then s.mapMissing l
    else match s.frameFor p.attr p.small with
      | none => none
      | some f =>
        let attr := p.attr / 16 * 16 + p.attr % 4
        (s.setPage va { p with frame := f, attr := attr, state := if bitAt attr 0 then .pinned else .mapped }).mapMissing l
/-- Writes bytes that lie in one page at a virtual address. -/
def State.putVa (s : State) (va : Nat) (bs : List Byte) : State :=
  match translate s 0 va with | some l => s.put l.pa bs | none => s
/-- R375. A link's folds, whole w rows and other rows are applied to a region. -/
def State.applyRegion (s : State) (x : CkRegion) : State :=
  let s := x.whole.foldl (fun s p => s.putVa (x.shape.base + p.1) p.2) s
  let s := x.folds.foldl (fun s p =>
    let w := valuesOf 4 (s.regionBytes x.shape p.1 2048)
    s.putVa (x.shape.base + p.1) ((List.zipWith Nat.xor w p.2).flatMap (leBytes 4))) s
  x.rows.foldl (fun s p => (List.range 8).foldl (fun s i => s.putVa (x.shape.base + p.1 + 8192 * i + 0x800) ((p.2.drop (6144 * i)).take 6144)) s) s
/-- R375. One link is applied. -/
def State.applyLink (s : State) (l : CkLink) : State :=
  l.regions.foldl State.applyRegion (l.pieces.foldl (fun s p => s.putVa p.1 p.2) s)
/-- R375. A region is created again at its saved H, with an empty undercoat. -/
def State.recreate (s : State) (x : CkRegion) : State :=
  let g := x.shape
  s.createRegion x.region true g.dord g.base g.len (g.slices.map fun sl => sl.pc) { g.params with h0 := x.step } (s.rangePages g.base g.len)
/-- R375. CKRESTORE: every queue IDLE, no skimmed region, a complete link with an unbroken chain. -/
def execCkrestore (hdr : HostHdr) (id : Nat) (s : State) : Out :=
  let idle := s.dies.all fun d => d.queues.all fun q => q.state = .idle
  command hdr s
    (match s.chainOf id with
     | none => s.respond hdr stAttr []
     | some ls =>
       if !idle || !s.regions.isEmpty || (ls.any fun l => !l.complete) then s.respond hdr stAttr []
       else
         let last := match ls.getLast? with | some l => l.regions | none => []
         match s.mapMissing (ls.flatMap fun l => l.pages ++ l.regions.flatMap fun x => x.pages) with
         | none => s.respond hdr stAttr []
         | some t => (last.foldl State.recreate (ls.foldl State.applyLink t)).respond hdr stOk [])

/-! ### Power loss and reset (R8, R375, R376) -/

/-- R375. Hold-up finishes the writes that are buffered, up to 1 GiB; how much of a link is still to be written then, and whether all of that is
buffered, is a free choice. A link whose writes did not all finish stays incomplete.
(Assumption log 79: DEDUCED.) -/
def holdUp (free : Nat) : List CkLink → Nat → List CkLink
  | [], _ => []
  | l :: t, budget =>
    let left := Config.draw free % (l.size + 1)
    if l.complete then l :: holdUp (free + 2) t budget
    else if l.waits = [] ∧ l.cut = false ∧ left ≤ budget ∧ Config.draw (free + 1) % 2 = 0 then
      { l with complete := true } :: holdUp (free + 2) t (budget - left)
    else { l with cut := true, tag := none } :: holdUp (free + 2) t budget
/-- R280. The module at its reset values; the flash, what has worn, the frames that are never allocated again, what the host has been told, and the outside world stay.
(Assumption log 79: DEDUCED.) -/
def State.restart (s : State) : State :=
  let worn (d : Fin 4) : Die := { Die.reset with ageing := s.dies[d].ageing }
  let kept (l : CkLink) : CkLink := if l.waits = [] then l else { l with waits := [], cut := true, tag := none }
  { State.reset with dies := Vector.ofFn worn, ckLinks := s.ckLinks.map kept, air := s.air, nextSeq := s.nextSeq, touched := s.touched, retired := s.retired, out := s.out, inputs := s.inputs, free := s.free }
/-- R375. Power is lost: the hold-up, and nothing runs until the next power-on.
(Assumption log 79: DEDUCED.) -/
def execPowerLoss (s : State) : Out :=
  .next { s.restart with ckLinks := holdUp s.free s.ckLinks (2 ^ 30), free := s.free + 2 * s.ckLinks.length, stage := .stopped }
/-- R8, R376, R378. Power-on or module reset: every register at its reset value, bring-up at stage 1, the boot ROM's firmware verified or recovery.
(Assumption log 79: DEDUCED.) -/
def execModuleReset (s : State) : Out :=
  .next s.restart

end Sys2Proof.Machine
end

