-- ==== Sys2Proof/Machine/Links.lean ====
section
/-! DEFINITION. Links and messages (spec/21 R335 to R344): link states, flits, SFC alignment, Ultra Ethernet connections, and SEND after
retire. Links 0 to 5 join the dies, 6 to 21 are the device links. -/
namespace Sys2Proof.Machine

/-- R16. A link the module has; a device link.
(Assumption log 62: PRESUMED.) -/
def linkExists (l : Nat) : Bool := decide (l < 22)
def isDeviceLink (l : Nat) : Bool := decide (6 ≤ l)

/-! ### SEND after retire (R343, R344) -/

/-- R344. A SEND completes: its reply word, and its semaphore and E arrival, unless its sender was killed.
(Assumption log 67: DEDUCED.) -/
def State.endSend (s : State) (m : Message) (status detail : Nat) : State :=
  let s : State := { s with messages := s.messages.filter fun x => x.id ≠ m.id }
  if m.silent then s
  else ((s.releaseWord m.notify.core m.notify.ctx (spadAddr m.notify.core m.reply) 3 []).spadWord m.notify.core m.notify.ctx m.reply (statusWord status 0 detail)).notify m.notify
/-- R340. The die of a device link. -/
def linkDie (l : Nat) : Nat := (l - 6) / 4
/-- R340, R341, R344. The links that a message needs carry traffic. -/
def State.sendJoined (s : State) (m : Message) : Bool :=
  match m.remote with
  | some l => (s.link (6 + l)).flows && s.diesJoined (m.notify.core / 128) (l / 4)
  | none => s.diesJoined (m.notify.core / 128) (m.core / 128)
/-- R343. An earlier message of the same context to the same target bank is still on its way. -/
def State.sendBehind (s : State) (m : Message) : Bool :=
  s.messages.any fun x => decide (x.id < m.id) && x.notify.ofCtx m.notify.core m.notify.ctx && x.core = m.core && x.bank = m.bank && x.remote = m.remote
/-- R344. The slots that a message of n slots counts for, and its first slot: it never passes slot 1,023. -/
def Bank.fifoPlace (b : Bank) (n : Nat) : Nat × Nat :=
  if 1024 < b.fifoNext + n then (1024 - b.fifoNext + n, 0) else (n, b.fifoNext)
/-- R344. The slots in use. -/
def Bank.fifoUsed (b : Bank) : Nat := b.fifo.foldl (fun n m => n + m.slots) 0
/-- R344. A message has its space. -/
def Bank.fifoFits (b : Bank) (n : Nat) : Bool := decide (b.fifoUsed + (b.fifoPlace n).1 ≤ 1024)
/-- R344. The number that stands for the taker of a message that is being written. -/
def writing : Nat := 5
/-- R343, R344, R258. A message takes its slots, with the release that its SEND was, and its bytes are written, in the bank's order.
(Assumption log 67: DEDUCED.) -/
def State.writeMessage (s : State) (m : Message) : State :=
  let n := m.bytes.length / 64
  let p := (s.bank m.core m.bank).fifoPlace n
  let s := s.engineWriteBy m.notify.core (engineParty m.notify.ctx) m.core (65536 * m.bank + 64 * p.2) m.bytes
  s.modBank m.core m.bank fun b => { b with
    fifo := b.fifo ++ [{ cls := m.cls, len := m.bytes.length, addr := 64 * p.2, slots := p.1, taker := some writing, rel := m.rel }]
    fifoNext := (p.2 + n) % 1024 }
/-- R258, R344. The bytes of a message placed at a bank-local address still stand in the bank's order. -/
def Bank.awaits (b : Bank) (m : Message) (addr : Nat) : Bool :=
  b.queue.any fun it => it.core = m.notify.core && it.ctx = engineParty m.notify.ctx && (match it.work with
    | .store l => (l.head?.map fun p => p.1) = some (65536 * m.bank + addr)
    | _ => false)
/-- R344. A message placed at a bank-local address completes once it is written in full: from then on it can be delivered. -/
def State.finishMessage (s : State) (m : Message) (addr : Nat) : State :=
  if (s.bank m.core m.bank).awaits m addr then
    { s with messages := s.messages.map fun x => if x.id = m.id then { x with placed := some addr } else x }
  else (s.modBank m.core m.bank fun b => { b with
    fifo := b.fifo.map fun x => if x.addr = addr ∧ x.taker = some writing then { x with taker := none } else x }).endSend m stOk 0
/-- R340, R344. What a message to another module comes to: written, refused, or without space so far, a free choice in every cycle until it is
written or refused, or 2^20 cycles are over.
(Assumption log 66: DESIGN CHOICE.) -/
def State.sendRemote (s : State) (m : Message) : State :=
  let d := s.drawBelow 3
  if d.1 = 0 then d.2.endSend m stOk 0 else if d.1 = 1 then d.2.endSend m stAttr 0 else d.2
/-- R343, R344, R356. A message reaches its target bank: written in full once what its SEND released has been performed, refused by a bank not in
FIFO mode, waiting for space, or lost with its link.
(Assumption log 66: DESIGN CHOICE.) (Assumption log 67: DEDUCED.) -/
def execSendDelivery (msg : Nat) (s : State) : Out :=
  match s.messages.find? fun m => m.id = msg with
  | none => .next s
  | some m =>
    match m.placed with
    | some addr => .next (s.finishMessage m addr)
    | none =>
    if !s.sendJoined m then .next (s.endSend m stLink 1)
    else if s.sendBehind m || !m.rel.all s.released then .next s
    else if m.remote.isSome then .next (s.sendRemote m)
    else
      let b := s.bank m.core m.bank
      if b.mode ≠ .fifo then .next (s.endSend m stAttr 0)
      else if !b.fifoFits (m.bytes.length / 64) then .next s
      else .next ((s.writeMessage m).finishMessage m (64 * (b.fifoPlace (m.bytes.length / 64)).2))
/-- R344. Space still lacking after 2^20 core cycles.
(Assumption log 67: DEDUCED.) -/
def execSendTimeout (msg : Nat) (s : State) : Out :=
  match s.messages.find? fun m => m.id = msg with
  | none => .next s
  | some m =>
    if m.placed.isNone ∧ m.readyAt + 2 ^ 20 ≤ s.sfc ∧ (m.remote.isSome ∨ ((s.bank m.core m.bank).mode = .fifo
        ∧ (s.bank m.core m.bank).fifoFits (m.bytes.length / 64) = false)) then .next (s.endSend m stLink 2)
    else .next s

/-! ### Link states (R335, R341) -/

/-- R341. The die at which a part of a load of a core is read, if another die than the core's can be: by its place, or an atomic's by its address. -/
def State.partDie (s : State) (k : Nat) (q : Part) : Option Nat :=
  match q.loc with
  | some (.window k' _) => some (k' / 128)
  | some (.phys pa) => some (if remotePa pa then remoteDie pa else homeDie pa)
  | some (.spad _) => none
  | none => match spaceOf q.ea with
    | .window k' _ => some (k' / 128)
    | .global va => (translate s (k / 128) va).bind fun l => if bitAt l.pa 47 then some (bits l.pa 29 21 / 128) else none
    | _ => none
/-- R341. Data of loads that are on their way over a cut are lost.
(Assumption log 64: DEDUCED.) -/
def State.cutLoads (s : State) (cut : Nat → Nat → Bool) (k c : Nat) : State :=
  (s.ctx k c).pend.foldl (fun s p => match p.kind with
    | .load _ parts => parts.foldl (fun s q =>
        if q.coming s.sfc && (s.partDie k q).any fun d => cut d (k / 128) then s.failLoad k c p.bid p.slot q.off causeXlate else s) s
    | _ => s) s
/-- R341. What has reached a bank over a cut and waits there: commands not begun, and loads; stores are there.
(Assumption log 64: DEDUCED.) -/
def BankItem.unmade (it : BankItem) : Bool :=
  match it.work with | .load _ _ _ _ _ => true | .trowel _ _ _ _ => it.ends.isNone | _ => false
/-- R341. The copies of a card that are under way over a cut fail with LINK. -/
def State.cutCard (s : State) (k : Nat) (d : Card) : State :=
  d.copies.foldl (fun s p => match (s.core k).cards.find? fun x => x.id = d.id with
    | none => s
    | some x => match s.copyPieces k x p.1 with
      | .error e => if e = stLink then s.putCard k (x.failCopy p.1 e) else s
      | .ok _ => s) s
/-- R341. What was on its way over a die link fails: window accesses and commands, accesses to memory of the other die and over its device
links, data on their way back, copies, and commands of slices and channels.
(Assumption log 64: DEDUCED.) -/
def State.cutDies (s : State) (cut : Nat → Nat → Bool) : State :=
  let far (t : Nat × Nat × Nat × BankItem) : Bool := cut (t.2.1 / 128) (t.2.2.2.core / 128)
  let waits (k : Nat) (it : BankItem) : Bool := cut (k / 128) (it.core / 128) && it.unmade
  let gone := (s.transit.filter far).map (fun t => t.2.2.2)
    ++ s.cores.flatMap fun e => e.2.banks.toList.flatMap fun b => b.queue.filter (waits e.1)
  let crossed (e : Nat × Channel) (r : DramReq) : Bool := cut (e.1 / 128) (r.core / 128)
  let viaLink (r : LinkReq) : Bool := cut (remoteDie r.req.addr) (r.req.core / 128)
  let reqs := (s.chans.flatMap fun e => (e.2.q0 ++ e.2.q1).filter (crossed e))
    ++ s.links.toList.flatMap fun l => (l.reqs.filter viaLink).map fun r => r.req
  let bank (k : Nat) (b : Bank) : Bank := { b with queue := b.queue.filter fun it => !waits k it }
  let s : State := { s with
    transit := s.transit.filter fun t => !far t
    cores := s.cores.map fun e => (e.1, { e.2 with banks := e.2.banks.map (bank e.1) })
    links := s.links.map fun l => { l with reqs := l.reqs.filter fun r => !viaLink r }
    chans := s.chans.map fun e => (e.1, { e.2 with q0 := e.2.q0.filter fun r => !crossed e r, q1 := e.2.q1.filter fun r => !crossed e r }) }
  let s := reqs.foldl State.failReq (gone.foldl (fun s it => s.refuseItem it causeXlate) s)
  let s := s.cores.foldl (fun s e => (List.range 4).foldl (fun s c => s.cutLoads cut e.1 c) s) s
  let s := s.cores.foldl (fun s e => e.2.cards.foldl (fun s d => s.cutCard e.1 d) s) s
  let s := s.regions.foldl (fun s e => s.cutRegion cut e.1 e.2) s
  s.chans.foldl (fun s e => (e.2.cmds.filter fun q => cut (e.1 / 128) (q.core / 128)).foldl (fun s q => s.endCmd e.1 q stLink 0) s) s
/-- R335, R341. A link goes DOWN, and everything in flight on it fails.
(Assumption log 63: DEDUCED.) (Assumption log 64: DEDUCED.) -/
def State.linkDown (s : State) (l : Nat) : State :=
  let reqs := (s.link l).reqs
  let s := s.modLink l fun x => { x with state := .down, reqs := [], replays := 0, txReplays := 0, lastAlign := none, versions := [] }
  let s := reqs.foldl (fun s r => s.failReq r.req) s
  let s := if isDeviceLink l then s.cores.foldl (fun s e => e.2.cards.foldl (fun s d => s.cutCard e.1 d) s) s else s
  let s := if isDeviceLink l then s else s.cutDies fun a b => a % 4 ≠ b % 4 && dieLink (a % 4) (b % 4) = l
  (s.messages.filter fun m => m.placed.isNone && !s.sendJoined m).foldl (fun s m => s.endSend m stLink 1) s
/-- R335. Firmware enables a link. -/
def execLinkEnable (link : Nat) (s : State) : Out :=
  if !linkExists link then .fault .noSuchPart
  else if (s.link link).state = .down then .next (s.modLink link fun x => { x with state := .training })
  else .next s
/-- R335. The lanes of a link are trained. -/
def execLanesTrained (link : Nat) (s : State) : Out :=
  if !linkExists link then .fault .noSuchPart
  else if (s.link link).state = .training then .next (s.modLink link fun x => { x with state := .negotiating })
  else .next s
/-- R335. Training of a link has failed three times: DOWN, and the host is told. -/
def execTrainingFail (link : Nat) (s : State) : Out :=
  if !linkExists link then .fault .noSuchPart
  else if (s.link link).state = .training then
    .next ((s.modLink link fun x => { x with state := .down }).report .event link stLink [])
  else .next s
/-- R336. The lowest and highest version of each interface that the module supports.
(Assumption log 68: PRESUMED.) -/
def ourVersions : List (Nat × Nat) := List.replicate 7 (1, 1)
/-- R336. The highest common version of each interface, if each has one.
(Assumption log 68: PRESUMED.) -/
def commonVersions (peer : List (Nat × Nat)) : Option (List Nat) :=
  if peer.length ≠ ourVersions.length then none
  else (ourVersions.zip peer).mapM fun p =>
    let v := min p.1.2 p.2.2
    if p.1.1 ≤ v ∧ p.2.1 ≤ v then some v else none
/-- R335, R336. Negotiation ends: UP with a common version of every interface, else FAILED. -/
def execNegotiationDone (link : Nat) (peer : List (Nat × Nat)) (s : State) : Out :=
  if !linkExists link then .fault .noSuchPart
  else if (s.link link).state ≠ .negotiating then .next s
  else match commonVersions peer with
    | some v => .next (s.modLink link fun x => { x with state := .up, lanes := 8, versions := v, replays := 0, txReplays := 0, lastAlign := none })
    | none => .next (s.modLink link fun x => { x with state := .failed })
/-- R335. The largest power of two that is no more than n and 8, at least 1. -/
def lanePower (n : Nat) : Nat := if 8 ≤ n then 8 else if 4 ≤ n then 4 else if 2 ≤ n then 2 else 1
/-- R335. A link loses lanes or its error rate is too high: DEGRADED, on its surviving lanes in powers of two. -/
def execLinkDegrade (link lanes : Nat) (s : State) : Out :=
  if !linkExists link then .fault .noSuchPart
  else if (s.link link).state = .up then .next (s.modLink link fun x => { x with state := .degraded, lanes := lanePower lanes })
  else .next s
/-- R335. Retraining has restored every lane. -/
def execLinkRestore (link : Nat) (s : State) : Out :=
  if !linkExists link then .fault .noSuchPart
  else if (s.link link).state = .degraded then .next (s.modLink link fun x => { x with state := .up, lanes := 8 })
  else .next s
/-- R335, R341. Firmware disables a link. -/
def execLinkDisable (link : Nat) (s : State) : Out :=
  if !linkExists link then .fault .noSuchPart
  else if (s.link link).flows || (s.link link).state = .failed then .next (s.linkDown link)
  else .next s

/-! ### Flits (R337, R338) -/

/-- R338. The module that the host has designated as timing source of a device link's group, unless it is this one, which its designations call
module 0.
(Assumption log 65: DEDUCED.) -/
def State.sourceFor (s : State) (l : Nat) : Option Nat :=
  match AMap.get? s.timing (Config.linkGroup l) with
  | some m => if m ≠ 0 ∧ Config.linkLeads l m = true then some m else none
  | none => none
/-- R338. An alignment flit gives the SFC of the other side at transmission, a known flight ago; on a link that leads to its group's timing
source, this module's SFC steers toward it.
(Assumption log 65: DEDUCED.) -/
def State.steerTo (s : State) (l sent : Nat) : State :=
  if (s.sourceFor l).isNone then s
  else { s with steer := ((sent + Config.linkFlight l % 4501 : Nat) : Int) - s.sfc }
/-- R337, R340. A memory flit brings the data of the oldest remote read.
(Assumption log 63: DEDUCED.) -/
def State.remoteData (s : State) (l : Nat) (payload : List Byte) : State :=
  match (s.link l).reqs.find? fun r => r.req.bytes.isNone with
  | some r =>
    let s := s.modLink l fun x => { x with reqs := x.reqs.erase r }
    s.bindLoad r.req.core r.req.ctx r.req.bid r.req.slot r.req.off r.req.addr (payload.take r.req.len) s.sfc
  | none => s
/-- R337, R340. The module sends a flit that holds no state of its own. -/
def State.sendFlit (s : State) (l : Nat) : State := s.modLink l fun x => { x with txSeq := (x.txSeq + 1) % 2 ^ 32 }
/-- R337, R340. An access of another module to this one's memory: a write goes to its home, from a core number that no core has; a read is
answered, if the memory's die can be reached (R339).
(Assumption log 63: DEDUCED.) -/
def State.remoteAccess (s : State) (l pa : Nat) (bytes : Option (List Byte)) : State :=
  match bytes with
  | some bs => s.queueBytes (128 * linkDie l + 127) 0 (fun _ => 0) (bytesAt pa bs)
  | none => if s.diesJoined (linkDie l) (homeDie pa) then s.sendFlit l else s
/-- R337, R343. A message of another module: it is on its way from the link's die to its bank, and its reply is the sender's affair.
(Assumption log 63: DEDUCED.) (Assumption log 67: DEDUCED.) -/
def State.remoteMessage (s : State) (l : Nat) (dest : Word64) (bytes : List Byte) : State :=
  let w := dest.toNat
  let core := 128 * bits w 24 23 + bits w 22 16
  if !coreExists core ∨ (!isWorker core ∧ 7 < bits w 15 11) then s
  else
    let n := 64 * (bits w 7 0 + 1)
    let d := s.drawBelow (if bits w 24 23 = linkDie l then 64 else 320)
    let m : Message :=
      { id := s.nextSeq, notify := { core := 128 * linkDie l, ctx := schedParty, sem := none, arrive := none },
        bytes := (bytes ++ List.replicate n 0).take n, cls := bits w 10 8, core := core, bank := bits w 15 11, remote := none, reply := 0,
        readyAt := s.sfc + 1 + d.1, silent := true }
    { d.2 with messages := d.2.messages ++ [m], nextSeq := d.2.nextSeq + 1 }
/-- R337. Sequence number b comes after a, modulo 2^32. -/
def seqAfter (a b : Nat) : Bool := decide (0 < (b + 2 ^ 32 - a) % 2 ^ 32 ∧ (b + 2 ^ 32 - a) % 2 ^ 32 < 2 ^ 31)
/-- R337. What a flit acknowledges: writes sent up to that sequence number are over.
(Assumption log 63: DEDUCED.) -/
def Link.acknowledge (x : Link) (f : Flit) : Link :=
  { x with
    acked := if seqAfter x.acked f.ackSeq then f.ackSeq else x.acked, credits := f.credits,
    txReplays := if seqAfter x.acked f.ackSeq then 0 else x.txReplays
    reqs := x.reqs.filter fun r => r.req.bytes.isNone || seqAfter f.ackSeq r.seq }
/-- R337. An ack flit that acknowledges nothing new while a flit of the module, of whatever type, is unacknowledged asks for a replay from there;
what those flits hold is kept until it is acknowledged.
(Assumption log 63: DEDUCED.) -/
def Link.asksReplay (x : Link) (f : Flit) : Bool :=
  f.type = .ack && !seqAfter x.acked f.ackSeq && seqAfter f.ackSeq ((x.txSeq + 2 ^ 32 - 1) % 2 ^ 32)
/-- R337. A flit arrives: a bad CRC discards it; a flit that has been replayed 16 times takes the link DOWN with its next failure, in either
direction.
(Assumption log 63: DEDUCED.) -/
def execFlitReceive (link : Nat) (flit : Flit) (s : State) : Out :=
  if !linkExists link then .fault .noSuchPart
  else
    let x := s.link link
    if !isDeviceLink link || !x.flows then .next s
    else if !flit.crcOk then
      if 16 ≤ x.replays then .next (s.linkDown link)
      else .next (s.modLink link fun x => { x with replays := x.replays + 1 })
    else if flit.seq ≠ x.rxSeq then .next s
    else if x.asksReplay flit ∧ 16 ≤ x.txReplays then .next (s.linkDown link)
    else
      let again := (x.asksReplay flit).toNat
      let s := s.modLink link fun x =>
        let y := x.acknowledge flit
        { y with rxSeq := (flit.seq + 1) % 2 ^ 32, replays := 0, txReplays := y.txReplays + again }
      match flit.type with
      | .memory => match Config.flitAccess flit.payload with
        | some a => .next (s.remoteAccess link a.1 a.2)
        | none => .next (s.remoteData link flit.payload)
      | .alignment => .next (s.steerTo link (leValue (flit.payload.take 8)))
      | .idle => .next s
      | .message => match Config.flitMessage flit.payload with
        | some m => .next (s.remoteMessage link m.1 m.2)
        | none => .next s
      | .ack => .next s
/-- R338. The module sends an alignment flit with its SFC every 4,096 core cycles, however SFC is steered, on a device link that is UP or DEGRADED. -/
def execAlignmentFlit (link : Nat) (s : State) : Out :=
  if !linkExists link then .fault .noSuchPart
  else
    let x := s.link link
    let due := match x.lastAlign with | some t => decide (t + 4096 ≤ s.clocks) | none => true
    if isDeviceLink link && x.flows && due then .next ((s.modLink link fun x => { x with lastAlign := some s.clocks }).sendFlit link)
    else .next s
/-- R338. The host designates the timing source of a link group. -/
def execTimingSourceDesignation (group module : Nat) (s : State) : Out := .next { s with timing := AMap.set s.timing group module }

/-! ### Ultra Ethernet (R336, R342) -/

/-- R16. An Ultra Ethernet port the module has. -/
def portExists (p : Nat) : Bool := decide (p < 8)
/-- A connection of a port. -/
def connKey (port conn : Nat) : Nat := 8 * conn + port
/-- R336. A connection is set up with the highest common versions, or refused.
(Assumption log 68: PRESUMED.) -/
def execUeConnectionSetup (port conn : Nat) (peer : List (Nat × Nat)) (s : State) : Out :=
  if !portExists port then .fault .noSuchPart
  else match commonVersions peer with
    | some v => .next { s with conns := AMap.set s.conns (connKey port conn) v }
    | none => .next { s with conns := AMap.erase s.conns (connKey port conn) }
/-- R189, R342. The status of an error completion: one of the defined codes other than OK, which one is free.
(Assumption log 68: PRESUMED.) -/
def errorStatus (free : Nat) : Nat :=
  [stEcc, stXlate, stAttr, stBoundary, stStepBack, stStepFwd, stWaitTimeout, stRetentionFull, stDup, stCancelled, stLink, stRejected, stHostAtomic,
   stPoolFull][Config.draw free % 14]?.getD stLink
/-- R342. A packet in a delivery mode that the port does not support is dropped, and the host receives an error completion; the content of
the others comes as the steps that it asks for.
(Assumption log 68: PRESUMED.) -/
def execUePacket (port conn : Nat) (mode : UeMode) (s : State) : Out :=
  if !portExists port then .fault .noSuchPart
  else match mode with
    | .rod => .next s
    | .rud => .next s
    | .rudi => .next ({ s with free := s.free + 1 }.report .completion (connKey port conn) (errorStatus s.free) [])
    | .uud => .next ({ s with free := s.free + 1 }.report .completion (connKey port conn) (errorStatus s.free) [])

end Sys2Proof.Machine
end

