-- ==== Sys2Proof/Machine/Hostcmd.lean ====
section
/-! DEFINITION. Host commands for kernels, launches, queues, modes, tracing and firmware (spec/13 R225, R232 to R234, 12 R213, R214, 23 R362, R367
to R371, 24 R376, R377, R381). -/
namespace Sys2Proof.Machine

/-! ### Kernels (R213, R214) -/

/-- R214, R234. KLOAD: the kernel's handle, or the refusal code.
(Assumption log 43: DESIGN CHOICE.) -/
def execKload (hdr : HostHdr) (image : List (BitVec 8)) (s : State) : Out :=
  command hdr s
    (if imgRefusal image ≠ 0 then s.respond hdr (imgRefusal image) []
     else ({ s with kernels := AMap.set s.kernels s.nextKernel (kernelOf image), nextKernel := s.nextKernel + 1 }).respond hdr stOk [s.nextKernel])
/-- R213, R234. KRETIRE.
(Assumption log 74: DEDUCED.) -/
def execKretire (hdr : HostHdr) (handle : Nat) (s : State) : Out :=
  command hdr s
    (match AMap.get? s.kernels handle with
     | none => s.respond hdr stAttr []
     | some kn =>
       let kn := if kn.state = .loaded then { kn with state := .retiring } else kn
       ({ s with kernels := AMap.set s.kernels handle kn }.settleKernel handle).respond hdr stOk [])

/-! ### Launches (R227, R231 to R234) -/

/-- R195, R227, R234. A host LAUNCH: decided as LAUNCH is, with the die's pool; whether firmware dispatches it as a system kernel is a free
choice.
(Assumption log 74: DEDUCED.) -/
def execHostLaunch (hdr : HostHdr) (desc : List (BitVec 8)) (s : State) : Out :=
  command hdr s
    (if desc.length ≠ 128 then s.respond hdr stAttr []
     else
       let d := s.drawBelow 2
       let r := d.2.decideLaunch (hdr.die % 4) (hdr.queue % 16) desc (d.1 = 1) none
       r.2.2.respond hdr r.1 (if r.1 = stOk then [r.2.1] else []))
/-- R232, R234. A host CANCEL: the result code. -/
def execHostCancel (hdr : HostHdr) (handle : Nat) (s : State) : Out :=
  command hdr s (let d := s.cancelLaunch (handle % 2 ^ 32); d.2.respond hdr d.1 [])
/-- The contexts that run tasks of a launch. -/
def State.contextsOf (s : State) (handle : Nat) : List (Nat × Nat) :=
  s.cores.flatMap fun e => [0, 1, 2, 3].filterMap fun c =>
    match (e.2.ctx c).task with | some t => if t.launch = handle then some (e.1, c) else none | none => none
/-- R204, R234. Every dispatched task of a launch is killed, and no further one is dispatched. -/
def State.killLaunch (s : State) (tag handle : Nat) : State :=
  let s := s.modLaunch handle fun x =>
    { x with cancelled := x.cancelled.orElse (fun _ => some 1), group := .draining, killTags := x.killTags ++ [tag] }
  (s.contextsOf handle).foldl (fun s p => if (s.ctx p.1 p.2).status = .killed then s else s.killCtx p.1 p.2) s
/-- R234. KILL: answered once every dispatched task of the launch is killed and drained.
(Assumption log 74: DEDUCED.) -/
def execKill (hdr : HostHdr) (handle : Nat) (s : State) : Out :=
  command hdr s
    (match s.launch? handle with
     | some _ => s.killLaunch hdr.tag handle
     | none => s.respond hdr stOk [])

/-! ### Queues (R225, R233, R367) -/

/-- R225. A queue command: its effect on the queue's state, then OK. -/
def queueCommand (h : HostHdr) (s : State) (f : QueueState → QueueState) : Out :=
  command h s ((s.modQueue (h.die % 4) (h.queue % 16) fun q => { q with state := f q.state }).respond h stOk [])
/-- R225. QPAUSE. -/
def execQpause (hdr : HostHdr) (s : State) : Out :=
  queueCommand hdr s fun q => match q with | .idle => .paused | .active => .paused | x => x
/-- R225. QRESUME. -/
def execQresume (hdr : HostHdr) (s : State) : Out :=
  let holds := s.launches.any fun l => l.die = hdr.die % 4 && l.queue = hdr.queue % 16
  queueCommand hdr s fun q => match q with | .paused => if holds then .active else .idle | x => x
/-- R225. QDRAIN. -/
def execQdrain (hdr : HostHdr) (s : State) : Out :=
  queueCommand hdr s fun q => match q with | .idle => .draining | .active => .draining | .paused => .draining | x => x
/-- R225, R233. QRESET: every launch of the queue with undispatched tasks is cancelled with reason 2, and the queue is IDLE. -/
def execQreset (hdr : HostHdr) (s : State) : Out :=
  queueCommand hdr { s with launches := if badHeader hdr || !s.takesCommands then s.launches
                                       else s.launches.map fun l => l.reset (hdr.die % 4) (hdr.queue % 16) } fun _ => .idle
/-- R234. The state of a queue as QSTAT reports it.
(Assumption log 70: PRESUMED.) -/
def QueueState.code : QueueState → Nat | .idle => 0 | .active => 1 | .paused => 2 | .draining => 3 | .faulted => 4
/-- R234. QSTAT: state, launch count, free entries of the die's pool.
(Assumption log 70: PRESUMED.) -/
def execQstat (hdr : HostHdr) (s : State) : Out :=
  let d := s.die hdr.die
  let mine := s.launches.filter fun l => l.die = hdr.die % 4 && l.queue = hdr.queue % 16
  command hdr s (s.respond hdr stOk [(d.queue (hdr.queue % 16)).state.code, mine.length, d.poolFree])
/-- R367, R369. QDET: only while the queue is IDLE. -/
def execQdet (hdr : HostHdr) (flag : Bool) (s : State) : Out :=
  command hdr s
    (if ((s.die hdr.die).queue (hdr.queue % 16)).state = .idle then
       (s.modQueue (hdr.die % 4) (hdr.queue % 16) fun q => { q with det := flag }).respond hdr stOk []
     else s.respond hdr stAttr [])

/-! ### Modes, tracing and power (R362, R369 to R371, R381) -/

/-- R362, R369. CPMODE: the mode that the pair takes when firmware is next reloaded into it. -/
def execCpmode (hdr : HostHdr) (pair : Nat) (split : Bool) (s : State) : Out :=
  command hdr s
    (if h : pair < 4 then
       (s.modDie hdr.die fun d => { d with pairs := d.pairs.set pair { d.pairs[pair] with nextSplit := split } }).respond hdr stOk []
     else s.respond hdr stAttr [])
/-- R362. Firmware is reloaded into a pair: its mode takes effect and it runs again.
(Assumption log 85: DEDUCED.) -/
def execFirmwareReload (die pair : Nat) (s : State) : Out :=
  if h : die < 4 ∧ pair < 4 then
    let s := s.modDie die fun d => { d with
      pairs := d.pairs.set pair { d.pairs[pair]'h.2 with split := (d.pairs[pair]'h.2).nextSplit, stopped := false } (h := h.2) }
    let run (c : Core) : Core := { c with halted := false }
    .next ((s.modCore (128 * die + 96 + 2 * pair) run).modCore (128 * die + 97 + 2 * pair) run)
  else .fault .noSuchPart
/-- R369, R370. A ring size or a sample period that TRCFG takes.
(Assumption log 77: DEDUCED.) -/
def goodRing (base size period : Nat) : Bool :=
  base % 4096 = 0 && ((List.range 15).any fun i => size = 2 ^ (16 + i)) && (period = 0 || decide (2 ^ 10 ≤ period ∧ period ≤ 2 ^ 30))
/-- R369, R370. TRCFG: a new, empty trace ring.
(Assumption log 77: DEDUCED.) -/
def execTrcfg (hdr : HostHdr) (base size period mask : Nat) (s : State) : Out :=
  command hdr s
    (if goodRing base size period then { s with trace := ⟨base, size, period, mask, 0, 0⟩ }.respond hdr stOk [] else s.respond hdr stAttr [])
/-- R369, R371. DBG: the stop-arm bit and the breakpoints of a core. -/
def execDbg (hdr : HostHdr) (core : Nat) (arm : Bool) (bps : List (Option Nat)) (s : State) : Out :=
  command hdr s
    (if core < 104 then
       (s.modCore (128 * (hdr.die % 4) + core) fun c =>
         { c with armed := arm, breaks := Vector.ofFn fun i : Fin 4 => (bps[i.val]?).getD none }).respond hdr stOk []
     else s.respond hdr stAttr [])
/-- R369, R372. HSTAT: error counts of the die's cores, corrected rows of its channels, the VOTECNT total, droop counts, the temperatures of
the die and of its stack (R378, R381; free values) and the ageing indicators. It is answered in every stage.
(Assumption log 70: PRESUMED.) -/
def execHstat (hdr : HostHdr) (s : State) : Out :=
  let d := hdr.die % 4
  let cores := (List.range 104).map fun i => s.core (128 * d + i)
  let chans := (List.range 128).map fun i => (s.chan (128 * d + i)).corrected.foldl (fun n e => n + e.2) 0
  let data := (cores.map fun c => c.errors) ++ chans ++ [cores.foldl (fun n c => n + c.votecnt.toNat) 0]
    ++ ((s.die d).domains.toList.map fun x => x.droops) ++ [(Config.freeWord s.free).toNat, (Config.freeWord (s.free + 1)).toNat]
    ++ ((List.range 106).map fun i => AMap.getD (s.die d).ageing i 0xFFFF) ++ [(s.die d).errors]
  .next (if badHeader hdr || s.recovery then s.respond hdr stAttr [] else { s with free := s.free + 2 }.respond hdr stOk data)
/-- R381. PLIM: from 400 W; the module holds power within the lower limit (State.powerLimit). -/
def execPlim (hdr : HostHdr) (watts : Nat) (s : State) : Out :=
  command hdr s (if 400 ≤ watts ∧ watts < 2 ^ 16 then { s with plimit := watts }.respond hdr stOk [] else s.respond hdr stAttr [])

/-! ### Firmware and attestation (R376, R377) -/

/-- R376. FWLOAD: a signed image that verifies becomes the firmware and ends recovery.
(Assumption log 75: DEDUCED.) -/
def execFwload (hdr : HostHdr) (image : List (BitVec 8)) (s : State) : Out :=
  .next (if badHeader hdr || !(s.recovery || s.stage = .ready) || !Config.verifies image then s.respond hdr stAttr []
         else { s with firmware := image, recovery := false }.respond hdr stOk [])
/-- R377. What an attestation signs: the nonce and the digests of the firmware and of every kernel image in the module.
(Assumption log 75: DEDUCED.) -/
def State.attested (s : State) (nonce : List Byte) : List Byte :=
  nonce ++ Config.shake256 s.firmware 32 ++ (s.kernels.filter fun e => e.2.state ≠ .retired).flatMap fun e => Config.shake256 e.2.image 32
/-- R377. ATTEST, answered in every stage and in recovery: what is signed, the signature of 3,309 bytes, the public key of 1,952.
(Assumption log 75: DEDUCED.) -/
def execAttest (hdr : HostHdr) (nonce : List (BitVec 8)) (s : State) : Out :=
  .next (if badHeader hdr ∨ nonce.length ≠ 32 then s.respond hdr stAttr []
         else s.respond hdr stOk ((s.attested nonce ++ (Config.mldsaSign (s.attested nonce)).toList ++ Config.identityKey.toList).map BitVec.toNat))

/-! ### Hash trees (R368, R369) -/

/-- R368, R369. HASHCFG: the interval in frames of 256 SFC cycles, and whether hashing is enabled. -/
def execHashcfg (hdr : HostHdr) (cfg : Nat) (s : State) : Out :=
  command hdr s
    (if 2 ^ 25 ≤ cfg then s.respond hdr stAttr []
     else { s with hashEvery := bits cfg 23 0 + 1, hashOn := bitAt cfg 24 }.respond hdr stOk [])
/-- R368. A node of a tree: the root, or the children of a node; levels count from the leaves, level 0.
(Assumption log 76: DEDUCED.) -/
def HashTree.answer (t : HashTree) (level index : Nat) : Option (List Byte) :=
  if level = 0xFF then (t.levels.getLast?).bind fun l => l.head?
  else if level = 0 then none
  else match t.levels[level]?, t.levels[level - 1]? with
    | some up, some down => if index < up.length then some ((down[2 * index]?.getD []) ++ (down[2 * index + 1]?.getD [])) else none
    | _, _ => none
/-- R368. Answers a HASHRD from a formed tree. -/
def State.answerHash (s : State) (t : HashTree) (tag level index : Nat) : State :=
  match t.answer level index with
  | some bs => s.report .response tag stOk (bs.map BitVec.toNat)
  | none => s.report .response tag stAttr []
/-- R368, R369. HASHRD: one of the last two boundaries; a tree that is still being formed answers later.
(Assumption log 76: DEDUCED.) -/
def execHashrd (hdr : HostHdr) (n level index : Nat) (s : State) : Out :=
  command hdr s
    (match s.trees.find? fun t => t.boundary = n with
     | none => s.respond hdr stAttr []
     | some t =>
       if t.formed then s.answerHash t hdr.tag level index
       else { s with hashReads := s.hashReads ++ [(hdr.tag, n, level, index)] })
/-- R368. The 2 MiB of a leaf from a virtual address as they stand: unmapped pages count as zeros. -/
def State.leafBytes (s : State) (va : Nat) : List Byte :=
  (List.range 32).flatMap fun i =>
    match translate s 0 (va + 65536 * i) with
    | some l => if l.remote then List.replicate 65536 0 else Memory.read s.mem l.pa 65536
    | none => List.replicate 65536 0
/-- R368. The 2 MiB ranges that hold HASH pages, ascending. -/
def State.hashRanges (s : State) : List Nat :=
  ((s.pages.filter fun e => bitAt e.2.attr 5 && e.2.state ≠ .retired).map fun e => e.1 / 2 ^ 21 * 2 ^ 21).eraseDups
/-- R368. The level above a level. -/
def hashLevel : List (List Byte) → List (List Byte)
  | a :: b :: l => Config.shake256 (a ++ b) 32 :: hashLevel l
  | l => l
/-- R368. The levels from the leaves to the root. -/
def hashLevels (l : List (List Byte)) : Nat → List (List (List Byte))
  | 0 => [l]
  | n + 1 => if l.length ≤ 1 then [l] else l :: hashLevels (hashLevel l) n
/-- R368. A boundary: the tree of every byte as it stands, and of the trees before it only the last is kept.
(Assumption log 76: DEDUCED.) -/
def execHashBoundary (s : State) : Out :=
  let every := 256 * s.hashEvery
  if s.hashOn = false ∨ s.sfc % every ≠ 0 then .next s
  else
    let leaves := s.hashRanges.map fun va => Config.shake256 (s.leafBytes va) 32
    let t : HashTree := { boundary := s.sfc / every, levels := hashLevels leaves leaves.length, formed := false }
    let trees := (s.trees ++ [t]).drop (s.trees.length - 1)
    let gone := s.hashReads.filter fun r => !trees.any fun t => t.boundary = r.2.1
    .next (gone.foldl (fun s r => s.report .response r.1 stAttr [])
      { s with trees := trees, hashReads := s.hashReads.filter fun r => trees.any fun t => t.boundary = r.2.1 })
/-- R368. The oldest tree under way has been formed, and the requests that wait for it are answered.
(Assumption log 76: DEDUCED.) -/
def execHashTreeFormed (s : State) : Out :=
  match s.trees.find? fun t => !t.formed with
  | none => .next s
  | some t =>
    let done (x : HashTree) : HashTree := if x.boundary = t.boundary then { x with formed := true } else x
    let mine (r : Nat × Nat × Nat × Nat) : Bool := r.2.1 = t.boundary
    let s' : State := { s with trees := s.trees.map done, hashReads := s.hashReads.filter fun r => !mine r }
    .next ((s.hashReads.filter mine).foldl (fun s r => s.answerHash t r.1 r.2.2.1 r.2.2.2) s')

end Sys2Proof.Machine
end

