-- ==== Sys2Proof/Machine/Reliability.lean ====
section
/-! DEFINITION. Bring-up, clocking, power, scrubbing, tracing, droop and wear (spec/23 R366, R370, R372, 24 R378 to R381). -/
namespace Sys2Proof.Machine

/-! ### Bring-up (R378) -/

/-- R378. Every channel of the module, changed. -/
def State.eachChannel (s : State) (f : Channel → Channel) : AMap Channel := (List.range 512).map fun i => (i, f (s.chan i))
/-- R334. A channel in another power state. -/
def Channel.inPower (c : Channel) (p : PowerState) : Channel := { c with power := p }
/-- R378. The module stops in stage 1, its stacks in self-refresh, and the host is told. -/
def State.stopBringUp (s : State) : State :=
  { s with stage := .stopped, chans := s.eachChannel fun c => c.inPower .selfRefresh }.report .event 0 stCancelled []
/-- R378, R335. The dwell ends: every stack is warm, the stacks leave self-refresh, training begins and the links start; or 600 s have passed and the module stops.
(Assumption log 80: DEDUCED.) -/
def execDwellEnd (warm : Bool) (s : State) : Out :=
  .next (if s.stage ≠ .dwell ∨ s.recovery = true then s
    else if warm then
      { s with stage := .train, chans := s.eachChannel fun c => c.inPower .active
               links := s.links.map fun l => if l.state = .down then { l with state := .training } else l }
    else s.stopBringUp)
/-- R378. Training of some channel has failed three times.
(Assumption log 80: DEDUCED.) -/
def execChannelTrainingFails (s : State) : Out := if s.stage = .train then .next s.stopBringUp else .next s
/-- R378, R320. Every channel is trained: the clock is raised, and the channels start the default timetable.
(Assumption log 80: DEDUCED.) -/
def execTrainComplete (s : State) : Out :=
  let begin_ (c : Channel) : Channel := { c with running := true, table := defaultTable, idx := 0, start := s.tick, ends := s.tick + 144 }
  if s.stage = .train then .next { s with stage := .ramp, chans := s.eachChannel begin_ } else .next s
/-- R378. The nominal clock is reached: commands are taken.
(Assumption log 80: DEDUCED.) -/
def execRampComplete (s : State) : Out := if s.stage = .ramp then .next { s with stage := .ready } else .next s

/-! ### Clocking and power (R372, R379, R381) -/

/-- A voltage domain's number modulo 12. -/
def domIx (d : Nat) : Fin 12 := ⟨d % 12, Nat.mod_lt _ (by decide)⟩
/-- R372. The voltage domain of a core of a die: eight worker cores each, and control core 96 + j in domain j.
(Assumption log 81: PRESUMED.) -/
def domainOf (core : Nat) : Nat := if core < 96 then core / 8 else core - 96
/-- Changes a voltage domain. -/
def State.modDomain (s : State) (die d : Nat) (f : Domain → Domain) : State :=
  s.modDie die fun x => { x with domains := x.domains.set (domIx d) (f x.domains[domIx d]) }
/-- R379. Low margin: the voltage rises first, then the domain's cores skip cycles. -/
def execMarginLow (die dom : Nat) (s : State) : Out :=
  if 4 ≤ die ∨ 12 ≤ dom then .fault .noSuchPart
  else .next (s.modDomain die dom fun x => if x.raised then { x with skipping := true } else { x with raised := true })
/-- R379. The margin is restored: no cycle is skipped, and the voltage returns. -/
def execMarginRestored (die dom : Nat) (s : State) : Out :=
  if 4 ≤ die ∨ 12 ≤ dom then .fault .noSuchPart
  else .next (s.modDomain die dom fun x => { x with skipping := false, raised := false })
/-- R381. The power limit with the inlet air at a temperature: 2,200 W to 25 degrees, 40 W less for each degree above, to 1,400 W at 45. -/
def airLimit (air : Int) : Nat := 2200 - 40 * (min air 45 - 25).toNat
/-- R381. The lower of the host's limit and that of the inlet air. -/
def State.powerLimit (s : State) : Nat := min s.plimit (airLimit s.air)
/-- R379, R381. A core skips the coming cycle: at most one in 16, in a domain of low margin or to hold the power limit.
(Assumption log 81: PRESUMED.) (Assumption log 82: DEDUCED.) -/
def State.skips (s : State) (k : Nat) : Bool :=
  let dom := ((s.die (k / 128)).domains[domIx (domainOf (k % 128))]).skipping
  (s.clocks + 1) % 16 = 0 && ((dom && Config.draw (s.free + k) % 2 = 1) || decide (s.powerLimit < Config.power (s.free + k)))
/-- R381. A die reaches 105 degrees: every channel halts in self-refresh, nothing issues, and the host is told.
(Assumption log 84: DEDUCED.) -/
def execDieOvertemp (die : Nat) (s : State) : Out :=
  if 4 ≤ die then .fault .noSuchPart
  else
    .next (({ s with chans := s.eachChannel fun c => c.inPower .selfRefresh }.modDie die fun d => { d with hot := true }).report .event die stCancelled [])

/-! ### Droop, samples and wear (R370, R372) -/

/-- R370, R372. The bundle address of a core's RUNNING context, or 0. -/
def Core.runningAt (c : Core) : Nat × Nat :=
  match c.port with
  | some n => if (c.ctx n.val).status = .running then (n.val, (c.ctx n.val).regs.pc) else (0, 0)
  | none => (0, 0)
/-- R362, R370, R372. The bundle address of a core's RUNNING context, or 0; the second core of a pair is two cycles behind the first. -/
def State.runningAt (s : State) (k : Nat) : Nat × Nat :=
  let c := s.core k
  if s.repeats k then (match c.past[2]? with | some p => ({ c with ctxs := p.1, port := p.2 }).runningAt | none => (0, 0)) else c.runningAt
/-- R372. A droop detector fires: one record for every core of its domain, none within 4,096 cycles of the firing before.
(Assumption log 81: PRESUMED.) -/
def execDroopFire (die dom : Nat) (s : State) : Out :=
  if 4 ≤ die ∨ 12 ≤ dom then .fault .noSuchPart
  else
    let x := (s.die die).domains[domIx dom]
    let quiet := match x.lastDroop with | some t => decide (s.sfc < t + 4096) | none => false
    let s := s.modDomain die dom fun y => { y with droops := y.droops + 1, lastDroop := some s.sfc }
    if quiet then .next s
    else
      .next (((List.range 104).filter fun i => domainOf i = dom).foldl (fun s i =>
        let r := s.runningAt (128 * die + i)
        s.traceRec { type := 5, core := 128 * die + i, ctx := r.1, addr := r.2, sfc := s.sfc, payload := dom }) s)
/-- R370. A sample of a core: the bundle address of its RUNNING context. -/
def execTraceSample (core : Nat) (s : State) : Out :=
  if !coreExists core then .fault .noSuchPart
  else if s.trace.period = 0 ∨ s.sfc % s.trace.period ≠ 0 then .next s
  else
    let r := s.runningAt core
    .next (s.traceRec { type := 3, core := core, ctx := r.1, addr := r.2, sfc := s.sfc, payload := 0 })
/-- R372. An ageing indicator changes; below 12 months the host is told. -/
def execAgeingIndicatorLow (die unit months : Nat) (s : State) : Out :=
  if 4 ≤ die ∨ 106 ≤ unit then .fault .noSuchPart
  else
    let old := AMap.getD (s.die die).ageing unit 0xFFFF
    let s := s.modDie die fun d => { d with ageing := AMap.set d.ageing unit (min months 0xFFFF) }
    if months < 12 ∧ 12 ≤ old then .next (s.report .event die stOk [unit, months]) else .next s

/-! ### Scrubbing (R366) -/

/-- Where the accumulator words lie for SCRUB: above every memory address, 2^20 words a core.
(Assumption log 83: PRESUMED.) -/
def accScrubBase : Nat := 2 ^ 60
/-- The canonical NaN of FP32. -/
def nan32 : Word32 := 0x7FC00000
/-- R366, R391. The pair of elements of an accumulator word with an uncorrectable error reads as NaN.
(Assumption log 83: PRESUMED.) -/
def State.accError (s : State) (k w : Nat) : State :=
  s.modCore k fun c =>
    let row := AMap.getD c.acc (w / 64) (Vector.replicate 64 0)
    { c with acc := AMap.set c.acc (w / 64) (Vector.ofFn fun j : Fin 64 => if j.val / 2 = w % 64 / 2 then nan32 else row[j]), errors := c.errors + 1 }
/-- R366. The core whose arrays hold an address, if it is a scratchpad byte.
(Assumption log 83: PRESUMED.) -/
def spadCore (a : Nat) : Nat := (a - 2 ^ 47) / 2 ^ 21
/-- R366. The core of a word above the accumulators: of a first-level cache, a pattern book or a stencil table.
(Assumption log 83: PRESUMED.) -/
def arrayCore (a : Nat) : Nat :=
  if 2 ^ 62 ≤ a then (a - 2 ^ 62) / 2 ^ 48 else if 2 ^ 61 + 2 ^ 40 ≤ a then (a - 2 ^ 61 - 2 ^ 40) / 2 ^ 12 else (a - 2 ^ 61) / 2 ^ 14
/-- R283, R366. A corrected error is counted: for the core or the die whose array has it, or for its row of DRAM.
(Assumption log 83: PRESUMED.) -/
def State.countError (s : State) (a : Nat) : State :=
  if 2 ^ 47 ≤ a then s.countCore (spadCore a)
  else if s.llcHit a then s.modDie (homeDie a) fun d => { d with errors := d.errors + 1 }
  else s.correctedRow (chanOfPc (homePc a)) a
/-- R366. SCRUB of one 64-bit word: a corrected error is counted, an uncorrectable one poisons the word.
(Assumption log 83: PRESUMED.) -/
def execScrub (addr : Nat) (bad : Option Bool) (s : State) : Out :=
  if addr < accScrubBase then
    match bad with
    | none => .next s
    | some false => .next (s.countError addr)
    | some true => .next (if 2 ^ 47 ≤ addr then (s.poisonWord addr).countCore (spadCore addr) else s.poisonWord addr)
  else if 2 ^ 61 ≤ addr then
    if !coreExists (arrayCore addr) then .fault .noSuchPart
    else match bad with
      | none => .next s
      | some false => .next (s.countCore (arrayCore addr))
      | some true => .next ((s.poisonWord addr).countCore (arrayCore addr))
  else
    let w := (addr - accScrubBase) % 2 ^ 20
    let k := (addr - accScrubBase) / 2 ^ 20
    if !coreExists k then .fault .noSuchPart
    else match bad with
      | none => .next s
      | some false => .next (s.countCore k)
      | some true => .next ((s.accError k w).report .event k stEcc [w])

end Sys2Proof.Machine
end

