-- ==== Sys2Proof/Machine/Agenda.lean ====
section
/-! DEFINITION. Time (spec/02 R27, R32, R39, 20 R318, 21 R338, 24 R379): what happens when a core cycle begins, and the steps that are due in it,
in order. Every step of the machine is one instruction of Instr; the agenda lists those of the present cycle, and a step whose condition does
not hold changes nothing (assumption log 6). -/
namespace Sys2Proof.Machine

/-! ### The next cycle -/

/-- R338. The cycles by which SFC is steered in a tick where it still differs by n: one, and more while it differs by much, so that no difference
up to 2^19 outlasts 2^20 cycles. -/
def steerRate (n : Nat) : Nat := n / 2 ^ 13 + 1
/-- R39, R338. The SFC value of the next cycle: one more, or as the steering asks: in the second cycle of a tick SFC jumps ahead, ending in the last
cycle but one of a tick, or stands still for some cycles.
(Assumption log 65: DEDUCED.) -/
def State.nextSfc (s : State) : State :=
  if 0 < s.steer ∧ s.sfc % 4 = 1 then
    let n := 4 * (steerRate s.steer.toNat - 1) + 1
    { s with sfc := s.sfc + 1 + n, steer := s.steer - n, held := 0 }
  else if s.steer < 0 ∧ s.sfc % 4 = 1 ∧ s.held < steerRate s.steer.natAbs then { s with steer := s.steer + 1, held := s.held + 1 }
  else { s with sfc := s.sfc + 1, held := 0 }
/-- R32, R197. A context's next cycle: a task's first one is cycle 0, and what is pending in a TRAPPED context comes nearer although its
cycles do not count, as do the stencil entries of a DORMANT one (R223).
(Assumption log 12: DEDUCED.) (Assumption log 14: DEDUCED.) -/
def Ctx.tick (x : Ctx) : Ctx :=
  if x.status.counts then (if x.fresh then { x with fresh := false } else { x with cycle := x.cycle + 1 })
  else if x.status = .trapped then { x with pend := x.pend.map fun p => { p with due := p.due - 1 } }
  else if x.status = .dormant then { x with pend := x.pend.map fun p => if p.isStencil then { p with due := p.due - 1 } else p }
  else x
/-- R32, R30. A core whose clock runs moves to its next cycle, with the contexts whose cycles count.
(Assumption log 13: DEDUCED.) -/
def Core.tickCycle (c : Core) : Core :=
  if c.frozen && !c.skipped then c
  else
    { c with frozen := false, skipped := false, cycle := c.cycle + 1, ctxs := c.ctxs.map Ctx.tick }
/-- The cores that skip the coming cycle (R379).
(Assumption log 82: DEDUCED.) -/
def State.skipping (s : State) : List Nat := (s.cores.filter fun e => (!e.2.frozen || e.2.skipped) && s.skips e.1).map fun e => e.1
/-- R175, R32, R379. Every core moves on; one that skips a cycle is frozen for it.
(Assumption log 82: DEDUCED.) -/
def State.tickCores (s : State) (skipped : List Nat) : State :=
  { s with cores := s.cores.map fun e =>
      let c := e.2.countEngine s.sfc
      (e.1, if skipped.contains e.1 then { c with frozen := true, skipped := true } else c.tickCycle) }
/-- R250. The counts of SIGS bundles that retired late in the last cycle reach their semaphores. -/
def Ctx.delivered (x : Ctx) : Ctx := { x with raised := [] }
def State.deliver (s : State) (k c : Nat) : State :=
  let l := (s.ctx k c).raised
  if l.isEmpty then s else l.foldl (fun s e => s.raise k c e.1 e.2) (s.modCtx k c Ctx.delivered)
/-- R234. Host messages with an unknown command, as they arrive, are answered with ATTR.
(Assumption log 93: DEDUCED.) -/
def State.answerStrays (s : State) : State :=
  (s.strays.filter fun p => decide (p.1 ≤ s.sfc)).foldl (fun s p => s.report .response p.2 stAttr [])
    { s with strays := s.strays.filter fun p => !decide (p.1 ≤ s.sfc) }
/-- R234, R250, R259, R282, R297, R340, R374. What comes about by itself as a cycle begins: counts of semaphores, arrivals at banks, accesses
that may now be sent, unmappings that are over, COATWs that are due, captures, card copies and host transfers that waited.
(Assumption log 6: DEDUCED.) -/
def State.settle (s : State) : State :=
  let every (f : State → Nat → Nat → State) (s : State) : State :=
    s.cores.foldl (fun s e => [0, 1, 2, 3].foldl (fun s n => f s e.1 n) s) s
  let s := every State.sendReady (every State.deliver s).arriveDue
  let s := s.settleUnmaps
  let s := s.regions.foldl (fun s e => s.settleCoatw e.1 false) s
  s.settleCaptures.feedCards.retryHost.answerStrays

/-! ### The steps that are due -/

/-- R29. Blocks that may have cleared in the cycle: the contexts are READY from the next one on. -/
def blockEvents (k : Nat) (c : Core) : List Instr :=
  [0, 1, 2, 3].filterMap fun n =>
    let x := c.ctx n
    if x.status = .blocked ∨ x.status = .running ∨ x.status = .ready then some (.blockClear k n) else none
/-- R32 to R36. Landings; a cycle that the core skips has none. -/
def clockEvents (k : Nat) (c : Core) (skipped : Bool) : List Instr :=
  ([0, 1, 2, 3].flatMap fun n =>
    let x := c.ctx n
    if x.status.lands && x.pend.any (fun p => p.isDue x.cycle) then [.resultLanding k n, .landing k n] else [])
    ++ if c.frozen && !skipped then [.lateDataReturn k] else []
/-- R170, R196. The engine's next work, and retires. -/
def retireEvents (k : Nat) (c : Core) : List Instr :=
  (if c.mrun.isSome || !c.mq.isEmpty then [.matrixChunk k] else [])
    ++ [0, 1, 2, 3].flatMap fun n => List.replicate (c.ctx n).inflight.length (.bundleRetire k n)
/-- R30, R27. The run limit and the issue cycle. -/
def issueEvents (k : Nat) : List Instr := [.runLimit k, .bundleIssue k]
/-- R173, R201 to R207. Completions of the engine, and contexts that leave. -/
def contextEvents (k : Nat) (c : Core) : List Instr :=
  (if !c.mdone.isEmpty || c.mrun.isSome then [.matrixItemComplete k] else [])
    ++ ([0, 1, 2, 3].flatMap fun n =>
      let x := c.ctx n
      (if x.preempt.isSome then [.contextSaved k n] else []) ++ (if x.status = .killed then [.killDrainComplete k n] else [])
        ++ if x.ending || !x.inflight.isEmpty then [.endDrainComplete k n] else [])
    ++ (List.range 32).filterMap fun b => if (c.bank b).fifo.any fun m => m.taker.isNone then some (.messageDelivery k b) else none
/-- R184 to R187. The steps of a core's cards. -/
def cardEvents (k sfc : Nat) (c : Core) : List Instr :=
  (c.cards.flatMap fun d => (d.copies.filter fun p => decide (p.2 ≤ sfc)).map fun p => .copyComplete k d.id p.1)
    ++ (c.cards.map fun d => .cardComplete k d.id)
    ++ if c.cards.any fun d => !d.started then [.cardStart k] else []
/-- R258, R259. The steps of one bank: what waits in its order, up to the first trowel command.
(Assumption log 86: DEDUCED.) -/
def bankSteps (k b : Nat) : List BankItem → List Instr
  | [] => []
  | it :: l => match it.work with
    | .store _ => .bankAccess k b :: bankSteps k b l
    | .orWord _ _ => .bankAccess k b :: bankSteps k b l
    | .load _ _ _ _ _ => .bankAccess k b :: bankSteps k b l
    | .arrival _ _ => .barrierArrival k b :: bankSteps k b l
    | .trowel _ _ _ _ => [.trowelCommandStart k b, .trowelCommandPerform k b]
/-- R218, R257 to R259. The steps of a core's banks. -/
def bankEvents (k : Nat) (c : Core) : List Instr :=
  (List.range 32).flatMap fun b =>
    let x := c.bank b
    (if x.releasing then [.bankHandover k b] else []) ++ (if x.mode = .toCache ∨ x.mode = .fromCache then [.bankmodeSwitchComplete k b] else [])
      ++ bankSteps k b x.queue
/-- R232, R235 to R239. The dispatches of every die's scheduler, before every decision of the cycle.
(Assumption log 46: DEDUCED.) -/
def State.dispatchEvents (s : State) : List Instr :=
  (s.launches.filterMap fun l => if l.deterministic && l.group = .bound && l.start.isNone then some (.groupStart l.handle) else none)
    ++ ([0, 1, 2, 3].filter fun d => s.launches.any fun l => l.die = d).map .dispatchRound
/-- R230. The decisions of the schedulers: one step for each request, before the landings and again after the cycle's retires; an answer
that a landing has waited for is then written in the cycle.
(Assumption log 46: DEDUCED.) -/
def State.decisionEvents (s : State) : List Instr := s.sched.map fun r => .launchDecision (r.core / 128)
/-- R230. The landings of the contexts with a request, after the decisions, and the retires that follow. -/
def State.answerEvents (s : State) : List Instr :=
  (s.sched.flatMap fun r => [.landing r.core r.ctx, .lateDataReturn r.core])
    ++ s.sched.flatMap fun r => List.replicate (s.ctx r.core r.ctx).inflight.length (.bundleRetire r.core r.ctx)
/-- R287. A slice's admissions in this cycle: by a free choice, and all of them when the oldest has waited nearly as long as it may.
(Assumption log 7: DEDUCED.) -/
def admissions (r i sfc free : Nat) (sl : Slice) : List Instr :=
  if sl.transit.any fun q => decide (q.retiredAt + 440 ≤ sfc) then List.replicate sl.transit.length (.skimAdmission r i)
  else if !sl.transit.isEmpty && Config.draw free % 2 = 1 then [.skimAdmission r i] else []
/-- R286 to R311. The steps of a region in a tick. -/
def regionEvents (r : Nat) (g : Region) : List Instr :=
  ((List.range g.slices.length).flatMap fun i =>
    [.waitTimeout r i, .coatStart r i,
     if g.step then .groupVisit r i else .skimRowVisit r i,
     .coatComplete r i])
    ++ [.commitFail r, .regionRemoved r]
/-- R317 to R334. The steps of a channel in a tick. A visit that ends or is cut in the tick does so before the next entry starts (R326), and
the next one starts after it, so that an entry in which a pass is armed has its first tick (R325). A table that is asked for is placed in the
tick in which it is due (R332, R333), and a low-power state may begin with the entry (R334). -/
def channelEvents (i tick free : Nat) (c : Channel) : List Instr :=
  let asked := !c.cmds.isEmpty || c.starting.isSome || c.stopping
  let near : List Instr := if c.pass.isSome || c.visit.isSome || asked then [.nbVisit i] else []
  near
    ++ (if c.cmds.isEmpty then [] else [.timetableStage i])
    ++ (if c.cmds.isEmpty && c.power = .active then [] else [.channelWake i])
    ++ (if asked then [.tableReplacement i, .defaultTableSwitch i, .tableReplacement i, .defaultTableSwitch i] else [])
    ++ (if c.running && decide (c.ends ≤ tick) then [.timetableEntry i] else [])
    ++ (if c.cmds.isEmpty then [] else [.channelPowerDown i])
    ++ near
    ++ (if c.q0.isEmpty then [] else [.dramAccess i 0]) ++ (if c.q1.isEmpty then [] else [.dramAccess i 1])
    ++ c.spareCopy.filterMap fun e =>
      if Config.draw (free + e.1) % 64 = 0 then some (.spareCopyComplete i (16 * (e.1 % 2) + e.1 / 2 % 16) (e.1 / 2 / 16)) else none
/-- R338, R344, R368, R370, R375. Messages, alignment flits, hash trees, samples and flash writes.
(Assumption log 7: DEDUCED.) -/
def State.otherEvents (s : State) : List Instr :=
  ((s.messages.filter fun m => decide (m.readyAt ≤ s.sfc)).flatMap fun m => [.sendDelivery m.id, .sendTimeout m.id])
    ++ ((List.range 22).filterMap fun l => if isDeviceLink l && (s.link l).flows then some (.alignmentFlit l) else none)
    ++ (if s.hashOn && s.sfc % (256 * s.hashEvery) = 0 then [.hashBoundary] else [])
    ++ (if (s.trees.any fun t => !t.formed) && Config.draw s.free % 16 = 0 then [.hashTreeFormed] else [])
    ++ (if s.trace.period ≠ 0 ∧ s.sfc % s.trace.period = 0 then s.cores.map fun e => .traceSample e.1 else [])
    ++ s.ckLinks.filterMap fun l => if !l.complete && Config.draw (s.free + l.id) % 16 = 0 then some (.checkpointWriteComplete l.id) else none
/-- The steps of the present cycle, in order.
(Assumption log 6: DEDUCED.) -/
def State.due (s : State) (skipped : List Nat) : List Instr :=
  let tick := s.sfc % 4 = 0
  s.decisionEvents
    ++ (s.cores.flatMap fun e => clockEvents e.1 e.2 (skipped.contains e.1))
    ++ (s.cores.flatMap fun e => retireEvents e.1 e.2)
    ++ s.decisionEvents ++ s.answerEvents
    ++ (s.cores.flatMap fun e => issueEvents e.1)
    ++ (s.cores.flatMap fun e => contextEvents e.1 e.2)
    ++ (s.cores.flatMap fun e => cardEvents e.1 s.sfc e.2)
    ++ (s.launches.map fun l => .launchComplete l.handle)
    ++ (s.regions.flatMap fun e => (List.range e.2.slices.length).flatMap fun i => match e.2.slices[i]? with
        | some sl => admissions e.1 i s.sfc (s.free + i) sl | none => [])
    ++ (if tick then s.chans.flatMap fun e => channelEvents e.1 s.tick s.free e.2 else [])
    ++ (if tick then s.regions.flatMap fun e => regionEvents e.1 e.2 else [])
    ++ s.otherEvents
    ++ (s.cores.flatMap fun e => bankEvents e.1 e.2)
    ++ (s.cores.flatMap fun e => blockEvents e.1 e.2)
/-- What comes from outside the module in the present cycle: host commands, firmware requests, events of the environment. -/
def State.inputsDue (s : State) : List Instr := (s.inputs.filter fun p => decide (p.1 ≤ s.sfc)).map fun p => p.2
/-- A core cycle begins: the clocks move on, the inlet air is what it is (R381), what comes about by itself does, and the agenda is drawn up: dispatches first, then what comes from
outside (R232: dispatch wins).
(Assumption log 2: DESIGN CHOICE.) (Assumption log 3: DESIGN CHOICE.) (Assumption log 6: DEDUCED.) -/
def nextCycle (s : State) : State :=
  let skipped := s.skipping
  let s := (({ s.tickCores skipped with clocks := s.clocks + 1, air := Config.inletAir s.clocks } : State).nextSfc).settle
  let now := s.inputsDue
  { s with inputs := s.inputs.filter fun p => !decide (p.1 ≤ s.sfc), agenda := s.dispatchEvents ++ now ++ s.due skipped, free := s.free + 1024 }

/-! ### Placing a program by hand -/

/-- A code line that holds one instruction in the slot its length names, or a stencil word. -/
def lineOfWord (nbits w : Nat) : Nat :=
  match slotOfBits nbits with
  | some sl => bundleOfSlot sl w
  | none => 2 ^ 251 + w % 65536
/-- A kernel of one line.
(Assumption log 4: DESIGN CHOICE.) -/
def oneLineKernel (line : Nat) : Kernel :=
  { state := .loaded, entry := 0, code := [BitVec.ofNat 256 line], sten := [], book := [], levels := [], claim := 0, res := 0, data := [], image := [] }
/-- The task of a launch that firmware loads by hand.
(Assumption log 4: DESIGN CHOICE.) -/
def handTask (kernel : Nat) : Task :=
  { id := 0, launch := 0, kernel := kernel, index := 0, counts := [], kinds := [], idx := [], started := true }
/-- Context 0 of core 0 runs a one-line kernel that holds the given instruction, at the present frame, and the next step is its issue
(assumption log 4).
(Assumption log 4: DESIGN CHOICE.) -/
def State.placeWord (s : State) (nbits w : Nat) : State :=
  let s : State := { s with kernels := AMap.set s.kernels s.nextKernel (oneLineKernel (lineOfWord nbits w)), agenda := [.bundleIssue 0] }
  let run (x : Ctx) : Ctx :=
    { x with status := .running, task := some (handTask s.nextKernel), regs := { x.regs with pc := 0, startAt := none }, issueAt := 0,
             preempt := none, killing := false, ending := false, inflight := [] }
  s.modCore 0 fun c => { c.modCtx 0 run with port := some 0, portAt := 0, frozen := false, halted := false }

end Sys2Proof.Machine
end

