-- ==== Sys2Proof/Machine/Dispatch.lean ====
section
/-! DEFINITION. The dispatch of a step to its meaning, one arm per constructor of Instr. -/
namespace Sys2Proof.Machine

def exec (i : Instr) (s : State) : Host.Outcome State Fault Refusal :=
  match i with
  | .nop => Sys2Proof.Machine.execNop s
  | .br g disp => Sys2Proof.Machine.execBr g disp s
  | .brx g xa => Sys2Proof.Machine.execBrx g xa s
  | .call g disp => Sys2Proof.Machine.execCall g disp s
  | .ret g => Sys2Proof.Machine.execRet g s
  | .loop g lvl disp => Sys2Proof.Machine.execLoop g lvl disp s
  | .lbrk g lvl disp => Sys2Proof.Machine.execLbrk g lvl disp s
  | .waits g sm cnt => Sys2Proof.Machine.execWaits g sm cnt s
  | .sigs g sm cnt => Sys2Proof.Machine.execSigs g sm cnt s
  | .waitc g xm xc => Sys2Proof.Machine.execWaitc g xm xc s
  | .arrive g bk => Sys2Proof.Machine.execArrive g bk s
  | .bwait g bk => Sys2Proof.Machine.execBwait g bk s
  | .fence g scope => Sys2Proof.Machine.execFence g scope s
  | .acq g xa scope => Sys2Proof.Machine.execAcq g xa scope s
  | .rel g xa scope => Sys2Proof.Machine.execRel g xa scope s
  | .bankacq g xa => Sys2Proof.Machine.execBankacq g xa s
  | .bankrel g xa => Sys2Proof.Machine.execBankrel g xa s
  | .launch g xd xa => Sys2Proof.Machine.execLaunch g xd xa s
  | .cancel g xd xa => Sys2Proof.Machine.execCancel g xd xa s
  | .sleep g => Sys2Proof.Machine.execSleep g s
  | .armh g xa k => Sys2Proof.Machine.execArmh g xa k s
  | .yield g => Sys2Proof.Machine.execYield g s
  | .trap g n => Sys2Proof.Machine.execTrap g n s
  | .rett g => Sys2Proof.Machine.execRett g s
  | .csrr g csr xd => Sys2Proof.Machine.execCsrr g csr xd s
  | .csrw g csr xa => Sys2Proof.Machine.execCsrw g csr xa s
  | .csrwMemdef g xa => Sys2Proof.Machine.execCsrwMemdef g xa s
  | .csrwClm g xa => Sys2Proof.Machine.execCsrwClm g xa s
  | .csrwFramelen g xa => Sys2Proof.Machine.execCsrwFramelen g xa s
  | .csrwDetmode g xa => Sys2Proof.Machine.execCsrwDetmode g xa s
  | .csrwStepref g xa => Sys2Proof.Machine.execCsrwStepref g xa s
  | .csrwTrappc g xa => Sys2Proof.Machine.execCsrwTrappc g xa s
  | .csrwHarm g k xa => Sys2Proof.Machine.execCsrwHarm g k xa s
  | .csrwLoopCount g isIdx lvl xa => Sys2Proof.Machine.execCsrwLoopCount g isIdx lvl xa s
  | .csrwMslot g n xa => Sys2Proof.Machine.execCsrwMslot g n xa s
  | .csrwXlroot g xa => Sys2Proof.Machine.execCsrwXlroot g xa s
  | .stenld g xn xa => Sys2Proof.Machine.execStenld g xn xa s
  | .frame g xa len => Sys2Proof.Machine.execFrame g xa len s
  | .brk g tag => Sys2Proof.Machine.execBrk g tag s
  | .endTask g => Sys2Proof.Machine.execEndTask g s
  | .sevt g ev => Sys2Proof.Machine.execSevt g ev s
  | .add sl xd xa xb => Sys2Proof.Machine.execAdd sl xd xa xb s
  | .sub sl xd xa xb => Sys2Proof.Machine.execSub sl xd xa xb s
  | .and sl xd xa xb => Sys2Proof.Machine.execAnd sl xd xa xb s
  | .or sl xd xa xb => Sys2Proof.Machine.execOr sl xd xa xb s
  | .xor sl xd xa xb => Sys2Proof.Machine.execXor sl xd xa xb s
  | .shl sl xd xa xb => Sys2Proof.Machine.execShl sl xd xa xb s
  | .shr sl xd xa xb => Sys2Proof.Machine.execShr sl xd xa xb s
  | .sra sl xd xa xb => Sys2Proof.Machine.execSra sl xd xa xb s
  | .mul sl xd xa xb => Sys2Proof.Machine.execMul sl xd xa xb s
  | .mulh sl xd xa xb => Sys2Proof.Machine.execMulh sl xd xa xb s
  | .mulhn sl xd xa xb => Sys2Proof.Machine.execMulhn sl xd xa xb s
  | .min sl xd xa xb => Sys2Proof.Machine.execMin sl xd xa xb s
  | .max sl xd xa xb => Sys2Proof.Machine.execMax sl xd xa xb s
  | .minn sl xd xa xb => Sys2Proof.Machine.execMinn sl xd xa xb s
  | .maxn sl xd xa xb => Sys2Proof.Machine.execMaxn sl xd xa xb s
  | .cmp sl pd xa xb cond => Sys2Proof.Machine.execCmp sl pd xa xb cond s
  | .sel sl xd xa xb ps inv => Sys2Proof.Machine.execSel sl xd xa xb ps inv s
  | .clz sl xd xa => Sys2Proof.Machine.execClz sl xd xa s
  | .popc sl xd xa => Sys2Proof.Machine.execPopc sl xd xa s
  | .div sl xd xa xb => Sys2Proof.Machine.execDiv sl xd xa xb s
  | .rem sl xd xa xb => Sys2Proof.Machine.execRem sl xd xa xb s
  | .addi sl xd xa imm => Sys2Proof.Machine.execAddi sl xd xa imm s
  | .andi sl xd xa imm => Sys2Proof.Machine.execAndi sl xd xa imm s
  | .ori sl xd xa imm => Sys2Proof.Machine.execOri sl xd xa imm s
  | .xori sl xd xa imm => Sys2Proof.Machine.execXori sl xd xa imm s
  | .shli sl xd xa n => Sys2Proof.Machine.execShli sl xd xa n s
  | .shri sl xd xa n => Sys2Proof.Machine.execShri sl xd xa n s
  | .srai sl xd xa n => Sys2Proof.Machine.execSrai sl xd xa n s
  | .cmpi sl pd xa cond imm => Sys2Proof.Machine.execCmpi sl pd xa cond imm s
  | .lui sl xd imm => Sys2Proof.Machine.execLui sl xd imm s
  | .plog sl pd pa pb table => Sys2Proof.Machine.execPlog sl pd pa pb table s
  | .ldsD xd xa imm => Sys2Proof.Machine.execLdsD xd xa imm s
  | .ldsW xd xa imm => Sys2Proof.Machine.execLdsW xd xa imm s
  | .ldsWn xd xa imm => Sys2Proof.Machine.execLdsWn xd xa imm s
  | .ldsH xd xa imm => Sys2Proof.Machine.execLdsH xd xa imm s
  | .ldsHn xd xa imm => Sys2Proof.Machine.execLdsHn xd xa imm s
  | .ldsB xd xa imm => Sys2Proof.Machine.execLdsB xd xa imm s
  | .ldsBn xd xa imm => Sys2Proof.Machine.execLdsBn xd xa imm s
  | .stsD xd xa imm => Sys2Proof.Machine.execStsD xd xa imm s
  | .stsW xd xa imm => Sys2Proof.Machine.execStsW xd xa imm s
  | .stsH xd xa imm => Sys2Proof.Machine.execStsH xd xa imm s
  | .stsB xd xa imm => Sys2Proof.Machine.execStsB xd xa imm s
  | .vnop => Sys2Proof.Machine.execVnop s
  | .vadd g fmt vd va vb rm sat => Sys2Proof.Machine.execVadd g fmt vd va vb rm sat s
  | .vsub g fmt vd va vb rm sat => Sys2Proof.Machine.execVsub g fmt vd va vb rm sat s
  | .vmul g fmt vd va vb rm sat => Sys2Proof.Machine.execVmul g fmt vd va vb rm sat s
  | .vfma g fmt vd va vb vc rm sat => Sys2Proof.Machine.execVfma g fmt vd va vb vc rm sat s
  | .vfms g fmt vd va vb vc rm sat => Sys2Proof.Machine.execVfms g fmt vd va vb vc rm sat s
  | .vfnma g fmt vd va vb vc rm sat => Sys2Proof.Machine.execVfnma g fmt vd va vb vc rm sat s
  | .vmin g fmt vd va vb => Sys2Proof.Machine.execVmin g fmt vd va vb s
  | .vmax g fmt vd va vb => Sys2Proof.Machine.execVmax g fmt vd va vb s
  | .vabs g fmt vd va => Sys2Proof.Machine.execVabs g fmt vd va s
  | .vneg g fmt vd va => Sys2Proof.Machine.execVneg g fmt vd va s
  | .vcmp g fmt pd va vb cond part => Sys2Proof.Machine.execVcmp g fmt pd va vb cond part s
  | .vsel g vd va vb ps inv => Sys2Proof.Machine.execVsel g vd va vb ps inv s
  | .vdiv g fmt vd va vb rm sat => Sys2Proof.Machine.execVdiv g fmt vd va vb rm sat s
  | .vsqrt g fmt vd va rm sat => Sys2Proof.Machine.execVsqrt g fmt vd va rm sat s
  | .vrcp g fmt vd va rm sat => Sys2Proof.Machine.execVrcp g fmt vd va rm sat s
  | .vrsq g fmt vd va rm sat => Sys2Proof.Machine.execVrsq g fmt vd va rm sat s
  | .vexp2 g fmt vd va rm sat => Sys2Proof.Machine.execVexp2 g fmt vd va rm sat s
  | .vlog2 g fmt vd va rm sat => Sys2Proof.Machine.execVlog2 g fmt vd va rm sat s
  | .vcvt g fmt vd va vc rm sat src part => Sys2Proof.Machine.execVcvt g fmt vd va vc rm sat src part s
  | .vscl g fmt vd va vb rm sat byReg ks => Sys2Proof.Machine.execVscl g fmt vd va vb rm sat byReg ks s
  | .vrint g fmt vd va rm => Sys2Proof.Machine.execVrint g fmt vd va rm s
  | .viadd g fmt vd va vb sat => Sys2Proof.Machine.execViadd g fmt vd va vb sat s
  | .visub g fmt vd va vb sat => Sys2Proof.Machine.execVisub g fmt vd va vb sat s
  | .vimul g fmt vd va vb sat => Sys2Proof.Machine.execVimul g fmt vd va vb sat s
  | .vand g vd va vb => Sys2Proof.Machine.execVand g vd va vb s
  | .vor g vd va vb => Sys2Proof.Machine.execVor g vd va vb s
  | .vxor g vd va vb => Sys2Proof.Machine.execVxor g vd va vb s
  | .vshl g fmt vd va vb byImm n => Sys2Proof.Machine.execVshl g fmt vd va vb byImm n s
  | .vshr g fmt vd va vb byImm n => Sys2Proof.Machine.execVshr g fmt vd va vb byImm n s
  | .vsra g fmt vd va vb byImm n => Sys2Proof.Machine.execVsra g fmt vd va vb byImm n s
  | .vimin g fmt vd va vb => Sys2Proof.Machine.execVimin g fmt vd va vb s
  | .vimax g fmt vd va vb => Sys2Proof.Machine.execVimax g fmt vd va vb s
  | .vicmp g fmt pd va vb cond part => Sys2Proof.Machine.execVicmp g fmt pd va vb cond part s
  | .vmov g vd va => Sys2Proof.Machine.execVmov g vd va s
  | .vbcst g vd va n => Sys2Proof.Machine.execVbcst g vd va n s
  | .vlane g vd va n => Sys2Proof.Machine.execVlane g vd va n s
  | .vget g vd va vb => Sys2Proof.Machine.execVget g vd va vb s
  | .viota g vd base => Sys2Proof.Machine.execViota g vd base s
  | .vshuf g vd va vb vc => Sys2Proof.Machine.execVshuf g vd va vb vc s
  | .vxcl g vd va k => Sys2Proof.Machine.execVxcl g vd va k s
  | .vreda g fmt vd va rm sat => Sys2Proof.Machine.execVreda g fmt vd va rm sat s
  | .vredx g fmt vd va => Sys2Proof.Machine.execVredx g fmt vd va s
  | .vpack g fmt vd va vb part => Sys2Proof.Machine.execVpack g fmt vd va vb part s
  | .vunpk g fmt vd va part zx => Sys2Proof.Machine.execVunpk g fmt vd va part zx s
  | .vpcnt g vd va => Sys2Proof.Machine.execVpcnt g vd va s
  | .vplog g pd pa pb table => Sys2Proof.Machine.execVplog g pd pa pb table s
  | .mnop => Sys2Proof.Machine.execMnop s
  | .mcall idx => Sys2Proof.Machine.execMcall idx s
  | .mpset n xa => Sys2Proof.Machine.execMpset n xa s
  | .mfeed n => Sys2Proof.Machine.execMfeed n s
  | .moset n xa inc => Sys2Proof.Machine.execMoset n xa inc s
  | .mdrain vd tile pair clr => Sys2Proof.Machine.execMdrain vd tile pair clr s
  | .mzero first cnt => Sys2Proof.Machine.execMzero first cnt s
  | .mbook idx xa => Sys2Proof.Machine.execMbook idx xa s
  | .knop => Sys2Proof.Machine.execKnop s
  | .kld ks mp j => Sys2Proof.Machine.execKld ks mp j s
  | .kset ks mp j => Sys2Proof.Machine.execKset ks mp j s
  | .kmov ks ka => Sys2Proof.Machine.execKmov ks ka s
  | .dnop => Sys2Proof.Machine.execDnop s
  | .vldS vd xa imm => Sys2Proof.Machine.execVldS vd xa imm s
  | .vstS vs xa imm => Sys2Proof.Machine.execVstS vs xa imm s
  | .vldG vd xa ln arr => Sys2Proof.Machine.execVldG vd xa ln arr s
  | .vstG vs xa imm => Sys2Proof.Machine.execVstG vs xa imm s
  | .vldb vd xa imm => Sys2Proof.Machine.execVldb vd xa imm s
  | .vgth vd xa ln arr => Sys2Proof.Machine.execVgth vd xa ln arr s
  | .vsct vs xa vi => Sys2Proof.Machine.execVsct vs xa vi s
  | .hpop vd h k => Sys2Proof.Machine.execHpop vd h k s
  | .hpush vs h k => Sys2Proof.Machine.execHpush vs h k s
  | .hadvr h n => Sys2Proof.Machine.execHadvr h n s
  | .hadvw h n => Sys2Proof.Machine.execHadvw h n s
  | .hset xa h lg => Sys2Proof.Machine.execHset xa h lg s
  | .pref n xa imm => Sys2Proof.Machine.execPref n xa imm s
  | .enop => Sys2Proof.Machine.execEnop s
  | .modp ord scope pol ac => Sys2Proof.Machine.execModp ord scope pol ac s
  | .cseq xa => Sys2Proof.Machine.execCseq xa s
  | .job xa q => Sys2Proof.Machine.execJob xa q s
  | .taddv vs xa fmt imm => Sys2Proof.Machine.execTaddv vs xa fmt imm s
  | .tmaxv vs xa fmt imm => Sys2Proof.Machine.execTmaxv vs xa fmt imm s
  | .tmulv vs xa fmt imm => Sys2Proof.Machine.execTmulv vs xa fmt imm s
  | .texpsv vs xa fmt imm => Sys2Proof.Machine.execTexpsv vs xa fmt imm s
  | .tscal xb xa fmt n => Sys2Proof.Machine.execTscal xb xa fmt n s
  | .tfill xb xa fmt n => Sys2Proof.Machine.execTfill xb xa fmt n s
  | .tsumr xb xa fmt n => Sys2Proof.Machine.execTsumr xb xa fmt n s
  | .tmaxr xb xa fmt n => Sys2Proof.Machine.execTmaxr xb xa fmt n s
  | .texpn xb xa fmt n => Sys2Proof.Machine.execTexpn xb xa fmt n s
  | .tfaa xd xa ln arr => Sys2Proof.Machine.execTfaa xd xa ln arr s
  | .tfaab xd xa ln arr => Sys2Proof.Machine.execTfaab xd xa ln arr s
  | .tincw xd xa ln arr => Sys2Proof.Machine.execTincw xd xa ln arr s
  | .tdecw xd xa ln arr => Sys2Proof.Machine.execTdecw xd xa ln arr s
  | .tcas xd xa ln arr => Sys2Proof.Machine.execTcas xd xa ln arr s
  | .txchg xd xa ln arr => Sys2Proof.Machine.execTxchg xd xa ln arr s
  | .tfence remote bsel imm => Sys2Proof.Machine.execTfence remote bsel imm s
  | .sku vs xa op sen sem => Sys2Proof.Machine.execSku vs xa op sen sem s
  | .skr xb xa xc sen sem => Sys2Proof.Machine.execSkr xb xa xc sen sem s
  | .wldRel xa xb lfmt mode off => Sys2Proof.Machine.execWldRel xa xb lfmt mode off s
  | .wldAbs xa xb lfmt mode xq => Sys2Proof.Machine.execWldAbs xa xb lfmt mode xq s
  | .stepc xa xb xc sen sem => Sys2Proof.Machine.execStepc xa xb xc sen sem s
  | .lwm xa xb id drop => Sys2Proof.Machine.execLwm xa xb id drop s
  | .stepq xa xb sen sem => Sys2Proof.Machine.execStepq xa xb sen sem s
  | .coatw xa xb xc sen sem => Sys2Proof.Machine.execCoatw xa xb xc sen sem s
  | .ttload xa xb xc sen sem => Sys2Proof.Machine.execTtload xa xb xc sen sem s
  | .ttgo xa xb xc sen sem => Sys2Proof.Machine.execTtgo xa xb xc sen sem s
  | .ttstop xb xc sen sem => Sys2Proof.Machine.execTtstop xb xc sen sem s
  | .chpwr xb xc sen sem => Sys2Proof.Machine.execChpwr xb xc sen sem s
  | .send xa xb xc sen sem => Sys2Proof.Machine.execSend xa xb xc sen sem s
  | .bankmode bank mode sen sem => Sys2Proof.Machine.execBankmode bank mode sen sem s
  | .bundleIssue core => Sys2Proof.Machine.execBundleIssue core s
  | .blockClear core ctx => Sys2Proof.Machine.execBlockClear core ctx s
  | .runLimit core => Sys2Proof.Machine.execRunLimit core s
  | .resultLanding core ctx => Sys2Proof.Machine.execResultLanding core ctx s
  | .landing core ctx => Sys2Proof.Machine.execLanding core ctx s
  | .lateDataReturn core => Sys2Proof.Machine.execLateDataReturn core s
  | .bundleRetire core ctx => Sys2Proof.Machine.execBundleRetire core ctx s
  | .stencilWord idx patch => Sys2Proof.Machine.execStencilWord idx patch s
  | .contextSaved core ctx => Sys2Proof.Machine.execContextSaved core ctx s
  | .killDrainComplete core ctx => Sys2Proof.Machine.execKillDrainComplete core ctx s
  | .endDrainComplete core ctx => Sys2Proof.Machine.execEndDrainComplete core ctx s
  | .messageDelivery core bank => Sys2Proof.Machine.execMessageDelivery core bank s
  | .dispatchRound die => Sys2Proof.Machine.execDispatchRound die s
  | .groupStart handle => Sys2Proof.Machine.execGroupStart handle s
  | .bankHandover core bank => Sys2Proof.Machine.execBankHandover core bank s
  | .launchDecision die => Sys2Proof.Machine.execLaunchDecision die s
  | .launchComplete handle => Sys2Proof.Machine.execLaunchComplete handle s
  | .matrixSlotTurn => Sys2Proof.Machine.execMatrixSlotTurn s
  | .matrixChunk core => Sys2Proof.Machine.execMatrixChunk core s
  | .matrixItemComplete core => Sys2Proof.Machine.execMatrixItemComplete core s
  | .cardStart core => Sys2Proof.Machine.execCardStart core s
  | .copyComplete core card q => Sys2Proof.Machine.execCopyComplete core card q s
  | .cardComplete core card => Sys2Proof.Machine.execCardComplete core card s
  | .trowelCommandStart core bank => Sys2Proof.Machine.execTrowelCommandStart core bank s
  | .trowelCommandPerform core bank => Sys2Proof.Machine.execTrowelCommandPerform core bank s
  | .barrierArrival core bank => Sys2Proof.Machine.execBarrierArrival core bank s
  | .bankAccess core bank => Sys2Proof.Machine.execBankAccess core bank s
  | .bankmodeSwitchComplete core bank => Sys2Proof.Machine.execBankmodeSwitchComplete core bank s
  | .skimAdmission region slice => Sys2Proof.Machine.execSkimAdmission region slice s
  | .coatStart region slice => Sys2Proof.Machine.execCoatStart region slice s
  | .skimRowVisit region slice => Sys2Proof.Machine.execSkimRowVisit region slice s
  | .groupVisit region slice => Sys2Proof.Machine.execGroupVisit region slice s
  | .coatComplete region slice => Sys2Proof.Machine.execCoatComplete region slice s
  | .commitFail region => Sys2Proof.Machine.execCommitFail region s
  | .waitTimeout region slice => Sys2Proof.Machine.execWaitTimeout region slice s
  | .regionRemoved region => Sys2Proof.Machine.execRegionRemoved region s
  | .timetableEntry chan => Sys2Proof.Machine.execTimetableEntry chan s
  | .dramAccess chan pc => Sys2Proof.Machine.execDramAccess chan pc s
  | .spareCopyComplete chan bank row => Sys2Proof.Machine.execSpareCopyComplete chan bank row s
  | .nbVisit chan => Sys2Proof.Machine.execNbVisit chan s
  | .timetableStage chan => Sys2Proof.Machine.execTimetableStage chan s
  | .tableReplacement chan => Sys2Proof.Machine.execTableReplacement chan s
  | .defaultTableSwitch chan => Sys2Proof.Machine.execDefaultTableSwitch chan s
  | .channelPowerDown chan => Sys2Proof.Machine.execChannelPowerDown chan s
  | .channelWake chan => Sys2Proof.Machine.execChannelWake chan s
  | .alignmentFlit link => Sys2Proof.Machine.execAlignmentFlit link s
  | .sendDelivery msg => Sys2Proof.Machine.execSendDelivery msg s
  | .sendTimeout msg => Sys2Proof.Machine.execSendTimeout msg s
  | .hashBoundary => Sys2Proof.Machine.execHashBoundary s
  | .traceSample core => Sys2Proof.Machine.execTraceSample core s
  | .hashTreeFormed => Sys2Proof.Machine.execHashTreeFormed s
  | .checkpointWriteComplete id => Sys2Proof.Machine.execCheckpointWriteComplete id s
  | .preemptRequest core ctx area => Sys2Proof.Machine.execPreemptRequest core ctx area s
  | .contextRestore core src dst pc => Sys2Proof.Machine.execContextRestore core src dst pc s
  | .killRequest core ctx => Sys2Proof.Machine.execKillRequest core ctx s
  | .hostAtomic tag va op wide a b => Sys2Proof.Machine.execHostAtomic tag va op wide a b s
  | .hostRead tag va len => Sys2Proof.Machine.execHostRead tag va len s
  | .hostWrite tag va bytes => Sys2Proof.Machine.execHostWrite tag va bytes s
  | .linkEnable link => Sys2Proof.Machine.execLinkEnable link s
  | .lanesTrained link => Sys2Proof.Machine.execLanesTrained link s
  | .trainingFail link => Sys2Proof.Machine.execTrainingFail link s
  | .negotiationDone link peer => Sys2Proof.Machine.execNegotiationDone link peer s
  | .linkDegrade link lanes => Sys2Proof.Machine.execLinkDegrade link lanes s
  | .linkRestore link => Sys2Proof.Machine.execLinkRestore link s
  | .linkDisable link => Sys2Proof.Machine.execLinkDisable link s
  | .flitReceive link flit => Sys2Proof.Machine.execFlitReceive link flit s
  | .ueConnectionSetup port conn peer => Sys2Proof.Machine.execUeConnectionSetup port conn peer s
  | .uePacket port conn mode => Sys2Proof.Machine.execUePacket port conn mode s
  | .kload hdr image => Sys2Proof.Machine.execKload hdr image s
  | .kretire hdr handle => Sys2Proof.Machine.execKretire hdr handle s
  | .hostLaunch hdr desc => Sys2Proof.Machine.execHostLaunch hdr desc s
  | .hostCancel hdr handle => Sys2Proof.Machine.execHostCancel hdr handle s
  | .kill hdr handle => Sys2Proof.Machine.execKill hdr handle s
  | .qpause hdr => Sys2Proof.Machine.execQpause hdr s
  | .qresume hdr => Sys2Proof.Machine.execQresume hdr s
  | .qdrain hdr => Sys2Proof.Machine.execQdrain hdr s
  | .qreset hdr => Sys2Proof.Machine.execQreset hdr s
  | .qstat hdr => Sys2Proof.Machine.execQstat hdr s
  | .pmap hdr va len flags => Sys2Proof.Machine.execPmap hdr va len flags s
  | .ppin hdr va len => Sys2Proof.Machine.execPpin hdr va len s
  | .punpin hdr va len => Sys2Proof.Machine.execPunpin hdr va len s
  | .punmap hdr va len => Sys2Proof.Machine.execPunmap hdr va len s
  | .pstat hdr va => Sys2Proof.Machine.execPstat hdr va s
  | .rcreate hdr ctl va len masks params => Sys2Proof.Machine.execRcreate hdr ctl va len masks params s
  | .rdestroy hdr region => Sys2Proof.Machine.execRdestroy hdr region s
  | .rstat hdr region => Sys2Proof.Machine.execRstat hdr region s
  | .cpmode hdr pair split => Sys2Proof.Machine.execCpmode hdr pair split s
  | .qdet hdr flag => Sys2Proof.Machine.execQdet hdr flag s
  | .hashcfg hdr cfg => Sys2Proof.Machine.execHashcfg hdr cfg s
  | .hashrd hdr n level index => Sys2Proof.Machine.execHashrd hdr n level index s
  | .trcfg hdr base size period mask => Sys2Proof.Machine.execTrcfg hdr base size period mask s
  | .dbg hdr core arm bps => Sys2Proof.Machine.execDbg hdr core arm bps s
  | .hstat hdr => Sys2Proof.Machine.execHstat hdr s
  | .cksave hdr id base => Sys2Proof.Machine.execCksave hdr id base s
  | .ckrestore hdr id => Sys2Proof.Machine.execCkrestore hdr id s
  | .ckdrop hdr id => Sys2Proof.Machine.execCkdrop hdr id s
  | .fwload hdr image => Sys2Proof.Machine.execFwload hdr image s
  | .attest hdr nonce => Sys2Proof.Machine.execAttest hdr nonce s
  | .plim hdr watts => Sys2Proof.Machine.execPlim hdr watts s
  | .moduleReset => Sys2Proof.Machine.execModuleReset s
  | .dwellEnd warm => Sys2Proof.Machine.execDwellEnd warm s
  | .trainComplete => Sys2Proof.Machine.execTrainComplete s
  | .rampComplete => Sys2Proof.Machine.execRampComplete s
  | .marginLow die dom => Sys2Proof.Machine.execMarginLow die dom s
  | .dieOvertemp die => Sys2Proof.Machine.execDieOvertemp die s
  | .powerLoss => Sys2Proof.Machine.execPowerLoss s
  | .droopFire die dom => Sys2Proof.Machine.execDroopFire die dom s
  | .scrub addr bad => Sys2Proof.Machine.execScrub addr bad s
  | .firmwareReload die pair => Sys2Proof.Machine.execFirmwareReload die pair s
  | .channelTrainingFails => Sys2Proof.Machine.execChannelTrainingFails s
  | .marginRestored die dom => Sys2Proof.Machine.execMarginRestored die dom s
  | .ageingIndicatorLow die unit months => Sys2Proof.Machine.execAgeingIndicatorLow die unit months s
  | .timingSourceDesignation group module => Sys2Proof.Machine.execTimingSourceDesignation group module s

end Sys2Proof.Machine
end

