-- ==== Sys2Proof/Machine/Step.lean ====
section
/-! DEFINITION. The step of the machine: the next instruction of the agenda, or the beginning of the next core cycle. -/
namespace Sys2Proof.Machine

/-- One step: the step at the head of the agenda happens; with an empty agenda, the next core cycle begins.
(Assumption log 2: DESIGN CHOICE.) (Assumption log 6: DEDUCED.) -/
def step (s : State) : Host.Outcome State Fault Refusal :=
  match s.agenda with
  | i :: rest => exec i { s with agenda := rest }
  | [] => .next (nextCycle s)

/-- The state in which an instruction stands where the next step fetches, so that this step runs it.
(Assumption log 4: DESIGN CHOICE.) -/
def State.withFetchWord (s : State) (nbits w : Nat) : State := s.placeWord nbits w

end Sys2Proof.Machine
end

