-- ==== Sys2Proof/Safety.lean ====
section
/-! DEFINITION. What counts as a safe run, and the terms in which claims speak of the issue of one slot instruction. -/
namespace Sys2Proof

/-- The next step of a state answers a next state. -/
def SafeStep (s : Machine.State) : Prop := ∃ t, Machine.step s = .next t

/-- A run of n steps that ends in a state. -/
def Reaches : Nat → Machine.State → Machine.State → Prop
  | 0, s, t => s = t
  | n + 1, s, t => ∃ m, Machine.step s = .next m ∧ Reaches n m t

/-- A state from which every run goes on. -/
def Safe (s : Machine.State) : Prop := ∀ n t, Reaches n s t → SafeStep t

namespace Machine

/-- The canonical form of the maps whose entries steps remove: keys rise strictly.
(Assumption log 90: DESIGN CHOICE.) -/
structure MapsSorted (s : State) : Prop where
  regions : AMap.sortedFrom 0 s.regions = true
  pages : AMap.sortedFrom 0 s.pages = true
  acc : ∀ k, AMap.sortedFrom 0 (s.core k).acc = true

/-! ### The issue of one slot instruction -/

/-- The code line at the program counter of context c of the core in focus. -/
def State.codeLine (s : State) (c : Nat) : Nat :=
  match (s.ctx s.focus c).task with
  | some t => (s.fetchLine t (s.ctx s.focus c).regs.pc).getD (2 ^ 255)
  | none => 2 ^ 255
/-- R83, R90. The line of a bundle that holds a D-slot instruction with a MODP, and nothing else. -/
def modpLine (i m : Instr) : Nat := bundleOfSlot .d (encode i) + encode m * 2 ^ Slot.e.low
/-- What a slot of a bundle with a plain header sees when context c of the core in focus issues it. -/
def State.slotView (s : State) (c : Nat) : View := s.viewAt s.focus c (s.codeLine c) plainHeader none none
/-- R27. Context c of the core in focus may issue a bundle now: it holds the port and nothing holds it back (Core.issuer); its group or frame
start has come (R28); no LATE is due (R43); and with LS = 1 its cluster pairs do not differ (R364). -/
structure MayIssue (s : State) (c : Nat) : Prop where
  cool : s.overheated = false
  issuer : (s.core s.focus).issuer = some c
  notLate : (s.ctx s.focus c).late = none
  started : (s.slotView c).beforeStart = false
  paired : (s.ctx s.focus c).lockstep = false ∨ Config.upset (s.free + 8) = 0
/-- R196, R350. Nothing holds the bundle's retire back: it retires as it issues. -/
def State.retiresAtOnce (s : State) (c : Nat) (o : SlotOut) : Bool :=
  (s.ctx s.focus c).inflight.isEmpty && o.conds.isEmpty
    && (!(o.eff.any Effect.ordered) || (s.ctx s.focus c).loadsBound (s.ctx s.focus c).nextBid)
/-- R39. The registers that the bundle finds: those of the context, with the frame origin that the first bundle of a task sets. -/
def State.issueRegs (s : State) (c : Nat) : Regs := ((s.startTask s.focus c).ctx s.focus c).regs
/-- R196, R245. What is withheld until the bundle retires, if something holds it back. -/
def State.withheld (s : State) (c : Nat) (o : SlotOut) : Issued :=
  { bid := (s.ctx s.focus c).nextBid, addr := (s.slotView c).addr, next := (s.slotView c).next, snap := s.issueRegs c, eff := o.eff,
    conds := o.conds, fault := none, takes := o.takes }
/-- R27, R32, R81, R196, R222, R249. The registers and bookkeeping of the issuing context after the issue of a slot's bundle. -/
def State.issuedCtx (s : State) (c : Nat) (slot : Slot) (o : SlotOut) : Ctx :=
  let x := (s.startTask s.focus c).ctx s.focus c
  let r := o.regs { x.regs with startAt := none, resumePos := none }
  { x.take o.takes with
    regs := match o.target with | some p => { r with pc := p } | none => advance r (s.slotView c).addr (s.slotView c).next
    pend := x.pend ++ slotPends (s.slotView c) (s.ctx s.focus c).nextBid (slot, o)
    nextBid := (s.ctx s.focus c).nextBid + 1
    issueAt := (s.core s.focus).cycle + 1 + o.idle
    lastIssue := (s.core s.focus).cycle + 1
    target := none
    retired := if s.retiresAtOnce c o then x.retired + 1 else x.retired
    inflight := if s.retiresAtOnce c o then x.inflight else x.inflight ++ [s.withheld c o] }
/-- The state after the issue, before anything outside the issuing context: that context alone has changed (and a group that starts RUNNING). -/
structure IssuedQuiet (s u : State) (c : Nat) (slot : Slot) (o : SlotOut) : Prop where
  ctx : u.ctx s.focus c = s.issuedCtx c slot o
  otherCtxs : ∀ n, ctxNo n ≠ ctxNo c → u.ctx s.focus n = s.ctx s.focus n
  core : u.core s.focus = { s.core s.focus with ctxs := (u.core s.focus).ctxs }
  otherCores : ∀ k, k ≠ s.focus → u.core k = s.core k
  launches : u.launches = (s.startTask s.focus c).launches
  rest : u = { s with cores := u.cores, launches := u.launches, free := s.free + 16 }
  bytes : ∀ a, Memory.get u.mem a = Memory.get s.mem a
/-- What follows outside the context: its change of the state, the addresses of its global stores looked up (R276), its loads on their way, and its
effects if it retires at once. -/
def State.finishSlot (s u : State) (c : Nat) (slot : Slot) (o : SlotOut) : State :=
  let u := o.state u (s.ctx s.focus c).nextBid
  let u := o.eff.foldl (fun u e => u.lookUp s.focus e) u
  let u := sendLoads (s.slotView c) (s.ctx s.focus c).nextBid u (o.loads.map fun l => (slot, l))
  if s.retiresAtOnce c o then u.applyEffects s.focus c (s.slotView c).addr o.eff else u
/-- The issue of an instruction by context c answers a next state, and o is all that the instruction does. -/
def IssuesAs (i : Instr) (s : State) (c : Nat) (slot : Slot) (o : SlotOut) : Prop :=
  ∃ u, IssuedQuiet s u c slot o ∧ exec i s = .next (s.finishSlot u c slot o)

/-- The registers of context c of the core in focus. -/
def State.regsOf (s : State) (c : Nat) : Regs := (s.ctx s.focus c).regs
/-- R97. The scalar register i that the bundle reads. -/
def State.xr (s : State) (c : Nat) (i : Fin 32) : Word64 := (s.regsOf c).rx i

/-- Lane j of vector register i that the bundle reads (R113). -/
def State.lane (s : State) (c : Nat) (i : Fin 32) (j : Nat) : Word32 := ((s.regsOf c).rv i)[j]?.getD 0
/-- Bit j of vector predicate i that the bundle reads. -/
def State.lanePred (s : State) (c : Nat) (i : Fin 8) (j : Nat) : Bool := ((s.regsOf c).rvp i)[j]?.getD false
/-- R114. The lanes that a guard lets a V-slot instruction write. -/
def State.lanesOn (s : State) (c : Nat) (g : Guard) : VPred := (s.slotView c).mask g
/-- R32, R114. The instruction issues, and its one result is pending for lat cycles: the masked lanes of a vector register, each written with
f of the lane from which it takes its work. -/
def WritesLanes (i : Instr) (s : State) (c lat : Nat) (g : Guard) (vd : Fin 32) (f : Nat → Word32) : Prop :=
  IssuesAs i s c .v
    { res := [(lat, .v vd (s.lanesOn c g) (Vector.ofFn fun j : Fin 128 => f (srcLane (s.ctx s.focus c).lockstep j.val)))], arrive := .landing }
/-- The same for the bits of a vector predicate. -/
def WritesPreds (i : Instr) (s : State) (c lat : Nat) (g : Guard) (pd : Fin 8) (f : Nat → Bool) : Prop :=
  IssuesAs i s c .v
    { res := [(lat, .vp pd (s.lanesOn c g) (Vector.ofFn fun j : Fin 128 => f (srcLane (s.ctx s.focus c).lockstep j.val)))], arrive := .landing }

/-- R196 to R200. The instruction's bundle takes a trap; it is entered once every earlier bundle has retired (View.trapNow). -/
def TrapsAs (i : Instr) (s : State) (c : Nat) (t : Trap) : Prop := exec i s = .next ((s.slotView c).trapNow t)
/-- R28, R44. A bundle of no stamp is held up at issue: its context blocks, and a position at which it resumes has been reached. -/
def State.heldUp (s : State) (c : Nat) : State :=
  (s.modCtx s.focus c fun x => { x with regs := { x.regs with resumePos := none } }).blockCtx s.focus c
/-- R28. The instruction's bundle waits: its context blocks. -/
def BlocksAs (i : Instr) (s : State) (c : Nat) : Prop := exec i s = .next (s.heldUp c)

end Machine
end Sys2Proof
end

