-- ==== Sys2Proof/Certificates/Slice0/Obligations.lean ====
section
/-! DEFINITION. The statements for the provers. Each docstring names the rules of the spec that it formalises, and the assumption log
entries on which it rests where it rests on the model's own choice. -/
open Sys2Proof Sys2Proof.Machine

/-! ### Scalar slots (spec/06) -/

/-- R98, R102, R104, R32. The register operations of slots A and B issue; their one result is pending for the operation's latency, computed from
the registers as they are at issue.
R98. Their encoding in form AB-R: the opcode in bits [27:22], xd, xa and xb below it, and func zero in bits [6:0]; another func is refused. -/
def Obligations.ScalarOperations : Prop :=
  (∀ p ∈ [(0x01, Instr.add), (0x02, .sub), (0x03, .and), (0x04, .or), (0x05, .xor), (0x06, .shl), (0x07, .shr), (0x08, .sra), (0x09, .mul),
      (0x0A, .mulh), (0x0B, .mulhn), (0x0C, .min), (0x0D, .max), (0x0E, .minn), (0x0F, .maxn)],
    ∀ (sl : Lane2) (xd xa xb : Fin 32) (func : Fin 128),
      decodeSlot (laneSlot sl) (p.1 * 2 ^ 22 + xd.val * 2 ^ 17 + xa.val * 2 ^ 12 + xb.val * 2 ^ 7 + func.val)
        = if func = 0 then .ok (p.2 sl xd xa xb) else .error .resField)
  ∧ ∀ (s : State) (c : Nat), MayIssue s c → ∀ (sl : Lane2) (xd xa xb : Fin 32) (ps : Fin 8) (inv : Bool),
    let a := s.xr c xa
    let b := s.xr c xb
    let writes (i : Instr) (lat : Nat) (v : Word64) : Prop := IssuesAs i s c (laneSlot sl) { res := [(lat, .x xd v)] }
    writes (.add sl xd xa xb) 1 (a + b) ∧ writes (.sub sl xd xa xb) 1 (a - b)
    ∧ writes (.and sl xd xa xb) 1 (a &&& b) ∧ writes (.or sl xd xa xb) 1 (a ||| b) ∧ writes (.xor sl xd xa xb) 1 (a ^^^ b)
    ∧ writes (.shl sl xd xa xb) 1 (if 64 ≤ b.toNat then 0 else a <<< b.toNat)
    ∧ writes (.shr sl xd xa xb) 1 (if 64 ≤ b.toNat then 0 else a >>> b.toNat)
    ∧ writes (.sra sl xd xa xb) 1 (if 64 ≤ b.toNat then (if a.toInt < 0 then -1 else 0) else a.sshiftRight b.toNat)
    ∧ writes (.mul sl xd xa xb) 3 (a * b)
    ∧ writes (.mulh sl xd xa xb) 3 (BitVec.ofInt 64 (a.toInt * b.toInt / 2 ^ 64))
    ∧ writes (.mulhn sl xd xa xb) 3 (BitVec.ofNat 64 (a.toNat * b.toNat / 2 ^ 64))
    ∧ writes (.min sl xd xa xb) 1 (if a.toInt ≤ b.toInt then a else b) ∧ writes (.max sl xd xa xb) 1 (if b.toInt ≤ a.toInt then a else b)
    ∧ writes (.minn sl xd xa xb) 1 (if a.toNat ≤ b.toNat then a else b) ∧ writes (.maxn sl xd xa xb) 1 (if b.toNat ≤ a.toNat then a else b)
    ∧ writes (.sel sl xd xa xb ps inv) 1 (if ((s.regsOf c).rp ps = true ∧ inv = false) ∨ ((s.regsOf c).rp ps = false ∧ inv = true) then a else b)
    ∧ writes (.clz sl xd xa) 1 (clz64 a) ∧ writes (.popc sl xd xa) 1 (popc64 a)

/-- R102. CLZ writes the count of zeros above the highest one bit, and 64 for zero; POPC writes the count of one bits. They are encoded in form AB-R
with opcodes 0x12 and 0x13, and other than zero in xb and func is refused.
R99, R32. DIV and REM by their cases: a divisor of zero, the one overflow, and otherwise the quotient truncated toward zero with the
remainder that goes with it; the result lands 20 cycles after issue and nothing traps. -/
def Obligations.ScalarCountsAndDivision : Prop :=
  (clz64 0 = 64 ∧ popc64 0 = 0
   ∧ (∀ a : Word64, a ≠ 0 → (clz64 a).toNat < 64 ∧ a.getLsbD (63 - (clz64 a).toNat) = true
       ∧ ∀ i, 63 - (clz64 a).toNat < i → a.getLsbD i = false)
   ∧ (∀ (a : Word64) (i : Nat), i < 64 → a.getLsbD i = false → (popc64 (a ||| (1#64 <<< i))).toNat = (popc64 a).toNat + 1))
  ∧ (∀ (sl : Lane2) (xd xa xb : Fin 32) (func : Fin 128),
      let word (op : Nat) : Nat := op * 2 ^ 22 + xd.val * 2 ^ 17 + xa.val * 2 ^ 12 + xb.val * 2 ^ 7 + func.val
      decodeSlot (laneSlot sl) (word 0x12) = (if xb = 0 ∧ func = 0 then .ok (.clz sl xd xa) else .error .resField)
      ∧ decodeSlot (laneSlot sl) (word 0x13) = (if xb = 0 ∧ func = 0 then .ok (.popc sl xd xa) else .error .resField))
  ∧ (∀ (s : State) (c : Nat), MayIssue s c → ∀ (sl : Lane2) (xd xa xb : Fin 32),
         IssuesAs (.clz sl xd xa) s c (laneSlot sl) { res := [(1, .x xd (clz64 (s.xr c xa)))] }
         ∧ IssuesAs (.popc sl xd xa) s c (laneSlot sl) { res := [(1, .x xd (popc64 (s.xr c xa)))] }
         ∧ ∃ q r : Word64,
           IssuesAs (.div sl xd xa xb) s c (laneSlot sl) { res := [(20, .x xd q)] }
           ∧ IssuesAs (.rem sl xd xa xb) s c (laneSlot sl) { res := [(20, .x xd r)] }
           ∧ (s.xr c xb = 0 → q = BitVec.allOnes 64 ∧ r = s.xr c xa)
           ∧ ((s.xr c xa).toInt = -2 ^ 63 → (s.xr c xb).toInt = -1 → q = s.xr c xa ∧ r = 0)
           ∧ (s.xr c xb ≠ 0 → ¬ ((s.xr c xa).toInt = -2 ^ 63 ∧ (s.xr c xb).toInt = -1) →
               q.toInt = Int.tdiv (s.xr c xa).toInt (s.xr c xb).toInt ∧ r.toInt = Int.tmod (s.xr c xa).toInt (s.xr c xb).toInt))

/-- R100, R101, R32. The immediate operations: a 12-bit immediate is sign-extended, a shift count is 0 to 63, LUI places its signed 17 bits
at bit 12. -/
def Obligations.ScalarImmediates : Prop :=
  ∀ (s : State) (c : Nat), MayIssue s c → ∀ (sl : Lane2) (xd xa : Fin 32) (imm : BitVec 12) (n : Fin 64) (up : BitVec 17),
    let a := s.xr c xa
    let writes (i : Instr) (v : Word64) : Prop := IssuesAs i s c (laneSlot sl) { res := [(1, .x xd v)] }
    writes (.addi sl xd xa imm) (a + imm.signExtend 64) ∧ writes (.andi sl xd xa imm) (a &&& imm.signExtend 64)
    ∧ writes (.ori sl xd xa imm) (a ||| imm.signExtend 64) ∧ writes (.xori sl xd xa imm) (a ^^^ imm.signExtend 64)
    ∧ writes (.shli sl xd xa n) (a <<< n.val) ∧ writes (.shri sl xd xa n) (a >>> n.val) ∧ writes (.srai sl xd xa n) (a.sshiftRight n.val)
    ∧ writes (.lui sl xd up) (BitVec.ofInt 64 (up.toInt * 4096))

/-- R103, R105, R32. The comparisons write a predicate one cycle after issue: CMP and CMPI by the condition code (EQ 0, NE 1, LT 2, GE 3,
LTN 4, GEN 5), PLOG the table's bit that the two predicates select. -/
def Obligations.ScalarComparisons : Prop :=
  ∀ (s : State) (c : Nat), MayIssue s c → ∀ (sl : Lane2) (pd pa pb : Fin 8) (xa xb : Fin 32) (imm : BitVec 9) (table : BitVec 4),
    let writes (i : Instr) (v : Bool) : Prop := IssuesAs i s c (laneSlot sl) { res := [(1, .p pd v)] }
    let rows (i : Fin 8 → Instr) (a b : Word64) : Prop :=
      writes (i 0) (decide (a = b)) ∧ writes (i 1) (decide (a ≠ b)) ∧ writes (i 2) (decide (a.toInt < b.toInt))
      ∧ writes (i 3) (decide (b.toInt ≤ a.toInt)) ∧ writes (i 4) (decide (a.toNat < b.toNat)) ∧ writes (i 5) (decide (b.toNat ≤ a.toNat))
    rows (fun k => .cmp sl pd xa xb k) (s.xr c xa) (s.xr c xb)
    ∧ rows (fun k => .cmpi sl pd xa k imm) (s.xr c xa) (imm.signExtend 64)
    ∧ writes (.plog sl pd pa pb table) (table.getLsbD (2 * ((s.regsOf c).rp pa).toNat + ((s.regsOf c).rp pb).toNat))

/-! ### Vector slot (spec/07) -/

/-- R112, R113, R114. The lanes that a V-slot instruction writes: lane L of cluster c is written when CLM bit c is 1 and bit L of the named
predicate differs from the negate bit; vp0 reads as all ones; with LS = 1 an odd cluster follows its even partner, and the result it takes is
its partner's. -/
def Obligations.LaneMask : Prop :=
  ∀ (s : State) (c : Nat) (g : Guard),
    (∀ j : Fin 128, (s.ctx s.focus c).lockstep = false →
      ((s.lanesOn c g)[j] = true ↔ (s.regsOf c).clm.getLsbD (j.val / 16) = true ∧ s.lanePred c g.p j.val ≠ g.neg))
    ∧ (∀ j : Fin 128, (s.ctx s.focus c).lockstep = true →
      ((s.lanesOn c g)[j] = true ↔ (s.regsOf c).clm.getLsbD (j.val / 32 * 2) = true ∧ s.lanePred c g.p (j.val / 32 * 32 + j.val % 16) ≠ g.neg)
      ∧ srcLane true j.val = j.val / 32 * 32 + j.val % 16)
    ∧ (∀ j : Fin 128, srcLane false j.val = j.val ∧ s.lanePred c 0 j.val = true)

/-- R116, R119, R50. Arithmetic on each element of a lane: one exact value, rounded once in the slot's mode; VMIN, VMAX, VABS and VNEG do not
round. -/
def Obligations.VectorArithmetic : Prop :=
  ∀ (s : State) (c : Nat), MayIssue s c → isWorker s.focus = true → ∀ (g : Guard) (fmt : Fin 8) (vd va vb vc : Fin 32) (rm : Fin 4) (sat : Bool),
    let m := rmode rm.val
    let a (j i : Nat) : FVal := decodeNum fmt.val (element fmt.val (s.lane c va j) i)
    let b (j i : Nat) : FVal := decodeNum fmt.val (element fmt.val (s.lane c vb j) i)
    let d (j i : Nat) : FVal := decodeNum fmt.val (element fmt.val (s.lane c vc j) i)
    let each (i : Instr) (lat : Nat) (f : Nat → Nat → Nat) : Prop := WritesLanes i s c lat g vd fun j => mapElements fmt.val (f j)
    each (.vadd g fmt vd va vb rm sat) 4 (fun j i => encodeNum fmt.val m sat (.add m (a j i) (b j i)))
    ∧ each (.vsub g fmt vd va vb rm sat) 4 (fun j i => encodeNum fmt.val m sat (.add m (a j i) (b j i).negate))
    ∧ each (.vmul g fmt vd va vb rm sat) 4 (fun j i => encodeNum fmt.val m sat (.mul (a j i) (b j i)))
    ∧ each (.vfma g fmt vd va vb vc rm sat) 4 (fun j i => encodeNum fmt.val m sat (.add m (.mul (a j i) (b j i)) (d j i)))
    ∧ each (.vfms g fmt vd va vb vc rm sat) 4 (fun j i => encodeNum fmt.val m sat (.add m (.mul (a j i) (b j i)) (d j i).negate))
    ∧ each (.vfnma g fmt vd va vb vc rm sat) 4 (fun j i => encodeNum fmt.val m sat (.add m (.mul (a j i).negate (b j i)) (d j i)))
    ∧ each (.vmin g fmt vd va vb) 2 (fun j i => encodeNum fmt.val .rn false ((a j i).minimum (b j i)))
    ∧ each (.vmax g fmt vd va vb) 2 (fun j i => encodeNum fmt.val .rn false ((a j i).maximum (b j i)))
    ∧ each (.vabs g fmt vd va) 2 (fun j i => encodeNum fmt.val .rn false (a j i).abs)
    ∧ each (.vneg g fmt vd va) 2 (fun j i => encodeNum fmt.val .rn false (a j i).negate)

/-- R116, R119, R62, R120, R124. The functions rounded once (a quotient or function value is held to more bits than any format, with a mark that
something smaller is left), the rounding to an integral value, and the scale by an E8M0 code from a scale register or from vb. -/
def Obligations.VectorFunctions : Prop :=
  ∀ (s : State) (c : Nat), MayIssue s c → isWorker s.focus = true → ∀ (g : Guard) (fmt : Fin 8) (vd va vb : Fin 32) (rm : Fin 4) (sat : Bool) (ks : Fin 8),
    let m := rmode rm.val
    let a (j i : Nat) : FVal := decodeNum fmt.val (element fmt.val (s.lane c va j) i)
    let b (j i : Nat) : FVal := decodeNum fmt.val (element fmt.val (s.lane c vb j) i)
    let round (r : FVal × Bool) : Nat := encodeNum fmt.val m sat r.1 r.2
    let each (i : Instr) (lat : Nat) (f : Nat → Nat → Nat) : Prop := WritesLanes i s c lat g vd fun j => mapElements fmt.val (f j)
    each (.vdiv g fmt vd va vb rm sat) 14 (fun j i => round ((a j i).div (b j i)))
    ∧ each (.vsqrt g fmt vd va rm sat) 14 (fun j i => round (a j i).sqrt)
    ∧ each (.vrcp g fmt vd va rm sat) 8 (fun j i => round ((FVal.fin false 1 0).div (a j i)))
    ∧ each (.vrsq g fmt vd va rm sat) 8 (fun j i => round (a j i).rsqrt)
    ∧ each (.vexp2 g fmt vd va rm sat) 8 (fun j i => round (a j i).exp2)
    ∧ each (.vlog2 g fmt vd va rm sat) 8 (fun j i => round (a j i).log2)
    ∧ each (.vrint g fmt vd va rm) 4 (fun j i => encodeNum fmt.val .rn false ((a j i).rint m))
    ∧ each (.vscl g fmt vd va vb rm sat true ks) 4 (fun j i => encodeNum fmt.val m sat ((a j i).scale ((s.lane c vb j).toNat % 256)))
    ∧ each (.vscl g fmt vd va vb rm sat false ks) 4
        (fun j i => encodeNum fmt.val m sat ((a j i).scale (((s.regsOf c).ks[ks])[j]?.getD 0).toNat))
    ∧ (∀ x : FVal, x.scale 0xFF = .nan) ∧ (∀ (neg : Bool) (mag : Nat) (e : Int) (code : Nat), code ≠ 0xFF →
        (FVal.fin neg mag e).scale code = .fin neg mag (e + code - 127))

/-- R121, R122, R123, R128, R133. Comparisons write predicate bits from element `part`; VSEL copies lanes; VCVT converts each element from the
source format and, when narrowing, keeps the other elements of vc; VPLOG looks the bits up. -/
def Obligations.VectorSelection : Prop :=
  ∀ (s : State) (c : Nat), MayIssue s c → isWorker s.focus = true → ∀ (g : Guard) (fmt src pd pa pb cond ps : Fin 8) (vd va vb vc : Fin 32) (rm part : Fin 4)
    (sat high inv : Bool) (table : BitVec 4),
    let a (j : Nat) : Nat := element fmt.val (s.lane c va j) high.toNat
    let b (j : Nat) : Nat := element fmt.val (s.lane c vb j) high.toNat
    WritesPreds (.vcmp g fmt pd va vb cond high) s c 2 g pd (fun j => condFloat cond.val (decodeNum fmt.val (a j)) (decodeNum fmt.val (b j)))
    ∧ WritesPreds (.vicmp g fmt pd va vb cond high) s c 2 g pd (fun j => condLane cond.val (intOf fmt.val (a j)) (intOf fmt.val (b j)))
    ∧ WritesLanes (.vsel g vd va vb ps inv) s c 2 g vd
        (fun j => if (s.lanePred c ps j = true ∧ inv = false) ∨ (s.lanePred c ps j = false ∧ inv = true) then s.lane c va j else s.lane c vb j)
    ∧ WritesPreds (.vplog g pd pa pb table) s c 1 g pd
        (fun j => table.getLsbD (2 * (s.lanePred c pa j).toNat + (s.lanePred c pb j).toNat))
    ∧ WritesLanes (.vcvt g fmt vd va vc rm sat src part) s c 4 g vd (fun j =>
        let ns := lanesOf src.val
        let nd := lanesOf fmt.val
        let conv (i : Nat) : Nat := convert src.val fmt.val (rmode rm.val) sat (element src.val (s.lane c va j) i)
        mapElements fmt.val fun i =>
          if ns = nd then conv i
          else if ns < nd then (if part.val * ns ≤ i ∧ i < part.val * ns + ns then conv (i - part.val * ns) else element fmt.val (s.lane c vc j) i)
          else conv (part.val * nd + i))

/-- R125, R126, R127, R128. The integer operations on each element: an exact result wrapped or saturated, bitwise operations, shifts by an
immediate or by vb's element (a count of the width or more leaves zeros or copies of the top bit), minimum and maximum, and the count of ones. -/
def Obligations.VectorIntegers : Prop :=
  ∀ (s : State) (c : Nat), MayIssue s c → isWorker s.focus = true → ∀ (g : Guard) (fmt : Fin 8) (vd va vb : Fin 32) (sat byImm : Bool) (n : Fin 64),
    let w := fmtBits fmt.val
    let a (j i : Nat) : Nat := element fmt.val (s.lane c va j) i
    let b (j i : Nat) : Nat := element fmt.val (s.lane c vb j) i
    let x (j i : Nat) : Int := intOf fmt.val (a j i)
    let y (j i : Nat) : Int := intOf fmt.val (b j i)
    let count (j i : Nat) : Nat := if byImm then n.val else b j i
    let into (z : Int) : Nat := wrapNat w (if sat then max (intLow fmt.val) (min (intHigh fmt.val) z) else z)
    let each (i : Instr) (lat : Nat) (f : Nat → Nat → Nat) : Prop := WritesLanes i s c lat g vd fun j => mapElements fmt.val (f j)
    each (.viadd g fmt vd va vb sat) 2 (fun j i => into (x j i + y j i)) ∧ each (.visub g fmt vd va vb sat) 2 (fun j i => into (x j i - y j i))
    ∧ each (.vimul g fmt vd va vb sat) 4 (fun j i => into (x j i * y j i))
    ∧ WritesLanes (.vand g vd va vb) s c 2 g vd (fun j => s.lane c va j &&& s.lane c vb j)
    ∧ WritesLanes (.vor g vd va vb) s c 2 g vd (fun j => s.lane c va j ||| s.lane c vb j)
    ∧ WritesLanes (.vxor g vd va vb) s c 2 g vd (fun j => s.lane c va j ^^^ s.lane c vb j)
    ∧ each (.vshl g fmt vd va vb byImm n) 2 (fun j i => if w ≤ count j i then 0 else a j i * 2 ^ count j i % 2 ^ w)
    ∧ each (.vshr g fmt vd va vb byImm n) 2 (fun j i => if w ≤ count j i then 0 else a j i / 2 ^ count j i)
    ∧ each (.vsra g fmt vd va vb byImm n) 2 (fun j i => wrapNat w (sextNat w (a j i) / (2 : Int) ^ min (count j i) w))
    ∧ each (.vimin g fmt vd va vb) 2 (fun j i => wrapNat w (min (x j i) (y j i)))
    ∧ each (.vimax g fmt vd va vb) 2 (fun j i => wrapNat w (max (x j i) (y j i)))
    ∧ WritesLanes (.vpcnt g vd va) s c 2 g vd (fun j => BitVec.ofNat 32 ((List.range 32).countP fun i => (s.lane c va j).getLsbD i))

/-- R129, R130, R132. The movements: within a cluster by lane number, between clusters by VXCL's offset (an odd offset in a lockstep context
traps BADVALUE), and of elements within a lane. -/
def Obligations.VectorMovement : Prop :=
  ∀ (s : State) (c : Nat), MayIssue s c → isWorker s.focus = true → ∀ (g : Guard) (fmt : Fin 8) (vd va vb vc : Fin 32) (n : Fin 16) (base : Fin 128) (k : Fin 8)
    (part : Fin 4) (zx : Bool),
    let w := if fmt.val = 6 then 8 else 16
    let from_ (r : Fin 32) (j l : Nat) : Word32 := s.lane c r (j / 16 * 16 + l % 16)
    let moves (i : Instr) (lat : Nat) (f : Nat → Word32) : Prop := WritesLanes i s c lat g vd f
    moves (.vmov g vd va) 2 (s.lane c va) ∧ moves (.vbcst g vd va n) 2 (fun j => from_ va j n.val)
    ∧ moves (.vlane g vd va n) 3 (fun j => from_ va j (j + n.val)) ∧ moves (.vget g vd va vb) 3 (fun j => from_ va j (s.lane c vb j).toNat)
    ∧ moves (.vshuf g vd va vb vc) 3
        (fun j => if (s.lane c vb j).getLsbD 4 = false then from_ va j (s.lane c vb j).toNat else from_ vc j (s.lane c vb j).toNat)
    ∧ moves (.viota g vd base) 2 (fun j => BitVec.ofNat 32 (base.val + j))
    ∧ ((s.ctx s.focus c).lockstep = false ∨ k.val % 2 = 0 →
        moves (.vxcl g vd va k) 6 (fun j => s.lane c va ((j / 16 + 8 - k.val) % 8 * 16 + j % 16)))
    ∧ ((s.ctx s.focus c).lockstep = true → k.val % 2 = 1 →
        TrapsAs (.vxcl g vd va k) s c ⟨causeIllegal, 4, Reason.badValue.code + 256 * 0x36, 1⟩)
    ∧ moves (.vpack g fmt vd va vb part) 2
        (fun j => BitVec.ofNat 32 (setBits (s.lane c vb j).toNat (w * part.val) w (s.lane c va j).toNat))
    ∧ moves (.vunpk g fmt vd va part zx) 2 (fun j =>
        let x := (s.lane c va j).toNat / 2 ^ (w * part.val) % 2 ^ w
        if zx then BitVec.ofNat 32 x else BitVec.ofInt 32 (sextNat w x))

/-- R131. VREDA and VREDX combine the 16 lanes of each cluster, whatever the mask, in a fixed tree: neighbours first, four levels. -/
def Obligations.VectorReductions : Prop :=
  ∀ (s : State) (c : Nat), MayIssue s c → isWorker s.focus = true → ∀ (g : Guard) (fmt : Fin 8) (vd va : Fin 32) (rm : Fin 4) (sat : Bool),
    let v (j l : Nat) : Nat := (s.lane c va (j / 16 * 16 + l % 16)).toNat
    let four (node : Nat → Nat → Nat) (j i : Nat) : Nat :=
      node (node (v j (4 * i)) (v j (4 * i + 1))) (node (v j (4 * i + 2)) (v j (4 * i + 3)))
    let tree (node : Nat → Nat → Nat) (j : Nat) : Nat := node (node (four node j 0) (four node j 1)) (node (four node j 2) (four node j 3))
    WritesLanes (.vreda g fmt vd va rm sat) s c 5 g vd (fun j => BitVec.ofNat 32 (tree (fun x y =>
      if fmt.val = 0 then encodeNum 0 (rmode rm.val) sat (.add (rmode rm.val) (decodeNum 0 x) (decodeNum 0 y))
      else wrapNat (fmtBits fmt.val) (if sat then max (intLow fmt.val) (min (intHigh fmt.val) (intOf fmt.val x + intOf fmt.val y))
        else intOf fmt.val x + intOf fmt.val y)) j))
    ∧ WritesLanes (.vredx g fmt vd va) s c 5 g vd (fun j => BitVec.ofNat 32 (tree (fun x y =>
      if fmt.val = 0 then encodeNum 0 .rn false ((decodeNum 0 x).maximum (decodeNum 0 y)) else if intOf fmt.val x < intOf fmt.val y then y else x) j))

/-- R47, R49, R51, R53, R54, R55, R57. In each format with an exponent field and in T8 and T6, a code that is not a NaN is the rounding of its own
value in every mode: decoding loses nothing and rounding moves no value that a format holds. (A zero of T8 and T6 has one code.) -/
def Obligations.FormatsRoundTrip : Prop :=
  ∀ (rm : RMode) (sat : Bool),
    (∀ c : BitVec 32, decodeNum 0 c.toNat ≠ .nan → encodeNum 0 rm sat (decodeNum 0 c.toNat) = c.toNat)
    ∧ (∀ c : BitVec 16, decodeNum 1 c.toNat ≠ .nan → encodeNum 1 rm sat (decodeNum 1 c.toNat) = c.toNat)
    ∧ (∀ c : BitVec 16, decodeNum 2 c.toNat ≠ .nan → encodeNum 2 rm sat (decodeNum 2 c.toNat) = c.toNat)
    ∧ (∀ c : BitVec 8, decodeNum 7 c.toNat ≠ .nan → encodeNum 7 rm sat (decodeNum 7 c.toNat) = c.toNat)
    ∧ (∀ c : BitVec 8, decodeNum 6 c.toNat ≠ .nan → encodeNum 6 rm sat (decodeNum 6 c.toNat) = c.toNat)
    ∧ (∀ c : BitVec 6, decodeNum 8 c.toNat ≠ .nan → encodeNum 8 rm sat (decodeNum 8 c.toNat) = c.toNat)

/-! ### Memory access (spec/06 R107 to R111, spec/08) -/

/-- R107, R108, R109, R110, R139. A scalar load of n bytes from base + displacement, aligned to n: its result lands 4 cycles after issue from the
scratchpad and 12 from elsewhere, and a bundle that loads from elsewhere retires when it has landed. A misaligned address, a place that cannot be
read, or an uncorrectable error in the own scratchpad, in a word that nothing queued before the load renews, traps with TRAPSLOT 3 and the address.
(Where a clause goes past the words of these rules it is the model's choice: assumption log 8, 83.) -/
def Obligations.ScalarLoads : Prop :=
  ∀ (s : State) (c : Nat), MayIssue s c → ∀ (xd xa : Fin 32) (imm : BitVec 12),
    let v := s.slotView c
    let m := v.scalarMods
    let ea := (s.xr c xa + imm.signExtend 64).toNat
    let loads (i : Instr) (n : Nat) (signed : Bool) : Prop :=
      (∀ w, ea % n = 0 → v.locate 6 ea false = .ok w →
          (∀ a, w = .spad a → s.poisoned (spadAddr s.focus a) n = false ∨ v.renewed (a / 8 * 8) = true) → IssuesAs i s c .b
        { loads := [{ lat := if w.far then 12 else 4, dest := .scalar xd n signed, pieces := [{ off := 0, len := n, ea := ea, loc := w }], policy := m.policy, ac := m.ac }]
          eff := releasePart m s.focus (some w), conds := (if w.far then [.landed] else []) ++ acquirePart m s.focus (some w) })
      ∧ (∀ a, ea % n = 0 → v.locate 6 ea false = .ok (.spad a) → s.poisoned (spadAddr s.focus a) n = true → v.renewed (a / 8 * 8) = false →
          TrapsAs i s c ⟨causeEcc, 3, ea, 6⟩)
      ∧ (ea % n ≠ 0 → TrapsAs i s c ⟨causeMisaligned, 3, ea, 5⟩)
      ∧ (∀ f, ea % n = 0 → v.locate 6 ea false = .error f → TrapsAs i s c ⟨f.cause, 3, ea, f.rank⟩)
    loads (.ldsD xd xa imm) 8 false ∧ loads (.ldsW xd xa imm) 4 true ∧ loads (.ldsWn xd xa imm) 4 false ∧ loads (.ldsH xd xa imm) 2 true
    ∧ loads (.ldsHn xd xa imm) 2 false ∧ loads (.ldsB xd xa imm) 1 true ∧ loads (.ldsBn xd xa imm) 1 false

/-- R107, R110, R111, R134, R258. With nothing else of the context under way, nothing queued at its banks and no copy card, a scalar load from the own
scratchpad has at issue the bytes of memory at its address, for landing 4 cycles later.
(Where a clause goes past the words of these rules it is the model's choice: assumption log 1, 8.) -/
def Obligations.ScratchpadLoadReadsMemory : Prop :=
  ∀ (s : State) (c : Nat), MayIssue s c → ∀ (xd xa : Fin 32) (imm : BitVec 12),
    let ea := (s.xr c xa + imm.signExtend 64).toNat
    (s.ctx s.focus c).inflight = [] → (s.ctx s.focus c).pend = [] → (s.ctx s.focus c).held = [] → (s.core s.focus).cards = [] →
    (∀ b, (s.bank s.focus b).queue = []) → (s.slotView c).scalarMods.ord = 0 → ea < 2 ^ 21 → (s.core s.focus).usable c (ea / 65536) = true →
    let reads (i : Instr) (n : Nat) (signed : Bool) : Prop :=
      ea % n = 0 → s.poisoned (spadAddr s.focus ea) n = false →
        ∃ t, exec i s = .next t ∧ ∃ p ∈ (t.ctx s.focus c).pend, p.due = (s.ctx s.focus c).cycle + 4 ∧ p.slot = .b
          ∧ p.kind = .load (.scalar xd n signed) [⟨0, n, ea, some (.spad ea), some (Memory.read s.mem (spadAddr s.focus ea) n), some s.sfc,
              (s.slotView c).scalarMods.ac, none⟩]
    reads (.ldsD xd xa imm) 8 false ∧ reads (.ldsW xd xa imm) 4 true ∧ reads (.ldsWn xd xa imm) 4 false ∧ reads (.ldsH xd xa imm) 2 true
    ∧ reads (.ldsHn xd xa imm) 2 false ∧ reads (.ldsB xd xa imm) 1 true ∧ reads (.ldsBn xd xa imm) 1 false

/-- R107, R108, R109, R110, R111. A scalar store of the low n bytes of a register: in the own scratchpad the bytes are withheld for the bank from
this cycle; elsewhere the bundle retires 12 cycles after issue, and what an earlier load of another alias class returns is free. The faults
are those of a load.
(Where a clause goes past the words of these rules it is the model's choice: assumption log 8.) -/
def Obligations.ScalarStores : Prop :=
  ∀ (s : State) (c : Nat), MayIssue s c → ∀ (xs xa : Fin 32) (imm : BitVec 12),
    let v := s.slotView c
    let m := v.scalarMods
    let ea := (s.xr c xa + imm.signExtend 64).toNat
    let x := (s.xr c xs).toNat
    let stores (i : Instr) (n : Nat) : Prop :=
      (ea % n = 0 → ea < 2 ^ 21 → (s.core s.focus).usable c (ea / 65536) = true → IssuesAs i s c .b
        { eff := releasePart m s.focus (some (.spad ea)) ++
            [.spadStore ((List.range n).map fun j => (ea + j, BitVec.ofNat 8 (x / 256 ^ j))) (s.core s.focus).cycle]
          conds := acquirePart m s.focus (some (.spad ea)) })
      ∧ (∀ w, ea % n = 0 → v.locate 6 ea true = .ok w → w.far = true → IssuesAs i s c .b
        { eff := releasePart m s.focus (some w) ++ storeEffects v m 3 0 [(0, ea, w, leBytes n x)]
          state := fun u bid => u.raceLoads s.focus c bid m.ac (physPieces [(0, ea, w, leBytes n x)])
          conds := .cycle ((s.ctx s.focus c).cycle + 12) :: acquirePart m s.focus (some w) })
      ∧ (ea % n ≠ 0 → TrapsAs i s c ⟨causeMisaligned, 3, ea, 5⟩)
      ∧ (∀ f, ea % n = 0 → v.locate 6 ea true = .error f → TrapsAs i s c ⟨f.cause, 3, ea, f.rank⟩)
    stores (.stsD xs xa imm) 8 ∧ stores (.stsW xs xa imm) 4 ∧ stores (.stsH xs xa imm) 2 ∧ stores (.stsB xs xa imm) 1

/-- R134, R146, R256, R273 to R277. Where a byte address leads, and what an access to it fails with: an address of the own scratchpad in a bank the
context may not use is NOT_OWNED; an address beyond every space, or with no translation, is XLATE; a page that refuses the access is ATTR.
R143, R144, R146. The places of a vector of 64 bytes a cluster: an address that is not a multiple of 64, or a scratchpad-only form that crosses a
bank, is MISALIGNED; a scratchpad-only form outside the scratchpad is XLATE; in a bank the context may use every enabled cluster has its
64 bytes, an odd cluster of a lockstep context those of its partner; a bank it may not use is NOT_OWNED.
(Where a clause goes past the words of these rules it is the model's choice: assumption log 20, 23.) -/
def Obligations.AccessPlaces : Prop :=
  (∀ (s : State) (c badRank ea : Nat) (write : Bool),
     let v := s.slotView c
     (ea < 2 ^ 21 → (s.core s.focus).usable c (ea / 65536) = true → v.locate badRank ea write = .ok (.spad ea))
     ∧ (ea < 2 ^ 21 → (s.core s.focus).usable c (ea / 65536) = false → v.locate badRank ea write = .error ⟨causeNotOwned, 5⟩)
     ∧ (2 ^ 52 ≤ ea → v.locate badRank ea write = .error ⟨causeXlate, badRank⟩)
     ∧ (2 ^ 21 ≤ ea → ea < 2 ^ 52 - 2 ^ 30 → (s.ctx s.focus c).inflight = [] →
         (translate s (s.focus / 128) ea = none → v.locate badRank ea write = .error ⟨causeXlate, 6⟩)
         ∧ (∀ l, translate s (s.focus / 128) ea = some l →
             (l.skim = true ∨ l.step = true ∨ (write = true ∧ l.wr = false) → v.locate badRank ea write = .error ⟨causeAttr, 6⟩)
             ∧ (l.skim = false → l.step = false → (write = true → l.wr = true) → l.pa < 2 ^ 46 →
                 s.diesJoined (s.focus / 128) (homeDie l.pa) = true →
                 v.locate badRank ea write = .ok (.phys l.pa)))))
  ∧ (∀ (s : State) (c ea : Nat) (near write : Bool) (cl : List Nat), (∀ k ∈ cl, k < 8) →
         let v := s.slotView c
         let from_ (k : Nat) : Nat := ea + 64 * (if (s.ctx s.focus c).lockstep then k - k % 2 else k)
         let places : Except Trap (List Piece) := v.vectorPlaces near write ea 512 (v.vectorParts cl ea)
         (ea % 64 ≠ 0 → places = .error ⟨causeMisaligned, 6, ea, 5⟩)
         ∧ (near = true → ea % 65536 > 65024 → places = .error ⟨causeMisaligned, 6, ea, 5⟩)
         ∧ (near = true → ea % 64 = 0 → ea % 65536 ≤ 65024 → 2 ^ 21 ≤ ea → places = .error ⟨causeXlate, 6, ea, 5⟩)
         ∧ (ea % 64 = 0 → ea % 65536 ≤ 65024 → ea < 2 ^ 21 → (s.core s.focus).usable c (ea / 65536) = true →
             places = .ok (cl.map fun k => { off := 64 * k, len := 64, ea := from_ k, loc := .spad (from_ k) }))
         ∧ (∀ k, cl.head? = some k → ea % 64 = 0 → ea % 65536 ≤ 65024 → ea < 2 ^ 21 → (s.core s.focus).usable c (ea / 65536) = false →
             places = .error ⟨causeNotOwned, 6, from_ k, 5⟩))

/-- R97, R112, R114. A landing result writes its register alone: x0, p0 and vp0 discard the write and read as 0, true and all ones; a vector
register keeps the lanes that the mask leaves out. -/
def Obligations.RegisterWrites : Prop :=
  ∀ (r : Regs),
    (∀ y, Dest.write (.x 0 y) r = r) ∧ (∀ y, Dest.write (.p 0 y) r = r) ∧ (∀ m y, Dest.write (.vp 0 m y) r = r)
    ∧ r.rx 0 = 0 ∧ r.rp 0 = true ∧ (∀ L : Fin 128, (r.rvp 0)[L] = true)
    ∧ (∀ (i j : Fin 32) y, i ≠ 0 → (Dest.write (.x i y) r).rx j = (if j = i then y else r.rx j))
    ∧ (∀ (i j : Fin 8) y, i ≠ 0 → (Dest.write (.p i y) r).rp j = (if j = i then y else r.rp j))
    ∧ (∀ (i j : Fin 32) m y (L : Fin 128), ((Dest.write (.v i m y) r).rv j)[L] = (if j = i ∧ m[L] = true then y[L] else (r.rv j)[L]))
    ∧ (∀ (i j : Fin 8) m y (L : Fin 128), i ≠ 0 →
        ((Dest.write (.vp i m y) r).rvp j)[L] = (if j = i ∧ m[L] = true then y[L] else (r.rvp j)[L]))
    ∧ (∀ (i : Fin 32) y, { Dest.write (.x i y) r with x := r.x } = r) ∧ (∀ (i : Fin 8) y, { Dest.write (.p i y) r with p := r.p } = r)
    ∧ (∀ (i : Fin 32) m y, { Dest.write (.v i m y) r with v := r.v } = r) ∧ (∀ (i : Fin 8) m y, { Dest.write (.vp i m y) r with vp := r.vp } = r)

/-- R142, R143, R144, R145, R147. Vector loads and stores, gather and scatter, on a worker core: a load's lanes land 6 cycles after issue, or at the
arrival distance that the instruction names, and its bundle retires when they have; a store's bytes are withheld, and its bundle retires 12 cycles after
issue if it stores outside the scratchpad. A busy landing slot, or too few of the 768 requests for a load or store of global memory, blocks; a place that
fails traps.
(Where a clause goes past the words of these rules it is the model's choice: assumption log 19, 20; the synchronisation variable of an ordered vector access
is its first piece: assumption log 17.) -/
def Obligations.VectorLoadsStores : Prop :=
  ∀ (s : State) (c : Nat), MayIssue s c → isWorker s.focus = true → ∀ (vd xa ln vo : Fin 32) (imm : BitVec 13) (arr : BitVec 8),
    let v := s.slotView c
    let m := v.vectorMods
    let mask := clusterMask (s.regsOf c).clm (s.ctx s.focus c).lockstep
    let ea := (s.xr c xa + imm.signExtend 64 * 64).toNat
    let short (n : Nat) : Prop := 0 < n ∧ 768 < s.requestsOut s.focus + n
    let loads (i : Instr) (lat : Nat) (land : Option (Fin 32)) (places : Except Trap (List Piece)) (need : List Piece → Nat) : Prop :=
      (∀ l, places = .ok l → (∀ n, land = some n → v.slotBusy n = false) → ¬ short (need l) → IssuesAs i s c .d
        { loads := [{ lat := lat, dest := .vector vd mask, ln := land, pieces := l, policy := m.policy, ac := m.ac }]
          eff := releasePart m s.focus (firstPlace l), conds := .landed :: acquirePart m s.focus (firstPlace l), arrive := .landing })
      ∧ (∀ t, places = .error t → (∀ n, land = some n → v.slotBusy n = false) → TrapsAs i s c t)
      ∧ (∀ n l, places = .ok l → land = some n → v.slotBusy n = true ∨ short (need l) → BlocksAs i s c)
    let stores (i : Instr) (r : Fin 32) (places : Except Trap (List Piece)) (need : List Piece → Nat) : Prop :=
      (∀ l, places = .ok l → ¬ short (need l) →
        let parts := l.map fun p => (p.off, p.ea, p.loc, v.regBytes r p.off p.len)
        IssuesAs i s c .d
          { eff := releasePart m s.focus (firstPlace l) ++ storeEffects v m 6 (need l) parts
            state := fun u bid => u.raceLoads s.focus c bid m.ac (physPieces parts)
            conds := (if anyFar l then [.cycle ((s.ctx s.focus c).cycle + 12)] else []) ++ acquirePart m s.focus (firstPlace l) })
      ∧ (∀ l, places = .ok l → short (need l) → BlocksAs i s c)
      ∧ (∀ t, places = .error t → TrapsAs i s c t)
    loads (.vldS vd xa imm) 6 none (v.vectorPlaces true false ea 512 (v.vectorParts v.clusters ea)) (fun _ => 0)
    ∧ loads (.vldb vd xa imm) 6 none (v.vectorPlaces true false ea 512 (v.clusters.map fun k => (64 * k, ea, 64))) (fun _ => 0)
    ∧ loads (.vldG vd xa ln arr) arr.toNat (some ln)
        (v.vectorPlaces false false (s.xr c xa).toNat 512 (v.vectorParts v.clusters (s.xr c xa).toNat)) v.requestsFor
    ∧ loads (.vgth vd xa ln arr) arr.toNat (some ln) (v.lanePlaces false v.clusters xa vd) lanesFor
    ∧ stores (.vstS vd xa imm) vd (v.vectorPlaces true true ea 512 (v.vectorParts v.storeClusters ea)) (fun _ => 0)
    ∧ stores (.vstG vd xa imm) vd (v.vectorPlaces false true ea 512 (v.vectorParts v.storeClusters ea)) v.requestsFor
    ∧ stores (.vsct vd xa vo) vd (v.lanePlaces true v.storeClusters xa vo) lanesFor

/-- R148, R149, R150, R151. The hawks: HSET makes an empty ring at an aligned place in banks the context may use, and in another bank traps
BANK_NOT_OWNED with its first such byte; HPOP and HPUSH address the filled or free element they name, and block while fewer are filled or free than they
name; HADVR and HADVW move the pointers at retire, and block likewise; an element or advance beyond the capacity is BADVALUE.
R152. PREF raises nothing and waits for nothing: it asks for the sectors it names, and the next bundle need not wait for it.
(Where a clause goes past the words of these rules it is the model's choice: assumption log 17 (the first piece synchronises), 20 (the byte that
BANK_NOT_OWNED reports), 26.) -/
def Obligations.HawksAndPrefetches : Prop :=
  (∀ (s : State) (c : Nat), MayIssue s c → isWorker s.focus = true → ∀ (vd xa : Fin 32) (h lg : Fin 16) (k : Fin 512),
     let v := s.slotView c
     let m := v.vectorMods
     let x := (s.ctx s.focus c).hawk h
     let base := (s.xr c xa).toNat
     let bad (op : Nat) : Trap := ⟨causeIllegal, 6, Reason.badValue.code + 256 * op, 1⟩
     let hawkAfter (i : Instr) (y : Hawk) : Prop := s.retiresAtOnce c {} = true →
       ∃ t, exec i s = .next t ∧ (t.ctx s.focus c).hawks[h] = y ∧ (∀ j : Fin 16, j ≠ h → (t.ctx s.focus c).hawks[j] = (s.ctx s.focus c).hawks[j])
         ∧ ∀ a, Memory.get t.mem a = Memory.get s.mem a
     (base % 512 = 0 → base + 512 * 2 ^ lg.val ≤ 2 ^ 21 → v.ringHole base (2 ^ lg.val) = none →
       IssuesAs (.hset xa h lg) s c .d { eff := [.hawkSet h base (2 ^ lg.val)] } ∧ hawkAfter (.hset xa h lg) ⟨base, 2 ^ lg.val, 0, 0, 0⟩)
     ∧ (base % 512 ≠ 0 ∨ 2 ^ 21 < base + 512 * 2 ^ lg.val → TrapsAs (.hset xa h lg) s c ⟨causeMisaligned, 6, base, 5⟩)
     ∧ (∀ a, base % 512 = 0 → base + 512 * 2 ^ lg.val ≤ 2 ^ 21 → v.ringHole base (2 ^ lg.val) = some a →
         TrapsAs (.hset xa h lg) s c ⟨causeNotOwned, 6, a, 5⟩)
     ∧ (k.val < x.filled → x.filled ≤ x.cap →
         IssuesAs (.hadvr h k) s c .d { eff := [.hawkRd h (k.val + 1)] }
         ∧ hawkAfter (.hadvr h k) ⟨x.base, x.cap, (x.rd + (k.val + 1)) % x.cap, x.wr, x.filled - (k.val + 1)⟩)
     ∧ (k.val < x.cap - x.filled →
         IssuesAs (.hadvw h k) s c .d { eff := [.hawkWr h (k.val + 1)] }
         ∧ hawkAfter (.hadvw h k) ⟨x.base, x.cap, x.rd, (x.wr + (k.val + 1)) % x.cap, x.filled + (k.val + 1)⟩)
     ∧ (k.val < x.filled → x.filled ≤ x.cap → ∀ l, v.loadPlaces true (x.base + (x.rd + k.val) % x.cap * 512) = .ok l →
         IssuesAs (.hpop vd h k) s c .d
           { loads := [{ lat := 6, dest := .vector vd (clusterMask (s.regsOf c).clm (s.ctx s.focus c).lockstep), ln := none, pieces := l,
                         policy := m.policy, ac := m.ac }]
             eff := releasePart m s.focus (firstPlace l), conds := .landed :: acquirePart m s.focus (firstPlace l), arrive := .landing })
     ∧ (k.val < x.cap - x.filled → ∀ l, v.storePlaces true (x.base + (x.wr + k.val) % x.cap * 512) = .ok l →
         let parts := l.map fun p => (p.off, p.ea, p.loc, v.regBytes vd p.off p.len)
         IssuesAs (.hpush vd h k) s c .d
           { eff := releasePart m s.focus (firstPlace l) ++ storeEffects v m 6 0 parts
             state := fun u bid => u.raceLoads s.focus c bid m.ac (physPieces parts)
             conds := (if anyFar l then [.cycle ((s.ctx s.focus c).cycle + 12)] else []) ++ acquirePart m s.focus (firstPlace l) })
     ∧ (x.cap ≤ k.val → TrapsAs (.hpop vd h k) s c (bad 0x08) ∧ TrapsAs (.hpush vd h k) s c (bad 0x09)
         ∧ TrapsAs (.hadvr h k) s c (bad 0x0A) ∧ TrapsAs (.hadvw h k) s c (bad 0x0B))
     ∧ (k.val < x.cap → x.filled ≤ k.val → BlocksAs (.hadvr h k) s c ∧ BlocksAs (.hpop vd h k) s c)
     ∧ (k.val < x.cap → x.cap - x.filled ≤ k.val → BlocksAs (.hadvw h k) s c ∧ BlocksAs (.hpush vd h k) s c))
  ∧ (∀ (s : State) (c : Nat), MayIssue s c → isWorker s.focus = true → ∀ (n xa : Fin 32) (imm : BitVec 13),
         let v := s.slotView c
         let ea := (s.xr c xa + imm.signExtend 64 * 64).toNat
         IssuesAs (.pref n xa imm) s c .d { state := fun s bid => (v.prefetches bid (n.val + 1) ea).foldl (fun s r => s.sendPrefetch r) s }
         ∧ (∀ r ∈ v.prefetches (s.ctx s.focus c).nextBid (n.val + 1) ea,
             r.2.prefetch = true ∧ r.2.bytes = none ∧ r.2.len = 64 ∧ r.2.core = s.focus)
         ∧ (v.prefetches (s.ctx s.focus c).nextBid (n.val + 1) ea).length ≤ min (n.val + 1) (768 - s.requestsOut s.focus)
         ∧ (v.vectorMods.policy = 2 → ∀ r ∈ v.prefetches (s.ctx s.focus c).nextBid (n.val + 1) ea, s.llcHit r.2.addr = false))

/-- R110, R111, R147, R196, R258. Outside the E slot the issue of an instruction changes no byte of memory (while no trace is written): a store's bytes
reach memory at their bank, pseudo-channel or link. -/
def Obligations.IssueWritesNoMemory : Prop :=
  ∀ (i : Instr) (sl : Slot), slotOf i = some sl → sl ≠ .e → ∀ (s t : State), s.trace.size = 0 → exec i s = .next t →
    ∀ a, Memory.get t.mem a = Memory.get s.mem a

/-! ### Control slot: transfers, loops, context instructions (spec/05, 11, 12) -/

/-- R86, R89, R116. The no-operations of the slots complete: the machine goes on with the program counter moved, no result pending, nothing sent, and
memory and every other context as they were; R370: SEVT completes too, and emits a trace record when its bundle retires.
R90, R95, R140. A MODP whose bundle has no D-slot memory operation is ILLEGAL_BUNDLE with reason SLOTKIND at the E slot. With one, the step of a line that
holds the two completes where that operation raises nothing and waits for nothing, with MODP's fields in the place of MEMDEF's.
R15. On a control core a slot instruction outside the scalar subset is a reserved opcode; the no-operations are in it.
(Where a clause goes past the words of these rules it is the model's choice: assumption log 97.) -/
def Obligations.NoOperations : Prop :=
  (∀ (s : State) (c : Nat), MayIssue s c → ∀ (g : Guard) (ord scope ac : Fin 8) (pol : Fin 4) (ev : BitVec 8),
    let v := s.slotView c
    let moved : Regs := advance { s.issueRegs c with startAt := none, resumePos := none } v.addr v.next
    let completes (i : Instr) (sl : Slot) : Prop := IssuesAs i s c sl {} ∧
      ∃ t, exec i s = .next t ∧ (t.ctx s.focus c).regs = moved ∧ (t.ctx s.focus c).pend = (s.ctx s.focus c).pend
        ∧ (t.ctx s.focus c).held = (s.ctx s.focus c).held ∧ (t.ctx s.focus c).nextBid = (s.ctx s.focus c).nextBid + 1
        ∧ (∀ n, ctxNo n ≠ ctxNo c → t.ctx s.focus n = s.ctx s.focus n) ∧ (∀ k, k ≠ s.focus → t.core k = s.core k)
        ∧ ∀ a, Memory.get t.mem a = Memory.get s.mem a
    completes .nop .c ∧ completes .vnop .v ∧ completes .mnop .m ∧ completes .knop .k ∧ completes .dnop .d ∧ completes .enop .e
    ∧ TrapsAs (.modp ord scope pol ac) s c ⟨causeIllegal, 7, Reason.slotKind.code + 256 * 0x01, 1⟩
    ∧ (v.on g = true → IssuesAs (.sevt g ev) s c .c { eff := [.trace 1 ev.toNat] }
        ∧ ∃ t, exec (.sevt g ev) s = .next t ∧ (t.ctx s.focus c).regs = moved ∧ (t.ctx s.focus c).pend = (s.ctx s.focus c).pend)
    ∧ (v.on g = false → completes (.sevt g ev) .c)
    ∧ (isWorker s.focus = false → ∀ (i : Instr) (sl : Slot), slotOf i = some sl → scalarSubset sl (sl.opcode (encode i)) = false →
        TrapsAs i s c ⟨causeIllegal, sl.code, Reason.resOp.code + 256 * sl.opcode (encode i), 1⟩))
  ∧ (∀ (s : State) (c : Nat) (rest : List Instr) (t : Task) (i : Instr) (ord scope ac : Fin 8) (pol : Fin 4), MayIssue s c →
         isWorker s.focus = true → coreExists s.focus = true → s.agenda = .bundleIssue s.focus :: rest →
         (s.core s.focus).breaksAt (s.regsOf c).pc = false → (s.ctx s.focus c).task = some t → (s.regsOf c).pc % 32 = 0 →
         i.wf = true → slotOf i = some .d → isDMemory (encode i) = true → (Instr.modp ord scope pol ac).wf = true →
         s.fetchLine t (s.regsOf c).pc = some (modpLine i (.modp ord scope pol ac)) →
         let s' := ({ s with agenda := rest } : State).setCore s.focus (s.core s.focus)
         let v : View := { s'.slotView c with modp := some ⟨ord.val, scope.val, pol.val, ac.val⟩ }
         v.vectorMods = ⟨ord.val, scope.val, pol.val, ac.val⟩
         ∧ ((slotSpec i).trap v = none → (slotSpec i).block v = false → step s = .next (commit v [(.d, (slotSpec i).out v), (.e, {})]))
         ∧ (∀ tr, (slotSpec i).trap v = some tr → tr.rank ≠ 1 → (slotSpec i).block v = false → step s = .next (v.trapNow tr))
         ∧ ((∀ tr, (slotSpec i).trap v = some tr → tr.rank ≠ 1) → (slotSpec i).block v = true → step s = .next (s'.heldUp c)))

/-- R85. A false C-slot predicate makes the instruction have no effect: it issues, and raises nothing that its operands would raise. (An illegal
control-register number, and a LOOP that does not reach past its own line, are encoding faults and trap all the same, R92, R95.)
(Where a clause goes past the words of these rules it is the model's choice: assumption log 9.) -/
def Obligations.FalsePredicate : Prop :=
  ∀ (s : State) (c : Nat), MayIssue s c → ∀ (g : Guard), (s.regsOf c).rp g.p = g.neg →
    ∀ (xa xb : Fin 32) (d18 : BitVec 18) (d15 : BitVec 15) (k : Fin 8) (n : Fin 16) (b8 : BitVec 8) (csr : BitVec 10),
    (∀ i ∈ [Instr.br g d18, .brx g xa, .call g d18, .ret g, .lbrk g k d15, .waits g n k, .sigs g n k, .waitc g xa xb, .arrive g n,
        .bwait g n, .fence g k, .acq g xa k, .rel g xa k, .bankacq g xa, .bankrel g xa, .launch g xb xa, .cancel g xb xa, .sleep g, .armh g xa k,
        .yield g, .trap g b8, .rett g, .stenld g xb xa, .frame g xa b8, .brk g b8, .endTask g, .sevt g b8, .csrwMemdef g xa, .csrwClm g xa,
        .csrwFramelen g xa, .csrwDetmode g xa, .csrwStepref g xa, .csrwTrappc g xa, .csrwHarm g k xa, .csrwMslot g n xa, .csrw g 1 xa],
      IssuesAs i s c .c {})
    ∧ (1 ≤ d15.toInt → IssuesAs (.loop g k d15) s c .c {})
    ∧ (d15.toInt < 1 → TrapsAs (.loop g k d15) s c ⟨causeIllegal, 1, Reason.badValue.code + 256 * 0x05, 1⟩)
    ∧ (((s.slotView c).csrRead csr.toNat).isSome = true → IssuesAs (.csrr g csr xa) s c .c {})
    ∧ ((s.slotView c).csrRead csr.toNat = none → TrapsAs (.csrr g csr xa) s c ⟨causeIllegal, 1, Reason.csr.code + 256 * 0x18, 1⟩)
    ∧ (csr ≠ 1 → TrapsAs (.csrw g csr xa) s c ⟨causeIllegal, 1, Reason.csr.code + 256 * 0x19, 1⟩)

/-- R84, R221. A taken transfer moves the program counter to its line, and no bundle issues in the next cycle; CALL links in x31; a line outside the
kernel, or an address that is no line, is BADVALUE. -/
def Obligations.ControlTransfer : Prop :=
  ∀ (s : State) (c : Nat), MayIssue s c → ∀ (g : Guard), (s.regsOf c).rp g.p ≠ g.neg → ∀ (xa : Fin 32) (disp : BitVec 18),
    let v := s.slotView c
    let line : Int := ((s.regsOf c).pc / 32 : Nat) + disp.toInt
    let bad (op : Nat) : Trap := ⟨causeIllegal, 1, Reason.badValue.code + 256 * op, 1⟩
    let inside (l : Int) : Prop := 0 ≤ l ∧ l < v.nlines
    (inside line →
      IssuesAs (.br g disp) s c .c { target := some (32 * line.toNat), idle := 1 }
      ∧ IssuesAs (.call g disp) s c .c
          { target := some (32 * line.toNat), idle := 1, res := [(1, .x 31 (BitVec.ofNat 64 (32 * ((s.regsOf c).pc / 32 + 1))))] })
    ∧ (¬ inside line → TrapsAs (.br g disp) s c (bad 0x01) ∧ TrapsAs (.call g disp) s c (bad 0x03))
    ∧ ((s.xr c xa).toNat % 32 = 0 → inside ((s.xr c xa).toNat / 32 : Nat) →
        IssuesAs (.brx g xa) s c .c { target := some (s.xr c xa).toNat, idle := 1 })
    ∧ ((s.xr c 31).toNat % 32 = 0 → inside ((s.xr c 31).toNat / 32 : Nat) → IssuesAs (.ret g) s c .c { target := some (s.xr c 31).toNat, idle := 1 })
    ∧ ((s.xr c xa).toNat % 32 ≠ 0 ∨ ¬ inside ((s.xr c xa).toNat / 32 : Nat) → TrapsAs (.brx g xa) s c (bad 0x02))
    ∧ ((s.xr c 31).toNat % 32 ≠ 0 ∨ ¬ inside ((s.xr c 31).toNat / 32 : Nat) → TrapsAs (.ret g) s c (bad 0x04))

/-- R26, R222. LOOP at a T level with a trip count: LIn 0, LCn one less than the count, the level active from the next line to the last; with a count
of 0 it transfers past the last line. LBRK transfers and makes its level and the ones inside it inactive. Other uses are BADVALUE.
R81, R222. The move past a bundle: to the next word of its line; at the end of the line, the innermost active level that ends there counts: with
LCn not 0 it goes back to its first line, else it becomes inactive and the level around it is asked, and so on; when none is left, the next line
follows. -/
def Obligations.HardwareLoops : Prop :=
  (∀ (s : State) (c : Nat), MayIssue s c → ∀ (g : Guard), (s.regsOf c).rp g.p ≠ g.neg → ∀ (lvl : Fin 8) (disp : BitVec 15),
     let v := s.slotView c
     let here := (s.regsOf c).pc / 32
     let last : Int := (here : Nat) + disp.toInt
     let n := v.tripCount lvl.val
     let bad (op : Nat) : Trap := ⟨causeIllegal, 1, Reason.badValue.code + 256 * op, 1⟩
     let inside (l : Int) : Prop := 0 ≤ l ∧ l < v.nlines
     (v.levelT lvl.val = true → 1 ≤ disp.toInt → inside last → n ≠ 0 → IssuesAs (.loop g lvl disp) s c .c
       { regs := fun r => { r with li := r.li.setIfInBounds lvl.val 0, lc := r.lc.setIfInBounds lvl.val (BitVec.ofNat 64 (n - 1)),
                                   loops := r.loops.setIfInBounds lvl.val ⟨true, here + 1, last.toNat⟩ }, sets := true })
     ∧ (v.levelT lvl.val = true → 1 ≤ disp.toInt → inside last → inside (last + 1) → n = 0 →
         IssuesAs (.loop g lvl disp) s c .c { target := some (32 * (last + 1).toNat), idle := 1 })
     ∧ (v.levelT lvl.val = false ∨ disp.toInt < 1 ∨ ¬ inside last ∨ (n = 0 ∧ ¬ inside (last + 1)) → TrapsAs (.loop g lvl disp) s c (bad 0x05))
     ∧ (v.levelT lvl.val = true → inside last → ∃ o, IssuesAs (.lbrk g lvl disp) s c .c o ∧ o.target = some (32 * last.toNat) ∧ o.idle = 1
         ∧ o.res = [] ∧ o.loads = [] ∧ o.eff = [] ∧ o.conds = [] ∧ o.takes = []
         ∧ ∀ r : Regs, (∀ j : Fin 6, ((o.regs r).loops[j]).active = (if lvl.val ≤ j.val then false else (r.loops[j]).active))
             ∧ { o.regs r with loops := r.loops } = r)
     ∧ (v.levelT lvl.val = false ∨ ¬ inside last → TrapsAs (.lbrk g lvl disp) s c (bad 0x06)))
  ∧ (∀ (r : Regs) (addr next : Nat),
         let line := addr / 32
         let ends (j : Fin 6) : Bool := (r.loops[j]).active && decide ((r.loops[j]).last = line)
         let left (inside : Fin 6 → Bool) : Vector LoopLevel 6 :=
           Vector.ofFn fun j => if inside j && ends j then { r.loops[j] with active := false } else r.loops[j]
         (next / 32 = line → advance r addr next = { r with pc := next })
         ∧ (next / 32 ≠ line → (∀ j, ends j = true → r.lc[j] = 0) →
             advance r addr next = { r with loops := left fun _ => true, pc := 32 * (line + 1) })
         ∧ (∀ n : Fin 6, next / 32 ≠ line → ends n = true → r.lc[n] ≠ 0 → (∀ j, n < j → ends j = true → r.lc[j] = 0) →
             advance r addr next = { r with loops := left fun j => decide (n < j), lc := r.lc.set n (r.lc[n] - 1), li := r.li.set n (r.li[n] + 1),
                                            pc := 32 * (r.loops[n]).first }))

/-- R205, R206, R207, R41. SLEEP, YIELD and END at retire, ARMH, RETT two cycles before the bundle at TRAPPC, and FRAME, whose first bundle waits for
the named SFC value; their illegal uses are BADVALUE, and a FRAME of a past value is OVERRUN. END stops its context, BLOCKED, from its issue on.
R205, R206. What SLEEP and YIELD do to the context when they retire at once: with no waiting message of an armed class SLEEP makes it DORMANT; YIELD
makes a RUNNING context READY outside deterministic mode. -/
def Obligations.ContextInstructions : Prop :=
  (∀ (s : State) (c : Nat), MayIssue s c → ∀ (g : Guard), (s.regsOf c).rp g.p ≠ g.neg → ∀ (xa : Fin 32) (k : Fin 8) (len : BitVec 8),
     let r := s.regsOf c
     let bad (op : Nat) : Trap := ⟨causeIllegal, 1, Reason.badValue.code + 256 * op, 1⟩
     ((∃ j : Fin 8, (r.harm[j]).getLsbD 0 = true) → IssuesAs (.sleep g) s c .c { eff := [.sleep] })
     ∧ ((∀ j : Fin 8, (r.harm[j]).getLsbD 0 = false) → TrapsAs (.sleep g) s c (bad 0x13))
     ∧ ((s.xr c xa).toNat % 32 = 0 →
         IssuesAs (.armh g xa k) s c .c { regs := fun r => { r with harm := r.harm.set k (s.xr c xa ||| 1) }, sets := true })
     ∧ ((s.xr c xa).toNat % 32 ≠ 0 → TrapsAs (.armh g xa k) s c (bad 0x14))
     ∧ IssuesAs (.yield g) s c .c { eff := [.yield] }
     ∧ IssuesAs (.endTask g) s c .c
         { eff := [.endTask], state := fun u _ => u.modCtx s.focus c fun x => { x with ending := true, status := .blocked } }
     ∧ (∃ t, exec (.endTask g) s = .next t ∧ (t.ctx s.focus c).ending = true ∧ (t.ctx s.focus c).status = .blocked)
     ∧ (r.hnd = true → IssuesAs (.rett g) s c .c
         { target := some r.trappc.toNat, regs := fun r => { r with hnd := false, pc := r.trappc.toNat }, idle := 1 })
     ∧ (r.hnd = false → TrapsAs (.rett g) s c (bad 0x17))
     ∧ (s.sfc < (s.xr c xa).toNat → IssuesAs (.frame g xa len) s c .c
         { regs := fun r => { r with framelen := if len = 0 then r.framelen else len, origin := s.xr c xa, prevStamp := none,
                                     startAt := some (s.xr c xa).toNat }, sets := true })
     ∧ ((s.xr c xa).toNat ≤ s.sfc → TrapsAs (.frame g xa len) s c ⟨causeOverrun, 0, 0xFF, 4⟩))
  ∧ (∀ (s : State) (c : Nat), MayIssue s c → c < 4 → ∀ (g : Guard), (s.regsOf c).rp g.p ≠ g.neg → s.retiresAtOnce c {} = true →
         ((∃ j : Fin 8, ((s.regsOf c).harm[j]).getLsbD 0 = true) → (∀ b : Fin 32, ((s.core s.focus).banks[b]).fifo = []) →
           ∃ t, exec (.sleep g) s = .next t ∧ (t.ctx s.focus c).status = .dormant ∧ (t.core s.focus).port ≠ some (ctxNo c))
         ∧ ((s.regsOf c).detmode = false → (s.ctx s.focus c).status = .running → (∀ j : Fin 4, j ≠ ctxNo c → ((s.core s.focus).ctxs[j]).status ≠ .ready) →
             ∃ t, exec (.yield g) s = .next t ∧ (t.ctx s.focus c).status = .ready ∧ (t.core s.focus).port = none)
         ∧ ((s.regsOf c).detmode = true → ∃ t, exec (.yield g) s = .next t ∧ (t.ctx s.focus c).status = (s.ctx s.focus c).status
             ∧ (t.core s.focus).port = (s.core s.focus).port))

/-- R198, R199. Trap entry of a bundle with no earlier one in flight: TRAPPC, TRAPNPC, TRAPCAUSE, TRAPSLOT and TRAPINFO are written and HND set; with
TRAPVEC.EN, outside a handler and for every cause but VOTE and LOCKSTEP, issue goes on at TRAPVEC's line no sooner than four cycles later; else the
context is TRAPPED and firmware is notified. With an earlier bundle in flight the trap waits for it.
(Where a clause goes past the words of these rules it is the model's choice: assumption log 10, 14.) -/
def Obligations.TrapEntry : Prop :=
  ∀ (s : State) (c : Nat) (t : Trap), c < 4 →
    let v := s.slotView c
    let r := s.regsOf c
    let entered := ((v.trapNow t).ctx s.focus c).regs
    let handles : Prop := r.trapvec.getLsbD 0 = true ∧ r.hnd = false ∧ t.cause ≠ causeVote ∧ t.cause ≠ causeLockstep
    ((s.ctx s.focus c).inflight = [] →
      { entered with pc := r.pc } =
        { r with trappc := BitVec.ofNat 64 v.addr, trapnpc := BitVec.ofNat 64 v.next, trapcause := BitVec.ofNat 64 t.cause,
                 trapslot := BitVec.ofNat 64 t.slot, trapinfo := BitVec.ofNat 64 t.info, hnd := true }
      ∧ (handles → entered.pc = r.trapvec.toNat / 32 * 32 ∧ (s.core s.focus).cycle + 4 ≤ ((v.trapNow t).ctx s.focus c).issueAt
          ∧ ((s.ctx s.focus c).status ≠ .trapped → (v.trapNow t).notices = s.notices))
      ∧ (¬ handles → entered.pc = v.addr ∧ ((v.trapNow t).ctx s.focus c).status = .trapped
          ∧ (v.trapNow t).notices = s.notices ++ [(s.focus, c, t.cause)]))
    ∧ ((s.ctx s.focus c).inflight ≠ [] → entered = r ∧ (v.trapNow t).mem = s.mem
        ∧ ∃ b, ((v.trapNow t).ctx s.focus c).inflight = (s.ctx s.focus c).inflight ++ [b] ∧ b.fault = some t ∧ b.addr = v.addr ∧ b.next = v.next
          ∧ b.eff = [] ∧ b.snap = r)

/-- R206, R371. TRAP raises SOFT with its number; BRK raises BREAK with its tag, unless the debugger has armed stops on the core: then the context is
pre-empted before the bundle, with nothing of it done.
(Where a clause goes past the words of these rules it is the model's choice: assumption log 11.) -/
def Obligations.TrapsAndBreaks : Prop :=
  ∀ (s : State) (c : Nat), MayIssue s c → ∀ (g : Guard), (s.regsOf c).rp g.p ≠ g.neg → ∀ (n : BitVec 8),
    TrapsAs (.trap g n) s c ⟨causeSoft, 1, n.toNat, 3⟩
    ∧ ((s.core s.focus).armed = false → TrapsAs (.brk g n) s c ⟨causeBreak, 1, n.toNat, 3⟩)
    ∧ ((s.core s.focus).armed = true → ∃ t, exec (.brk g n) s = .next t ∧ (t.ctx s.focus c).preempt = some (s.ctx s.focus c).area
        ∧ (t.ctx s.focus c).stopped = true ∧ (t.ctx s.focus c).regs = s.regsOf c ∧ (t.ctx s.focus c).inflight = (s.ctx s.focus c).inflight)

/-- R208, R209. CSRR reads each control register, one cycle after issue; a number that the machine does not implement is an illegal encoding.
R8, R40, R113, R139, R206, R209, R222, R315. CSRW of each register that a program may write: the register changes from the next bundle; CLM keeps its
odd bits out of a lockstep context, FRAMELEN keeps LEN on a write of 0, and what is written to the reserved bits of either is ignored.
(Where a clause goes past the words of these rules it is the model's choice: assumption log 10, 15, 34.) -/
def Obligations.ControlRegisters : Prop :=
  (∀ (s : State) (c : Nat), MayIssue s c → ∀ (g : Guard), (s.regsOf c).rp g.p ≠ g.neg → ∀ (xd : Fin 32),
     let r := s.regsOf c
     let x := s.ctx s.focus c
     let core := s.core s.focus
     let ofN (n : Nat) : Word64 := BitVec.ofNat 64 n
     let reads (csr : BitVec 10) (w : Word64) : Prop := IssuesAs (.csrr g csr xd) s c .c { res := [(1, .x xd w)] }
     reads 0x000 (ofN (s.focus % 512 * 4 + c % 4)) ∧ reads 0x001 r.trapvec ∧ reads 0x002 r.trapcause ∧ reads 0x003 r.trappc
     ∧ reads 0x004 r.trapslot ∧ reads 0x005 r.trapinfo ∧ reads 0x006 (ofN (2 * r.hnd.toNat + x.priv.toNat)) ∧ reads 0x007 r.msginfo
     ∧ reads 0x008 r.trapnpc ∧ reads 0x010 (ofN r.memdef.toNat) ∧ reads 0x012 (ofN r.stepref.toNat) ∧ reads 0x013 (ofN r.framelen.toNat)
     ∧ (x.lockstep = false → reads 0x011 (ofN r.clm.toNat)) ∧ (x.lockstep = true → reads 0x011 (ofN (r.clm &&& 0x55#8).toNat))
     ∧ (∀ t, x.task = some t → t.started = true → s.sfc ≥ r.origin.toNat → r.framelen ≠ 0 →
         reads 0x014 (ofN ((s.sfc - r.origin.toNat) % r.framelen.toNat)))
     ∧ reads 0x015 (ofN s.sfc) ∧ reads 0x016 (ofN (core.bankOwn c)) ∧ (∀ n : Fin 6, reads (0x020 + BitVec.ofNat 10 n.val) r.lc[n])
     ∧ (∀ n : Fin 6, reads (0x028 + BitVec.ofNat 10 n.val) r.li[n]) ∧ (∀ n : Fin 8, reads (0x030 + BitVec.ofNat 10 n.val) r.harm[n])
     ∧ (x.inflight = [] → ∀ n : Fin 16, reads (0x040 + BitVec.ofNat 10 n.val) (ofN (core.mslot[n]).toNat))
     ∧ reads 0x060 (ofN x.cycle) ∧ reads 0x061 x.retired ∧ (∀ n : Fin 4, reads (0x062 + BitVec.ofNat 10 n.val) core.mcyc[n])
     ∧ reads 0x066 (ofN (s.clocks - (core.mcyc[0].toNat + core.mcyc[1].toNat + core.mcyc[2].toNat + core.mcyc[3].toNat)))
     ∧ reads 0x067 (ofN core.votecnt.toNat) ∧ reads 0x070 (ofN r.detmode.toNat) ∧ reads 0x071 (ofN x.lockstep.toNat)
     ∧ (x.inflight = [] → 96 ≤ s.focus % 128 → reads 0x080 (ofN (s.die (s.focus / 128)).xlroot.toNat))
     ∧ (∀ csr : BitVec 10, csr ∈ [0x009, 0x017, 0x026, 0x02E, 0x038, 0x050, 0x068, 0x072, 0x081, 0x3FF] →
         TrapsAs (.csrr g csr xd) s c ⟨causeIllegal, 1, Reason.csr.code + 256 * 0x18, 1⟩)
     ∧ (s.focus % 128 < 96 → TrapsAs (.csrr g 0x080 xd) s c ⟨causeIllegal, 1, Reason.csr.code + 256 * 0x18, 1⟩))
  ∧ (∀ (s : State) (c : Nat), MayIssue s c → ∀ (g : Guard), (s.regsOf c).rp g.p ≠ g.neg → ∀ (xa : Fin 32) (k lvl : Fin 8),
         let w := s.xr c xa
         let sets (i : Instr) (f : Regs → Regs) : Prop := IssuesAs i s c .c { regs := f, sets := true }
         (bits w.toNat 4 1 = 0 → sets (.csrw g 1 xa) (fun r => { r with trapvec := w }))
         ∧ (w.toNat < 2 ^ 11 → bits w.toNat 10 8 < 4 → bits w.toNat 7 5 < 5 → sets (.csrwMemdef g xa) (fun r => { r with memdef := w.truncate 11 }))
         ∧ sets (.csrwClm g xa) (fun r => { r with clm := if (s.ctx s.focus c).lockstep then w.truncate 8 &&& 0x55#8 else w.truncate 8 })
         ∧ sets (.csrwFramelen g xa) (fun r => { r with framelen := if w.toNat % 256 = 0 then r.framelen else w.truncate 8 })
         ∧ (w.toNat < 2 ^ 48 → sets (.csrwStepref g xa) (fun r => { r with stepref := w.truncate 48 }))
         ∧ sets (.csrwTrappc g xa) (fun r => { r with trappc := w })
         ∧ (bits w.toNat 4 1 = 0 → sets (.csrwHarm g k xa) (fun r => { r with harm := r.harm.set k w }))
         ∧ ((s.slotView c).levelT lvl.val = true →
             sets (.csrwLoopCount g false lvl xa) (fun r => { r with lc := r.lc.setIfInBounds lvl.val w })
             ∧ sets (.csrwLoopCount g true lvl xa) (fun r => { r with li := r.li.setIfInBounds lvl.val w })))

/-- R8, R92, R169, R206, R275. The registers that are written at P only: at P, DETMODE, an MSLOT entry and (on a control core) XLROOT change, whatever is
written to their reserved bits; at T the write traps PRIV with the register's number. A read-only register or a number the machine does not implement
is an illegal CSR use whatever the privilege, as is a value that MEMDEF refuses: bits above its fields, an ORD of 4 to 7 or a SCOPE of 5 to 7.
(Where a clause goes past the words of these rules it is the model's choice: assumption log 10, 15.) -/
def Obligations.PrivilegedRegisters : Prop :=
  ∀ (s : State) (c : Nat), MayIssue s c → ∀ (g : Guard), (s.regsOf c).rp g.p ≠ g.neg → ∀ (xa : Fin 32) (n : Fin 16),
    let w := s.xr c xa
    let x := s.ctx s.focus c
    let control : Prop := 96 ≤ s.focus % 128
    let csr : Trap := ⟨causeIllegal, 1, Reason.csr.code + 256 * 0x19, 1⟩
    let priv (m : Nat) : Trap := ⟨causePriv, 1, m, 2⟩
    (x.priv = true →
      IssuesAs (.csrwDetmode g xa) s c .c { regs := fun r => { r with detmode := w.getLsbD 0 }, sets := true }
      ∧ IssuesAs (.csrwMslot g n xa) s c .c { eff := [.mslot n (w.truncate 3)], sets := true }
      ∧ (control → IssuesAs (.csrwXlroot g xa) s c .c { eff := [.xlroot (w.truncate 32)], sets := true })
      ∧ (s.retiresAtOnce c {} = true →
          (∃ t, exec (.csrwMslot g n xa) s = .next t ∧ (t.core s.focus).mslot = (s.core s.focus).mslot.set n (w.truncate 3))
          ∧ (control → ∃ t, exec (.csrwXlroot g xa) s = .next t ∧ (t.die (s.focus / 128)).xlroot = w.truncate 32)))
    ∧ (x.priv = false →
      TrapsAs (.csrwDetmode g xa) s c (priv 0x070) ∧ TrapsAs (.csrwMslot g n xa) s c (priv (0x040 + n.val))
      ∧ (control → TrapsAs (.csrwXlroot g xa) s c (priv 0x080)))
    ∧ (¬ control → TrapsAs (.csrwXlroot g xa) s c csr)
    ∧ (∀ m : BitVec 10, m ≠ 1 → TrapsAs (.csrw g m xa) s c csr)
    ∧ (∀ (isIdx : Bool) (lvl : Fin 8), (s.slotView c).levelT lvl.val = false → TrapsAs (.csrwLoopCount g isIdx lvl xa) s c csr)
    ∧ (2 ^ 11 ≤ w.toNat ∨ 4 ≤ bits w.toNat 10 8 ∨ 5 ≤ bits w.toNat 7 5 → TrapsAs (.csrwMemdef g xa) s c csr)

/-! ### Synchronisation (spec/12 R218 and R223, spec/15, spec/16 R267) -/

/-- R249, R250, R254. WAITS takes cnt + 1 from a semaphore that holds it and blocks while it does not; SIGS adds cnt + 1 when its bundle retires,
saturating at 255: at once when it retires at issue, and when it retires later for the next cycle. -/
def Obligations.Semaphores : Prop :=
  (∀ (s : State) (k c : Nat) (b : Issued) (l : List Issued) (sm : Fin 16) (n : Nat), coreExists k = true → (s.ctx k c).inflight = b :: l →
    b.fault = none → b.conds = [] → b.eff = [.sem sm n] → (s.ctx k c).held = [] →
      ∃ t, exec (.bundleRetire k c) s = .next t ∧ (t.ctx k c).sm = (s.ctx k c).sm ∧ (t.ctx k c).raised = (s.ctx k c).raised ++ [(sm, n)]
        ∧ (t.ctx k c).inflight = l)
  ∧ (∀ (s : State) (k c : Nat) (sm : Fin 16) (n : Nat), (s.ctx k c).raised = [(sm, n)] → (s.ctx k c).status ≠ .saved →
      ((s.deliver k c).ctx k c).sm = (s.ctx k c).sm.set sm (BitVec.ofNat 8 (Nat.min 255 (((s.ctx k c).sm[sm]).toNat + n)))
      ∧ ((s.deliver k c).ctx k c).raised = [])
  ∧ ∀ (s : State) (c : Nat), MayIssue s c → ∀ (g : Guard), (s.regsOf c).rp g.p ≠ g.neg → ∀ (sm : Fin 16) (cnt : Fin 8),
    let have_ := ((s.ctx s.focus c).sm[sm]).toNat
    (cnt.val + 1 ≤ have_ →
      IssuesAs (.waits g sm cnt) s c .c { takes := [(sm, cnt.val + 1)] }
      ∧ ∃ t, exec (.waits g sm cnt) s = .next t ∧ (t.ctx s.focus c).sm = (s.ctx s.focus c).sm.set sm (BitVec.ofNat 8 (have_ - (cnt.val + 1))))
    ∧ (have_ < cnt.val + 1 → BlocksAs (.waits g sm cnt) s c)
    ∧ IssuesAs (.sigs g sm cnt) s c .c { eff := [.sem sm (cnt.val + 1)] }
    ∧ (s.retiresAtOnce c {} = true → ∃ t, exec (.sigs g sm cnt) s = .next t
        ∧ (t.ctx s.focus c).sm = (s.ctx s.focus c).sm.set sm (BitVec.ofNat 8 (Nat.min 255 (have_ + (cnt.val + 1)))))

/-- R242, R243, R245, R247, R254. An entry is bound at its first use to the address that the barrier map holds; ARRIVE sends an arrival at retire; BWAIT
without W has no effect, with W it waits until the phase has flipped, then clears W and acquires, or meets an uncorrectable error of the word. An arrival counts; the one that completes the phase
flips it and clears the count.
(Where a clause goes past the words of these rules it is the model's choice: assumption log 16, 83.) -/
def Obligations.Barriers : Prop :=
  (∀ (s : State) (c : Nat), MayIssue s c → ∀ (g : Guard), (s.regsOf c).rp g.p ≠ g.neg → ∀ (bk : Fin 16),
    let v := s.slotView c
    (∀ a, v.bind bk 1 = .ok a →
      IssuesAs (.arrive g bk) s c .c { regs := v.bound bk, eff := [.arrive bk] }
      ∧ (((s.ctx s.focus c).bars[bk]).w = false → IssuesAs (.bwait g bk) s c .c { regs := v.bound bk })
      ∧ (((s.ctx s.focus c).bars[bk]).w = true → s.poisoned (v.barVar a) 8 = true → TrapsAs (.bwait g bk) s c ⟨causeEcc, 1, a, 6⟩)
      ∧ (((s.ctx s.focus c).bars[bk]).w = true → s.poisoned (v.barVar a) 8 = false → v.phaseFlipped bk a = true →
          IssuesAs (.bwait g bk) s c .c { regs := v.bound bk, eff := [.bwait bk], conds := [.acquire (v.barVar a) 3] })
      ∧ (((s.ctx s.focus c).bars[bk]).w = true → s.poisoned (v.barVar a) 8 = false → v.phaseFlipped bk a = false → BlocksAs (.bwait g bk) s c))
    ∧ (∀ t, v.bind bk 1 = .error t → TrapsAs (.arrive g bk) s c (v.withOpcode 0x0A t) ∧ TrapsAs (.bwait g bk) s c (v.withOpcode 0x0B t))
    ∧ (∀ a, (s.regsOf c).barAddr[bk] = some a → v.bind bk 1 = .ok a))
  ∧ (∀ w : Word64,
      let r := arriveWord w.toNat
      r.2 = bitAt w.toNat 63 ∧ bits r.1 62 32 = bits w.toNat 62 32
      ∧ (bits w.toNat 31 0 + 1 < bits w.toNat 62 32 → bits r.1 31 0 = bits w.toNat 31 0 + 1 ∧ bitAt r.1 63 = bitAt w.toNat 63)
      ∧ (bits w.toNat 62 32 ≤ bits w.toNat 31 0 + 1 → bits r.1 31 0 = 0 ∧ bitAt r.1 63 = !bitAt w.toNat 63))

/-- R251, R252, R254, R267. FENCE, ACQ and TFENCE hold their bundle's retire back; REL releases at retire. The variable of ACQ and REL is an aligned
address; a misaligned or untranslated one traps.
(Where a clause goes past the words of these rules it is the model's choice: assumption log 18.) -/
def Obligations.FencesAcquireRelease : Prop :=
  ∀ (s : State) (c : Nat), MayIssue s c → ∀ (g : Guard), (s.regsOf c).rp g.p ≠ g.neg →
    ∀ (xa : Fin 32) (scope : Fin 8) (remote : Bool) (bsel : Fin 4) (imm : BitVec 16),
    let v := s.slotView c
    let a := (s.xr c xa).toNat
    IssuesAs (.fence g scope) s c .c { conds := [.fence scope.val] }
    ∧ IssuesAs (.tfence remote bsel imm) s c .e
        { conds := [.tfence (if bsel.val = 0 then imm.toNat else if bsel.val = 1 then imm.toNat * 2 ^ 16 else imm.toNat * 0x10001) remote] }
    ∧ (∀ var, v.syncVar a = .ok var →
        IssuesAs (.acq g xa scope) s c .c { conds := [.acquire var scope.val] } ∧ IssuesAs (.rel g xa scope) s c .c { eff := [.release var scope.val false] })
    ∧ (∀ t, v.syncVar a = .error t → TrapsAs (.acq g xa scope) s c t ∧ TrapsAs (.rel g xa scope) s c t)
    ∧ (a % 8 ≠ 0 → v.syncVar a = .error ⟨causeMisaligned, 1, a, 5⟩) ∧ (a % 8 = 0 → a < 2 ^ 21 → v.syncVar a = .ok (spadAddr s.focus a))
    ∧ (2 ^ 52 ≤ a → a % 8 = 0 → v.syncVar a = .error ⟨causeXlate, 1, a, 6⟩)

/-- R216, R218. BANKACQ waits until every bank of its mask is owned; BANKREL gives up the owned banks of its mask at retire; a mask beyond the kernel's
claim is BADVALUE.
R223. STENLD loads the lines from scratchpad banks of the context; entry i of the range is written 1 + i / 16 cycles after issue, with its 32 bytes. A
range past entry 511 or a reserved bit is BADVALUE, a misplaced source the fault of its place, a source that reaches the end of the scratchpad XLATE, an
uncorrectable error in it, in no word that something queued renews, ECC_UNCORRECTABLE.
(Where a clause goes past the words of these rules it is the model's choice: assumption log 39, 83.) -/
def Obligations.BanksAndStencils : Prop :=
  (∀ (s : State) (c : Nat), MayIssue s c → ∀ (g : Guard), (s.regsOf c).rp g.p ≠ g.neg → ∀ (xa : Fin 32),
     let v := s.slotView c
     let m := (s.xr c xa).toNat
     let bad (op : Nat) : Trap := ⟨causeIllegal, 1, Reason.badValue.code + 256 * op, 1⟩
     let inClaim : Prop := m < 2 ^ 32 ∧ m &&& v.claim = m
     (inClaim → (∀ b, b < 32 → bitAt m b = true → (s.core s.focus).owns c b = true) → IssuesAs (.bankacq g xa) s c .c {})
     ∧ (∀ b, inClaim → b < 32 → bitAt m b = true → (s.core s.focus).owns c b = false → BlocksAs (.bankacq g xa) s c)
     ∧ (inClaim → IssuesAs (.bankrel g xa) s c .c { eff := [.bankRel m] })
     ∧ (inClaim → s.retiresAtOnce c {} = true → ∃ t, exec (.bankrel g xa) s = .next t ∧ ∀ b : Fin 32,
         (t.core s.focus).banks[b] = (if bitAt m b.val = true ∧ (s.core s.focus).owns c b.val = true
           then { (s.core s.focus).banks[b] with releasing := true } else (s.core s.focus).banks[b]))
     ∧ (¬ inClaim → TrapsAs (.bankacq g xa) s c (bad 0x0F) ∧ TrapsAs (.bankrel g xa) s c (bad 0x10)))
  ∧ (∀ (s : State) (c : Nat), MayIssue s c → ∀ (g : Guard), (s.regsOf c).rp g.p ≠ g.neg → ∀ (xn xa : Fin 32),
         let v := s.slotView c
         let a := (s.xr c xa).toNat
         let w := (s.xr c xn).toNat
         let first := bits w 8 0
         let count := bits w 24 16 + 1
         let shaped : Prop := first + count ≤ 512 ∧ bits w 15 9 = 0 ∧ bits w 63 25 = 0
         let inBanks : Prop := shaped ∧ a % 32 = 0 ∧ a + 32 * count ≤ 2 ^ 21 ∧ v.unusable a (32 * count) = none
         (inBanks → (∀ i, i < count → s.poisoned (spadAddr s.focus (a + 32 * i)) 32 = false) → IssuesAs (.stenld g xn xa) s c .c
           { loads := (List.range ((count + 15) / 16)).map fun j =>
               { lat := 1 + j, dest := .stencil (first + 16 * j) (min 16 (count - 16 * j)), ln := none,
                 pieces := (List.range (min 16 (count - 16 * j))).map fun i =>
                   { off := 32 * (first + 16 * j + i), len := 32, ea := a + 512 * j + 32 * i, loc := .spad (a + 512 * j + 32 * i) } } })
         ∧ (∀ i, inBanks → i < count → s.poisoned (spadAddr s.focus (a + 32 * i)) 32 = true →
             (∀ j, j < i → s.poisoned (spadAddr s.focus (a + 32 * j)) 32 = false) → (∀ x, v.renewed x = false) →
             TrapsAs (.stenld g xn xa) s c ⟨causeEcc, 1, a + 32 * i, 6⟩)
         ∧ (¬ shaped → TrapsAs (.stenld g xn xa) s c ⟨causeIllegal, 1, Reason.badValue.code + 256 * 0x1A, 1⟩)
         ∧ (shaped → a % 32 ≠ 0 → TrapsAs (.stenld g xn xa) s c ⟨causeMisaligned, 1, a, 5⟩)
         ∧ (shaped → a % 32 = 0 → 2 ^ 21 < a + 32 * count → TrapsAs (.stenld g xn xa) s c ⟨causeXlate, 1, max a (2 ^ 21), 5⟩)
         ∧ (∀ b, shaped → a % 32 = 0 → a + 32 * count ≤ 2 ^ 21 → v.unusable a (32 * count) = some b →
             TrapsAs (.stenld g xn xa) s c ⟨causeNotOwned, 1, b, 5⟩))
  ∧ (∀ (first n : Nat) (bs : List Byte) (r : Regs) (i : Nat),
      AMap.getD (((LoadDest.stencil first n).result bs).write r).sten i 0 =
        if first ≤ i ∧ i < first + n then BitVec.ofNat 256 (leValue ((bs.drop (32 * i)).take 32)) else AMap.getD r.sten i 0)

/-- R230, R231, R232. LAUNCH reads its descriptor at issue and sends one request to the die's scheduler, CANCEL sends a handle; the answer is due in xd 64
cycles after issue and the bundle retires when it has landed. A misaligned or unreadable descriptor, or one with an uncorrectable error, traps; a
handle of more than 32 bits is BADVALUE.
R182, R190. WAITC waits until every chunk of its mask is marked in the card's completion bits, or the card has failed; a card address that is
misaligned or in no bank of the context traps, as does an uncorrectable error in a word that it reads.
(Where a clause goes past the words of these rules it is the model's choice: assumption log 38, 83.) -/
def Obligations.SchedulerCallsAndCardWaits : Prop :=
  (∀ (s : State) (c : Nat), MayIssue s c → ∀ (g : Guard), (s.regsOf c).rp g.p ≠ g.neg → ∀ (xd xa : Fin 32),
     let v := s.slotView c
     let a := (s.xr c xa).toNat
     let asks (i : Instr) (far : Bool) (cancel : Option Nat) (desc : List Byte) : Prop :=
       (∃ o, IssuesAs i s c .c o ∧ o.conds = [.landed] ∧ o.res = [] ∧ o.eff = [] ∧ o.target = none
         ∧ o.loads = [{ lat := 64, dest := .scalar xd 8 false, pieces := [], extra := [⟨0, 8, 0, none, none, none, 0, none⟩] }])
       ∧ ∃ t r, exec i s = .next t ∧ t.sched = s.sched ++ [r] ∧ r.core = s.focus ∧ r.ctx = c ∧ r.bid = (s.ctx s.focus c).nextBid ∧ r.cancel = cancel
           ∧ r.desc = desc ∧ s.sfc < r.readyAt ∧ (far = false → r.readyAt = s.sfc + 1)
     (∀ w, a % 128 = 0 → v.locate 6 a false = .ok w → v.poisonedAt w 128 = false → asks (.launch g xd xa) w.far none (v.readNow w 128))
     ∧ (∀ w, a % 128 = 0 → v.locate 6 a false = .ok w → v.poisonedAt w 128 = true → TrapsAs (.launch g xd xa) s c ⟨causeEcc, 1, a, 6⟩)
     ∧ (a % 128 ≠ 0 → TrapsAs (.launch g xd xa) s c ⟨causeMisaligned, 1, a, 5⟩)
     ∧ (∀ f, a % 128 = 0 → v.locate 6 a false = .error f → TrapsAs (.launch g xd xa) s c ⟨f.cause, 1, a, f.rank⟩)
     ∧ (a < 2 ^ 32 → asks (.cancel g xd xa) false (some a) [])
     ∧ (2 ^ 32 ≤ a → TrapsAs (.cancel g xd xa) s c ⟨causeIllegal, 1, Reason.badValue.code + 256 * 0x12, 1⟩))
  ∧ (∀ (s : State) (c : Nat), MayIssue s c → ∀ (g : Guard), (s.regsOf c).rp g.p ≠ g.neg → ∀ (xm xc : Fin 32),
         let v := s.slotView c
         let a := (s.xr c xc).toNat
         let done := BitVec.ofNat 64 (leValue (s.spadIssue s.focus c (a + 0x20) 8))
         let status := bits (leValue (s.spadIssue s.focus c (a + 0x18) 8)) 63 56
         let there : Prop := done &&& s.xr c xm = s.xr c xm ∨ (status ≠ 0 ∧ status ≠ 0xFF)
         let bad (o : Nat) : Bool := s.poisoned (spadAddr s.focus (a + o)) 8
         (a % 256 = 0 → a < 2 ^ 21 → (s.core s.focus).usable c (a / 65536) = true →
           (bad 0x18 = false → bad 0x20 = false → (there → IssuesAs (.waitc g xm xc) s c .c {}) ∧ (¬ there → BlocksAs (.waitc g xm xc) s c))
           ∧ ((∀ x, v.renewed x = false) →
               (bad 0x18 = true → TrapsAs (.waitc g xm xc) s c ⟨causeEcc, 1, a + 0x18, 6⟩)
               ∧ (bad 0x18 = false → bad 0x20 = true → TrapsAs (.waitc g xm xc) s c ⟨causeEcc, 1, a + 0x20, 6⟩)))
         ∧ (a % 256 ≠ 0 → TrapsAs (.waitc g xm xc) s c ⟨causeMisaligned, 1, a, 5⟩)
         ∧ (a % 256 = 0 → 2 ^ 21 ≤ a → TrapsAs (.waitc g xm xc) s c ⟨causeXlate, 1, a, 5⟩)
         ∧ (a % 256 = 0 → a < 2 ^ 21 → (s.core s.focus).usable c (a / 65536) = false → TrapsAs (.waitc g xm xc) s c ⟨causeNotOwned, 1, a, 5⟩))


/-! ### Matrix and scale slots (spec/09) -/

/-- R163, R165, R166, R167, R168. On a worker core MPSET, MOSET and the K slot write their registers after the latency of each (KLD a load of 128 bytes);
MDRAIN takes two rows of a tile, lane by lane, 8 cycles after issue, once nothing of the context still writes the tile, and the running chunk gives way
at the accumulator port; MBOOK puts a valid descriptor into the pattern book at retire, where a later one of the core is not there. An uncorrectable
error in what KLD or MBOOK reads, in no word that something queued renews, traps.
(Where a clause goes past the words of these rules it is the model's choice: assumption log 30, 39, 83.) -/
def Obligations.MatrixRegisters : Prop :=
  ∀ (s : State) (c : Nat), MayIssue s c → isWorker s.focus = true → ∀ (n : Fin 8) (o : Fin 4) (xa vd : Fin 32) (inc : BitVec 12) (idx tile : Fin 256) (pair : Fin 32) (clr : Bool)
    (ks ka mp j : Fin 8),
    let v := s.slotView c
    let r := s.regsOf c
    let core := s.core s.focus
    let k := bits (r.mp[mp]).toNat 20 0 + 128 * j.val
    let a := (s.xr c xa).toNat
    let ls := (s.ctx s.focus c).lockstep
    let desc := BitVec.ofNat 256 (leValue (s.spadIssue s.focus c a 32))
    IssuesAs (.mpset n xa) s c .m { res := [(1, .mp n (s.xr c xa))] }
    ∧ IssuesAs (.moset o xa inc) s c .m { res := [(1, .mo o ⟨(s.xr c xa).truncate 22, inc⟩)] }
    ∧ IssuesAs (.kmov ks ka) s c .k { res := [(1, .ks ks r.ks[ka])] }
    ∧ IssuesAs (.kset ks mp j) s c .k { res := [(1, .ks ks (Vector.replicate 128 (BitVec.ofNat 8 ((r.mp[mp]).toNat / 2 ^ (8 * j.val)))))] }
    ∧ (k % 128 = 0 → k < 2 ^ 21 → core.usable c (k / 65536) = true → s.poisoned (spadAddr s.focus k) 128 = true → (∀ x, v.renewed x = false) →
        TrapsAs (.kld ks mp j) s c ⟨causeEcc, 8, k, 6⟩)
    ∧ (k % 128 = 0 → k < 2 ^ 21 → core.usable c (k / 65536) = true → s.poisoned (spadAddr s.focus k) 128 = false → IssuesAs (.kld ks mp j) s c .k
        { loads := [{ lat := 5, dest := .scale ks, ln := none, pieces := [{ off := 0, len := 128, ea := k, loc := .spad k }] }] })
    ∧ (k % 128 ≠ 0 → TrapsAs (.kld ks mp j) s c ⟨causeMisaligned, 8, k, 5⟩)
    ∧ (k % 128 = 0 → k < 2 ^ 21 → core.usable c (k / 65536) = false → TrapsAs (.kld ks mp j) s c ⟨causeNotOwned, 8, k, 5⟩)
    ∧ (core.tileBusy c tile.val = false → IssuesAs (.mdrain vd tile pair clr) s c .m
        { res := [(8, .v vd (clusterMask r.clm ls) (Vector.ofFn fun i : Fin 128 =>
            let j := srcLane ls i.val
            if (s.ctx s.focus c).clearsAhead tile.val pair.val j then 0
            else (core.accRow tile.val (2 * pair.val + j / 64))[j % 64]?.getD 0))]
          state := fun u _ => u.modCore s.focus fun x => { x with mrun := x.mrun.map fun r => r.giveWay u.sfc }
          eff := if clr then [.accClear tile.val pair.val v.ownClusters] else [], arrive := .landing })
    ∧ (core.tileBusy c tile.val = true → BlocksAs (.mdrain vd tile pair clr) s c)
    ∧ (a % 32 = 0 → a < 2 ^ 21 → core.usable c (a / 65536) = true →
        (s.poisoned (spadAddr s.focus a) 32 = false → descValid desc = true → IssuesAs (.mbook idx xa) s c .m { eff := [.book idx.val desc s.clocks] })
        ∧ (s.poisoned (spadAddr s.focus a) 32 = false → descValid desc = false →
            TrapsAs (.mbook idx xa) s c ⟨causeIllegal, 5, Reason.badValue.code + 256 * 0x07, 1⟩)
        ∧ (s.poisoned (spadAddr s.focus a) 32 = true → (∀ x, v.renewed x = false) → TrapsAs (.mbook idx xa) s c ⟨causeEcc, 5, a, 6⟩))
    ∧ (a % 32 ≠ 0 → TrapsAs (.mbook idx xa) s c ⟨causeMisaligned, 5, a, 5⟩)

/-- R158, R160, R161, R162, R164, R166, R169. MCALL, MFEED and MZERO put one item at the end of the engine queue, numbered in order and eligible from their
bundle's retire; MCALL waits for its slot of the matrix slot table and for a free entry, and traps on an empty book entry, a register that breaks the
rules, a bank the context may not use, or a bank conflict of its rows; MFEED advances its offset register, and traps where its step's rows do so.
(Where a clause goes past the words of these rules it is the model's choice: assumption log 28, 29, 83.) -/
def Obligations.MatrixQueue : Prop :=
  ∀ (s : State) (c : Nat), MayIssue s c → isWorker s.focus = true → ∀ (idx first cnt : Fin 256) (n : Fin 4),
    let v := s.slotView c
    let d := v.book idx.val
    let r := v.routine d
    let once := s.retiresAtOnce c { eff := [.matrix (s.ctx s.focus c).nextBid] }
    let queues (i : Instr) (work : MatWork) (sem : Option (Fin 16)) (mo : Vector MatOff 4) : Prop :=
      ∃ t l it, exec i s = .next t ∧ (t.core s.focus).mq = l ++ [it] ∧ l.length = (s.core s.focus).mq.length
        ∧ (t.core s.focus).nextOrder = (s.core s.focus).nextOrder + 1 ∧ (t.regsOf c).mo = mo
        ∧ it = { ctx := c, bid := (s.ctx s.focus c).nextBid, order := (s.core s.focus).nextOrder, addr := (s.regsOf c).pc, work := work,
                 eligible := once, since := if once then s.sfc else 0, chunk := 0, charge := Vector.replicate 4 0,
                 notify := { core := s.focus, ctx := c, sem := sem, arrive := none } }
    let sound : Prop := v.mcallBlocked = false ∧ s.poisoned (bookWord s.focus idx.val) 8 = false
    (sound → d ≠ 0 → r.misaligned = none → v.ownFault r.rows r.planes = none → r.conflict = none →
      queues (.mcall idx) (.routine r) (if dsc d 204 204 = 1 then some (fin16 (dsc d 203 200)) else none) (s.regsOf c).mo)
    ∧ (v.mcallBlocked = true → BlocksAs (.mcall idx) s c)
    ∧ (v.mcallBlocked = false → s.poisoned (bookWord s.focus idx.val) 8 = true → TrapsAs (.mcall idx) s c ⟨causeEcc, 5, 0, 6⟩)
    ∧ (sound → d = 0 → TrapsAs (.mcall idx) s c ⟨causeIllegal, 5, Reason.badValue.code + 256 * 0x01, 1⟩)
    ∧ (∀ a, sound → d ≠ 0 → r.misaligned = some a → TrapsAs (.mcall idx) s c ⟨causeMisaligned, 5, a, 5⟩)
    ∧ (∀ t, sound → d ≠ 0 → r.misaligned = none → v.ownFault r.rows r.planes = some t →
        TrapsAs (.mcall idx) s c t ∧ t.cause = causeNotOwned ∧ t.slot = 5)
    ∧ (∀ t, sound → d ≠ 0 → r.misaligned = none → v.ownFault r.rows r.planes = none → r.conflict = some t →
        TrapsAs (.mcall idx) s c t ∧ t.cause = causeConflict ∧ t.slot = 5)
    ∧ ((s.core s.focus).matrixEntries c < 8 → queues (.mzero first cnt) (.zero first.val (cnt.val + 1)) none (s.regsOf c).mo)
    ∧ (8 ≤ (s.core s.focus).matrixEntries c → BlocksAs (.mzero first cnt) s c)
    ∧ (∀ bid q st, (s.core s.focus).needsStep c = some (bid, q, st) → v.mfeedTrap n = none → (s.core s.focus).matrixEntries c < 8 →
        queues (.mfeed n) (.feed bid ((s.regsOf c).mo[n]).off) none
          ((s.regsOf c).mo.set n { (s.regsOf c).mo[n] with off := ((s.regsOf c).mo[n]).off + ((s.regsOf c).mo[n]).inc.signExtend 22 }))
    ∧ (∀ q t, (s.core s.focus).needsStep c = some q → v.mfeedTrap n = some t → (s.core s.focus).matrixEntries c < 8 → TrapsAs (.mfeed n) s c t)
    ∧ ((s.core s.focus).needsStep c = none → TrapsAs (.mfeed n) s c ⟨causeIllegal, 5, Reason.badValue.code + 256 * 0x03, 1⟩)

/-! ### Engine slot (spec/10, 16, 18, 19, 20, 21) -/

/-- R135, R259, R260, R261, R263. The trowel commands of the E slot: a store-op command over a vector, or a range command over n + 1 vectors, is withheld
for its bank until its bundle retires, 12 cycles after issue when it goes through the window; a full queue of the bank blocks; a misplaced
operand traps, an overlapping pair array as ILLEGAL_BUNDLE before anything else. In an own bank the context may use, the place is the address. The
store-op commands, which take a vector, run on worker cores alone.
(Where a clause goes past the words of these rules it is the model's choice: assumption log 23.) -/
def Obligations.TrowelCommands : Prop :=
  ∀ (s : State) (c : Nat), MayIssue s c → ∀ (vs xa xb : Fin 32) (fmt : Fin 8) (imm : BitVec 13) (n : Fin 128),
    let v := s.slotView c
    let ea := (s.xr c xa + imm.signExtend 64 * 64).toNat
    let a := (s.xr c xa).toNat
    let sent (far : Bool) (k x : Nat) (op : TrowelOp) : SlotOut :=
      { eff := [.trowel k far op x (s.ctx s.focus c).nextBid none]
        conds := if far then [.cycle ((s.ctx s.focus c).cycle + 12)] else [], arrive := .engine }
    let storeOp (i : Instr) (op len : Nat) : Prop :=
      let place := v.trowelPlace ea 64 len
      (∀ k x, place = .ok (k, x) → s.queueHeld k (x / 65536) < 16 →
        IssuesAs i s c .e (sent (isWindow ea) k x (.store op fmt.val v.ownClusters ((s.regsOf c).rv vs))))
      ∧ (∀ k x, place = .ok (k, x) → 16 ≤ s.queueHeld k (x / 65536) → BlocksAs i s c)
      ∧ (∀ t, place = .error t → TrapsAs i s c t)
    let range (i : Instr) (op : Nat) (operand : Word64) : Prop :=
      let place := v.trowelPlace a 64 (512 * (n.val + 1))
      (∀ k x, place = .ok (k, x) → v.rangeTrap op (n.val + 1) a (s.xr c xb).toNat = none → s.queueHeld k (x / 65536) < 16 →
        IssuesAs i s c .e (sent (isWindow a) k x (.range op fmt.val (n.val + 1) operand)))
      ∧ (∀ k x, place = .ok (k, x) → v.rangeTrap op (n.val + 1) a (s.xr c xb).toNat = none → 16 ≤ s.queueHeld k (x / 65536) → BlocksAs i s c)
      ∧ (∀ t, v.rangeTrap op (n.val + 1) a (s.xr c xb).toNat = some t →
          t.rank = 1 ∨ (∀ k x, place = .ok (k, x) → s.queueHeld k (x / 65536) < 16) → TrapsAs i s c (v.withOpcode op t))
    (isWorker s.focus = true →
      storeOp (.taddv vs xa fmt imm) 0x08 512 ∧ storeOp (.tmaxv vs xa fmt imm) 0x09 512 ∧ storeOp (.tmulv vs xa fmt imm) 0x0A 512
      ∧ storeOp (.texpsv vs xa fmt imm) 0x0B 1024)
    ∧ range (.tscal xb xa fmt n) 0x0C (s.xr c xb) ∧ range (.tfill xb xa fmt n) 0x0D (s.xr c xb)
    ∧ range (.tsumr xb xa fmt n) 0x0E (s.xr c xb &&& 0x1FFFFF) ∧ range (.tmaxr xb xa fmt n) 0x0F (s.xr c xb &&& 0x1FFFFF)
    ∧ range (.texpn xb xa fmt n) 0x10 (s.xr c xb &&& 0x1FFFFF)
    ∧ (∀ align len, 0 < len → len ≤ 65536 → a % align = 0 → a % 65536 + len ≤ 65536 → a < 2 ^ 21 →
        v.trowelPlace a align len = if (s.core s.focus).usable c (a / 65536) then .ok (s.focus, a) else .error ⟨causeNotOwned, 7, a, 5⟩)

/-- R259, R266. An atomic takes its operands from the two halves of xd, goes to its bank's queue in the cycle after issue when nothing else of the context
is under way, and its old word lands through a landing slot at the arrival distance; a busy landing slot or a full queue blocks; a misplaced word traps.
(Where a clause goes past the words of these rules it is the model's choice: assumption log 22.) -/
def Obligations.Atomics : Prop :=
  ∀ (s : State) (c : Nat), MayIssue s c → ∀ (xd xa ln : Fin 32) (arr : BitVec 8),
    let v := s.slotView c
    let a := (s.xr c xa).toNat
    let bid := (s.ctx s.focus c).nextBid
    let atomic (i : Instr) (op : Nat) : Prop :=
      let work (x : Nat) : BankWork := .trowel (.atomic op ((s.xr c xd).truncate 32) ((s.xr c xd >>> 32).truncate 32)) x bid none
      (∀ k x, v.trowelPlace a 4 4 = .ok (k, x) → v.slotBusy ln = false → s.queueHeld k (x / 65536) < 16 →
        (∃ o, IssuesAs i s c .e o ∧ o.conds = [.landed] ∧ o.res = [] ∧ o.eff = []
          ∧ o.loads = [{ lat := arr.toNat, dest := .atomic xd, ln := some ln, pieces := [], extra := [⟨0, 8, a, none, none, none, 0, none⟩] }])
        ∧ (k = s.focus → (s.ctx s.focus c).inflight = [] → (s.ctx s.focus c).pend = [] → (s.ctx s.focus c).held = [] → ∃ t it, exec i s = .next t
            ∧ (t.bank k (x / 65536)).queue = (s.bank k (x / 65536)).queue ++ [it] ∧ it.core = s.focus ∧ it.ctx = c ∧ it.work = work x
            ∧ it.notBefore = s.sfc + 1 ∧ it.ends = none))
      ∧ (∀ t, v.trowelPlace a 4 4 = .error t → v.slotBusy ln = false → TrapsAs i s c t)
      ∧ (∀ k x, v.trowelPlace a 4 4 = .ok (k, x) → v.slotBusy ln = true ∨ 16 ≤ s.queueHeld k (x / 65536) → BlocksAs i s c)
    atomic (.tfaa xd xa ln arr) 0x11 ∧ atomic (.tfaab xd xa ln arr) 0x12 ∧ atomic (.tincw xd xa ln arr) 0x13 ∧ atomic (.tdecw xd xa ln arr) 0x14
    ∧ atomic (.tcas xd xa ln arr) 0x15 ∧ atomic (.txchg xd xa ln arr) 0x16

/-- R182, R183, R258. On a worker core CSEQ and JOB hand the card at their address to the copy sequencer when they retire, behind the context's trowel
commands in the card's bank; a JOB takes its footprint entries at issue; they wait for one of the 16 card entries (a JOB also for its footprint
entries), and a misaligned address, or one in no bank of the context, traps.
(Where a clause goes past the words of these rules it is the model's choice: assumption log 36.) -/
def Obligations.CopyCards : Prop :=
  ∀ (s : State) (c : Nat), MayIssue s c → isWorker s.focus = true → ∀ (xa : Fin 32) (q : Fin 16),
    let v := s.slotView c
    let core := s.core s.focus
    let a := (s.xr c xa).toNat
    let room : Prop := (s.die (s.focus / 128)).fpUsed + (v.entries (some q.val) a).2 ≤ 1024
    let hands (i : Instr) (queue : Option Nat) : Prop :=
      let n := v.entries queue a
      IssuesAs i s c .e
        { eff := [.card a queue { core := s.focus, ctx := c, sem := none, arrive := none } n.1 n.2], arrive := .engine
          conds := v.afterCommands a 256, state := fun u _ => u.takeFootprints s.focus c n.1 n.2 }
    (a % 256 = 0 → a < 2 ^ 21 → core.usable c (a / 65536) = true →
      (core.cardsHeld < 16 → hands (.cseq xa) none ∧ (room → hands (.job xa q) (some q.val)))
      ∧ (16 ≤ core.cardsHeld → BlocksAs (.cseq xa) s c ∧ BlocksAs (.job xa q) s c) ∧ (¬ room → BlocksAs (.job xa q) s c))
    ∧ (core.cardsHeld < 16 → a % 256 ≠ 0 → TrapsAs (.cseq xa) s c ⟨causeMisaligned, 7, a, 5⟩ ∧ TrapsAs (.job xa q) s c ⟨causeMisaligned, 7, a, 5⟩)
    ∧ (core.cardsHeld < 16 → a % 256 = 0 → a < 2 ^ 21 → core.usable c (a / 65536) = false →
        TrapsAs (.cseq xa) s c ⟨causeNotOwned, 7, a, 5⟩ ∧ TrapsAs (.job xa q) s c ⟨causeNotOwned, 7, a, 5⟩)

/-- R287, R293, R294, R296, R297, R309, R310, R313. The skim and step commands at issue: each reserves an entry of the slice of its row (a step
command of the region's slice 0) with its core's next number there, and goes out when its bundle retires, 12 cycles after issue; a full admission
queue or 32 awaited replies block; failing checks trap. COATW takes no entry. SKU, which takes a vector, runs on worker cores alone.
(Where a clause goes past the words of these rules it is the model's choice: assumption log 7.) -/
def Obligations.RegionCommands : Prop :=
  ∀ (s : State) (c : Nat), MayIssue s c → ∀ (vs xa xb xc : Fin 32) (op2 mode : Fin 4) (lfmt : Fin 8) (id : Fin 64) (off : BitVec 8) (sen drop : Bool)
    (sem : Fin 16),
    let v := s.slotView c
    let a := (s.xr c xa).toNat
    let b := (s.xr c xb).toNat
    let d := (s.xr c xc).toNat
    let tells (sen : Bool) (sem : Fin 16) : Notify := { core := s.focus, ctx := c, sem := if sen then some sem else none, arrive := none }
    let cyc := (s.ctx s.focus c).cycle
    let command (i : Instr) (opc : Nat) (trap : Option Trap) (coord replies : Bool) (n : Notify) (op : SkimOp) : Prop :=
      (∀ r g sl, trap = none → s.regionAt a = some (r, g) → v.skimBlocks a coord replies = false →
        let ix := if coord then 0 else g.sliceOf (a - g.base)
        AMap.get? s.regions r = some g → g.slices[ix]? = some sl →
        let cmd : SkimCmd := { core := s.focus, ctx := c, bid := (s.ctx s.focus c).nextBid, notify := n, off := a - g.base, op := op,
                               seq := AMap.getD sl.seqs s.focus 0, retiredAt := 0, coat := none, order := 0, silent := false }
        ∃ t g', exec i s = .next t ∧ (t.ctx s.focus c).inflight = (s.ctx s.focus c).inflight ++
            [{ bid := (s.ctx s.focus c).nextBid, addr := v.addr, next := v.next, snap := s.issueRegs c, eff := [.skim r ix cmd],
               conds := [.cycle (cyc + 12)], fault := none, takes := [] }]
          ∧ AMap.get? t.regions r = some g' ∧ (∀ j, j ≠ ix → g'.slices[j]? = g.slices[j]?)
          ∧ g'.slices[ix]? = some { sl with reserved := sl.reserved + 1, seqs := AMap.set sl.seqs s.focus ((AMap.getD sl.seqs s.focus 0 + 1) % 2 ^ 32) })
      ∧ (trap = none → v.skimBlocks a coord replies = true → BlocksAs i s c)
      ∧ (∀ t, trap = some t → v.skimBlocks a coord replies = false → TrapsAs i s c (v.withOpcode opc t))
    (isWorker s.focus = true → command (.sku vs xa op2 sen sem) 0x20 (v.skuTrap a op2.val) false false (tells sen sem) (.sku op2.val v.ownClusters ((s.regsOf c).rv vs)))
    ∧ command (.skr xb xa xc sen sem) 0x21 (v.skrTrap a b d) false true (tells sen sem) (.skr b d)
    ∧ command (.wldRel xa xb lfmt mode off) 0x22 (v.wldTrap a b lfmt.val) false true (tells (bitAt b 25) (fin16 (bits b 24 21)))
        (.wld (bits b 20 0) lfmt.val mode.val (((s.regsOf c).stepref.toNat : Int) + off.toInt))
    ∧ command (.wldAbs xa xb lfmt mode xc) 0x22 (v.wldTrap a b lfmt.val) false true (tells (bitAt b 25) (fin16 (bits b 24 21)))
        (.wld (bits b 20 0) lfmt.val mode.val (bits d 47 0 : Nat))
    ∧ command (.stepc xa xb xc sen sem) 0x23 (v.stepcTrap xa xb xc) true true (tells sen sem) (.stepc b (if xc.val = 0 then none else some d))
    ∧ command (.lwm xa xb id drop) 0x24 (v.lwmTrap xa xb drop) true false (tells false 0) (.lwm b id.val drop)
    ∧ command (.stepq xa xb sen sem) 0x25 (firstOf [aligned7 b 32, v.pageTrap a Leaf.step, v.ownedSpan b 32]) true true (tells sen sem) (.stepq b)
    ∧ (∀ r g, v.coatwTrap a d = none → s.regionAt a = some (r, g) → v.awaiting < 32 → IssuesAs (.coatw xa xb xc sen sem) s c .e
        { eff := [.coatw r
            { target := b % 2 ^ 32, reply := d,
              cmd := { core := s.focus, ctx := c, bid := (s.ctx s.focus c).nextBid, notify := tells sen sem, off := a - g.base, op := .skr 0 d,
                       seq := 0, retiredAt := 0, coat := none, order := 0, silent := false } }]
          conds := [.cycle (cyc + 12)], arrive := .engine })
    ∧ (v.coatwTrap a d = none → 32 ≤ v.awaiting → BlocksAs (.coatw xa xb xc sen sem) s c)
    ∧ (∀ t, v.coatwTrap a d = some t → v.awaiting < 32 → TrapsAs (.coatw xa xb xc sen sem) s c (v.withOpcode 0x26 t))

/-- R257, R330, R343. The channel commands, SEND and BANKMODE at issue: what they ask for is withheld until their bundle retires (12 cycles after issue
for those that leave the core); a bad control value, a misplaced operand or reply word, or a bank that is not owned traps.
(Where a clause goes past the words of these rules it is the model's choice: assumption log 7.) -/
def Obligations.ChannelCommands : Prop :=
  ∀ (s : State) (c : Nat), MayIssue s c → ∀ (xa xb xc bank : Fin 32) (mode : Fin 4) (sen : Bool) (sem : Fin 16),
    let v := s.slotView c
    let a := (s.xr c xa).toNat
    let w := (s.xr c xb).toNat
    let d := (s.xr c xc).toNat
    let tells : Notify := { core := s.focus, ctx := c, sem := if sen then some sem else none, arrive := none }
    let away (e : Effect) : SlotOut := { eff := [e], conds := [.cycle ((s.ctx s.focus c).cycle + 12)], arrive := .engine }
    let asks (op : ChanOp) : SlotOut := away (.chan (bits w 8 0)
      { core := s.focus, ctx := c, notify := tells, reply := d, op := op, silent := false, taken := false })
    let command (i : Instr) (opc : Nat) (trap : Option Trap) (o : SlotOut) : Prop :=
      (trap = none → IssuesAs i s c .e o) ∧ (∀ t, trap = some t → TrapsAs i s c (v.withOpcode opc t))
    command (.ttload xa xb xc sen sem) 0x28 (v.ttloadTrap a w d) (asks (.load a (bits w 25 16 + 1)))
    ∧ command (.ttgo xa xb xc sen sem) 0x29 (v.ttgoTrap a w d) (asks (.go a (bitAt w 16) (bitAt w 17)))
    ∧ command (.ttstop xb xc sen sem) 0x2A
        (firstOf [if 512 ≤ w then some ⟨causeIllegal, 7, Reason.badValue.code, 1⟩ else none,
                  if d % 8 = 0 then none else some ⟨causeMisaligned, 7, d, 5⟩,
                  if 2 ^ 21 ≤ d then some ⟨causeXlate, 7, d, 5⟩ else none, v.ownedSpan d 8]) (asks .stop)
    ∧ command (.chpwr xb xc sen sem) 0x2B (v.chpwrTrap w d) (asks (.power (bits w 17 16)))
    ∧ command (.send xa xb xc sen sem) 0x30 (v.sendTrap a w d) (away (.send a (64 * (bits w 7 0 + 1))
        { id := 0, notify := tells, bytes := [], cls := bits w 10 8, core := 128 * bits w 24 23 + bits w 22 16, bank := bits w 15 11,
          remote := if bitAt w 29 then some (bits w 28 25) else none, reply := d, readyAt := 0, silent := false }))
    ∧ command (.bankmode bank mode sen sem) 0x31 (bankModeTrap (s.core s.focus) c bank.val)
        { eff := [.bankMode bank.val mode.val tells (illegalInfo none 0x31 .badValue)], arrive := .engine }
    ∧ (∀ x len, x < 2 ^ 21 → 0 < len → len ≤ 65536 → x % 65536 + len ≤ 65536 → (s.core s.focus).usable c (x / 65536) = true → v.ownedSpan x len = none)

/-! ### Time (spec/02, 11) -/

/-- R32 to R36, R43, R230, R379. Landings. In a cycle in which no load is due, what is due lands; with a load due it lands once the load's data are back, and
until then the core's clock freezes (in deterministic mode the bundle due raises LATE as well, even in a freeze); a scheduler's answer that the decisions of
the cycle may still give is looked for again after them. The freeze ends, and everything due lands, when no context lacks data; a cycle that the core skips
has no landings. What lands goes in order of its bundles and, within one, of its slots, the later write standing; a faulted result writes nothing.
(Where a clause goes past the words of these rules it is the model's choice: assumption log 7, 12, 38, 94.) -/
def Obligations.Landings : Prop :=
  ∀ (s : State) (k c : Nat), coreExists k = true →
    let x := s.ctx k c
    let due := x.pend.filter fun p => p.isDue x.cycle
    let wait := due.any fun p => p.isLoad && !p.back s.sfc
    let first := x.pend.find? fun p => p.isDue x.cycle && p.isLoad && !p.back s.sfc
    let t := s.landDue k c
    ((s.core k).frozen = false → due.any Pend.isLoad = false → exec (.resultLanding k c) s = .next t)
    ∧ ((s.core k).skipped = false → (s.core k).frozen = false → due.any Pend.isLoad = true → wait = false → exec (.landing k c) s = .next t)
    ∧ ((s.core k).skipped = true → exec (.landing k c) s = .next s)
    ∧ ((s.core k).skipped = false → wait = true → first.any Pend.answer = false → x.regs.detmode = false →
        exec (.landing k c) s = .next (s.modCore k fun q => { q with frozen := true }))
    ∧ ((s.core k).skipped = false → wait = true → first.any Pend.answer = false → x.regs.detmode = true → x.late = none →
        ∃ n, (n = 32 ∨ ∃ p ∈ due, p.ln.map Fin.val = some n) ∧ exec (.landing k c) s =
          .next ((s.modCtx k c fun y => { y with late := some n }).modCore k fun q => { q with frozen := true }))
    ∧ (∀ p, first = some p → p.answer = true → s.agenda.contains (.landing k c) = true → (s.core k).skipped = false →
        exec (.landing k c) s = .next (if (s.core k).frozen then s else s.landEarlier k c p.bid))
    ∧ ((s.core k).frozen = true → (s.core k).skipped = false → (∀ n, n < 4 → ((s.core k).ctx n).lateData s.sfc = false) →
        ∃ u, exec (.lateDataReturn k) s = .next u ∧ (u.core k).frozen = false)
    ∧ ((s.core k).skipped = true ∨ (∃ n, n < 4 ∧ ((s.core k).ctx n).lateData s.sfc = true) → exec (.lateDataReturn k) s = .next s)
    ∧ (∃ l : List Pend, l.Perm due ∧ l.Pairwise (fun a b => a.before b = true) ∧
      (x.lockstep = false → (∀ p ∈ due, p.arrive = none ∧ p.fault = none ∧ p.isStencil = false ∧ (∀ first l, p.kind ≠ .value (.stens first l))
            ∧ p.withoutRaces 0 = p) →
        t = s.modCtx k c fun y => l.foldl (fun y p => match p.dest? with | some d => y.land p.bid d | none => y)
              { y with pend := y.pend.filter fun p => !p.isDue y.cycle }))
    ∧ (∀ (p : Pend) (r : Fin 32) (n ea ac : Nat) (signed : Bool) (bs : List Byte) (w : Option Where) (at_ after : Option Nat), bs.length = n → p.fault = none →
        p.kind = .load (.scalar r n signed) [⟨0, n, ea, w, some bs, at_, ac, after⟩] → p.dest? = some (.x r
          (if signed ∧ 2 ^ (8 * n) ≤ 2 * leValue bs then BitVec.ofNat 64 (leValue bs) - BitVec.ofNat 64 (2 ^ (8 * n)) else BitVec.ofNat 64 (leValue bs))))

/-- R27, R28, R29, R30, R82, R94, R110, R196 to R198, R216, R362, R371, R379. Retire, and the issue port. The oldest bundle of a context retires when its
conditions hold: at a cycle of the context, or before that when it is waited for. If it has a fault it traps: its registers as the bundle found them, with
the trap's cause, slot, information and addresses, and the program counter at the handler, if the context has one and it is free. A condition that has
cleared makes a context READY, once its placement is complete; the run limit hands the port on; an idle port goes to the lowest READY context; a frozen or
halted core issues nothing, but in a cycle that it skips the bundle at issue keeps the SFC value that its stamp names; the second core of a PAIRED pair
does what the first one did; an armed breakpoint pre-empts; a patched stencil word issues its bundle.
(Where a clause goes past the words of these rules it is the model's choice: assumption log 6, 11, 13, 82, 83, 85, 88, 91, 99, 100.) -/
def Obligations.RetireAndPort : Prop :=
  ∀ (s : State) (k c : Nat), coreExists k = true → c < 4 →
    let x := s.ctx k c
    let core := s.core k
    (x.inflight = [] → exec (.bundleRetire k c) s = .next s)
    ∧ (∀ b l t, x.inflight = b :: l → b.fault = some t → ∃ u, exec (.bundleRetire k c) s = .next u
        ∧ (u.ctx k c).inflight = x.inflight.filter (fun i => i.bid < b.bid) ∧ (u.ctx k c).pend = (x.pend.filter fun p => p.bid < b.bid).map (fun p => p.withoutRaces b.bid)
        ∧ (u.ctx k c).regs = { b.snap with
            trappc := BitVec.ofNat 64 b.addr, trapnpc := BitVec.ofNat 64 b.next, trapcause := BitVec.ofNat 64 t.cause,
            trapslot := BitVec.ofNat 64 t.slot, trapinfo := BitVec.ofNat 64 t.info, hnd := true,
            pc := if b.snap.trapvec.getLsbD 0 ∧ b.snap.hnd = false ∧ t.cause ≠ causeVote ∧ t.cause ≠ causeLockstep
              then b.snap.trapvec.toNat / 32 * 32 else b.addr })
    ∧ (∀ b l n, x.inflight = b :: l → b.fault = none → b.eff = [] → b.conds = [.cycle n] → x.held = [] → (∀ p ∈ x.pend, p.unbound = []) →
        exec (.bundleRetire k c) s = .next (if n ≤ x.cycle ∨ s.pressed k c b.bid n = true then s.modCtx k c fun y => { y with inflight := y.inflight.drop 1, retired := y.retired + 1 } else s))
    ∧ (x.status = .blocked → x.ending = false → core.port ≠ some (ctxNo c) → core.frozen = false → x.preempt = none → x.killing = false →
        exec (.blockClear k c) s = .next (if core.placing c || s.stillBlocked k c then s else s.modCtx k c fun y => { y with status := .ready }))
    ∧ (∀ n, core.port = some (ctxNo c) → x.status = .running → x.regs.detmode = false → core.frozen = false → core.nextReady c = some n →
        core.portAt ≤ core.cycle + 2 →
        (core.heldFor < 1024 → exec (.runLimit k) s = .next (s.setCore k { core with heldFor := core.heldFor + 1 }))
        ∧ (1024 ≤ core.heldFor → ∃ u, exec (.runLimit k) s = .next u ∧ (u.ctx k c).status = .ready ∧ (u.core k).port = some n
            ∧ (u.ctx k n.val).status = .running ∧ (u.core k).portAt = core.cycle + (if x.lastIssue = core.cycle + 1 then 3 else 2)))
    ∧ (s.repeats k = false → core.skipped = false → core.frozen = true ∨ core.halted = true ∨ s.overheated = true →
        exec (.bundleIssue k) s = .next { s with focus := k })
    ∧ (s.repeats k = false → core.skipped = true → core.frozen = true → ∀ n v uses,
        ({ core with frozen := false, skipped := false, cycle := core.cycle + 1 } : Core).claimPort.retest.issuer = some n →
        ({ s with focus := k } : State).bundleAt k n = some (v, uses) → v.stamped = true → v.beforeStart = false →
        (∀ t, v.ctx.task = some t → t.started = true) →
        exec (.bundleIssue k) s = .next (({ s with focus := k } : State).modCtx k n fun y =>
          { y with target := some v.stampTarget, regs := { y.regs with resumePos := none } }))
    ∧ (s.repeats k = true → exec (.bundleIssue k) s = .next
        (if (s.core (k - 1)).frozen then { s with focus := k }
          else ({ s with focus := k } : State).modCore k fun q => { q with past := ((s.core (k - 1)).ctxs, (s.core (k - 1)).port) :: q.past.take 2 }))
    ∧ (isWorker k = true → core.frozen = false → core.halted = false → s.overheated = false → core.port = none → x.status = .ready → (∀ n, n < c → (s.ctx k n).status ≠ .ready) →
        exec (.bundleIssue k) s = exec (.bundleIssue k) (s.setCore k
          { core.modCtx c (fun y => { y with status := .running }) with
            port := some (ctxNo c), portAt := core.cycle, heldFor := if (core.nextReady c).isSome then 1 else 0 }))
    ∧ (isWorker k = true → s.overheated = false → core.issuer = some c → core.breaksAt x.regs.pc = true → ∃ u, exec (.bundleIssue k) s = .next u
        ∧ u.ctx k c = { x with preempt := some x.area, stopped := true, late := none })
    ∧ (s.focus = k → s.overheated = false → core.issuer = some c → ∀ (idx : Fin 512) (patch : BitVec 7),
        let line := s.codeLine c
        let w := (AMap.getD x.regs.sten idx.val 0).toNat
        s.codeLine c < 2 ^ 255 →
        (s.poisoned (stenWord k c idx.val) 8 = true → exec (.stencilWord idx patch) s =
          .next ((s.viewAt k c line plainHeader none (some idx.val)).trapNow ⟨causeEcc, 0, 0, 6⟩))
        ∧ (s.poisoned (stenWord k c idx.val) 8 = false → ∀ b bd, patchBundle w patch.toNat = .ok b → decodeBundle b = .ok bd → exec (.stencilWord idx patch) s =
          .next (issueBundle (s.viewAt k c line bd.hdr (modpOf bd.e) (some idx.val)) (slotUses (bundleSlots b bd))))
        ∧ (s.poisoned (stenWord k c idx.val) 8 = false → ∀ r, patchBundle w patch.toNat = .error r → exec (.stencilWord idx patch) s =
          .next ((s.viewAt k c line plainHeader none (some idx.val)).trapNow ⟨causeIllegal, 0, r.code + 2 ^ 16 + 2 ^ 17 * idx.val, 1⟩)))

/-- R27, R80 to R83, R95. A step runs what it finds. The step at the head of the agenda happens; with none left the next core cycle begins. When a worker
core's issuing context stands at a full line, its bundle issues, all eight slots at once; for a line that holds one instruction this is the meaning of
that instruction. An illegal bundle, or an address with no bundle, is an ILLEGAL_BUNDLE; of a bundle whose header lets its slots be read, that of the
barrier register which the header fails to bind, else that of the first slot which its bits, or the core and context, make illegal.
(Where a clause goes past the words of these rules it is the model's choice: assumption log 6, 10; BADLINE of a stencil line has STENCIL and INDEX 0:
assumption log 96.) -/
def Obligations.StepRunsDecoded : Prop :=
  (∀ (s : State) (i : Instr) (rest : List Instr), s.agenda = i :: rest → step s = exec i { s with agenda := rest })
  ∧ (∀ s : State, s.agenda = [] → step s = .next (nextCycle s))
  ∧ ∀ (s : State) (k c : Nat) (rest : List Instr) (t : Task) (line : Nat), s.agenda = .bundleIssue k :: rest → coreExists k = true → isWorker k = true →
    s.overheated = false → (s.core k).issuer = some c → (s.core k).breaksAt (s.ctx k c).regs.pc = false → (s.ctx k c).task = some t →
    let s' := ({ s with agenda := rest, focus := k } : State).setCore k (s.core k)
    let pc := (s.ctx k c).regs.pc
    (s.fetchLine t pc = some line →
      (∀ b bd, decodeLine line (pc % 32) = .ok (.full b) → decodeBundle b = .ok bd →
        step s = .next (issueBundle (s'.viewAt k c line bd.hdr (modpOf bd.e) none) (slotUses (bundleSlots b bd))))
      ∧ (∀ b e, decodeLine line (pc % 32) = .ok (.full b) → decodeBundle b = .error e →
        let w := s'.viewAt k c line (decodeHeader b) none none
        let header := if headerFault (decodeHeader b) then none else w.headerIllegal
        step s = .next (w.trapNow ((header.orElse fun _ => w.firstSlotFault b).getD ⟨causeIllegal, e.slot, e.reason.code + 256 * e.opcode, 1⟩)))
      ∧ (∀ idx patch, decodeLine line (pc % 32) = .ok (.word (.stencilWord idx patch)) → step s = exec (.stencilWord idx patch) s')
      ∧ (∀ r, decodeLine line (pc % 32) = .error r →
        step s = .next ((s'.viewAt k c line plainHeader none none).trapNow ⟨causeIllegal, 0, r.code, 1⟩))
      ∧ (∀ i sl, i.wf = true → slotOf i = some sl → i ≠ nopOf sl → modpOf i = none → pc % 32 = 0 → line = bundleOfSlot sl (encode i) → step s = exec i s'))
    ∧ (s.fetchLine t pc = none → step s = .next ((s'.viewAt k c (2 ^ 255) plainHeader none none).trapNow ⟨causeIllegal, 0, Reason.badLine.code, 1⟩))

/-- R38, R174, R193, R201 to R205, R207, R220, R270, R299, R343, R356, R360, R371. What firmware and messages do to contexts: a pre-emption waits for the context's
bundles and data, except the values of atomics, after a precise stop for its results as well, and saves it; a restore puts it onto a FREE context as its image says, READY unless it was TRAPPED and
gets no program counter; a kill discards what has not retired; a drained context, killed or ended, leaves its task once its writes are performed at SYS
scope, and is FREE; a message goes to the lowest DORMANT context that has armed its class, at its handler.
(Where a clause goes past the words of these rules it is the model's choice: assumption log 48, 49.) -/
def Obligations.ContextMoves : Prop :=
  ∀ (s : State) (k c : Nat), coreExists k = true → c < 4 →
    let x := s.ctx k c
    let core := s.core k
    (∀ area, exec (.preemptRequest k c area) s = .next (if x.status.preemptible then s.modCtx k c fun y => { y with preempt := some area, area := area } else s))
    ∧ (∀ area, x.preempt = some area → core.frozen = false → x.status.preemptible = true → (∀ i ∈ x.inflight, x.onlyAtomic i = true) → x.held = [] →
        (∀ p ∈ x.pend, p.drained s.sfc = true) → (x.stopped = true → x.pend = []) →
        let y := { x with inflight := [], retired := x.retired + BitVec.ofNat 64 x.inflight.length }
        ∃ u, exec (.contextSaved k c) s = .next u
          ∧ u.ctx k c = { y with status := .saved, before := x.status, preempt := none, stopped := false, target := none, savedPos := s.sfc,
                                 issueAt := x.issueAt - core.cycle }
          ∧ (core.port = some (ctxNo c) → (u.core k).port ≠ some (ctxNo c))
          ∧ u.mem = (s.writeImage k area (y.imageParts core c s.sfc)).mem)
    ∧ (x.preempt ≠ none → (∃ i ∈ x.inflight, x.onlyAtomic i = false) ∨ x.held ≠ [] ∨ (x.stopped = true ∧ x.pend ≠ []) → exec (.contextSaved k c) s = .next s)
    ∧ (∀ (dst : Nat) (pc : Option (BitVec 64)), dst < 4 → x.status = .saved → (s.ctx k dst).status = .free → s.owes k c = false →
        s.writesQueued k c = false → (∀ p ∈ x.pend, p.back s.sfc = true) →
        let y := s.loadCtx k x
        ∃ u r, exec (.contextRestore k c dst pc) s = .next u
          ∧ r = (s.loadImage k x.area x.regs).resumeAt (match x.task with | some t => t.started | none => true) x.savedPos s.sfc
          ∧ (u.ctx k dst).regs = (match pc with | some a => { r with pc := a.toNat } | none => r)
          ∧ (u.ctx k dst).status = (if pc = none ∧ x.before = .trapped then .trapped else .ready)
          ∧ (u.ctx k dst).issueAt = core.cycle + (match pc with | some _ => max x.issueAt (lastLanding y) | none => x.issueAt)
          ∧ (u.ctx k dst).task = x.task ∧ (u.ctx k dst).pend = y.pend ∧ (u.ctx k dst).cycle = y.cycle ∧ (u.ctx k dst).retired = y.retired
          ∧ (u.ctx k dst).sm = y.sm ∧ (u.ctx k dst).hawks = y.hawks ∧ (u.ctx k dst).bars = y.bars ∧ (u.ctx k c).status = .free ∧ (u.ctx k c).task = none ∧ u.mem = s.mem)
    ∧ (x.status ≠ .free → x.status ≠ .killed → ∃ u, exec (.killRequest k c) s = .next u
        ∧ (u.ctx k c).status = .killed ∧ (u.ctx k c).pend = [] ∧ (u.ctx k c).held = [] ∧ (u.ctx k c).task = x.task ∧ u.mem = s.mem
        ∧ (∀ b l, x.inflight = b :: l → (u.ctx k c).inflight = x.inflight.filter (fun i => i.bid < b.bid))
        ∧ (∀ d, d ∈ (u.core k).cards → d.ctx = c → d.stopped = true ∧ d.silent = true)
        ∧ (core.port = some (ctxNo c) → (u.core k).port ≠ some (ctxNo c)))
    ∧ (x.status = .free ∨ x.status = .killed → exec (.killRequest k c) s = .next s)
    ∧ (x.status = .killed → s.owes k c = true → exec (.killDrainComplete k c) s = .next s)
    ∧ (∀ t, x.status = .killed → s.owes k c = false → x.task = some t →
        let v := s.writeBack k c (fun _ => true)
        (v.fenced k c 4 = false → exec (.killDrainComplete k c) s = .next v)
        ∧ (v.fenced k c 4 = true → ∃ u, exec (.killDrainComplete k c) s = .next u
            ∧ (u.ctx k c).status = .free ∧ (u.ctx k c).task = none ∧ u.mem = s.mem
            ∧ u.launches = s.launches.map (fun l => if l.handle = t.launch then { l with gone := l.gone + 1 } else l)
            ∧ ∀ b : Fin 32, (u.core k).banks[b].releasing = (core.banks[b].releasing || decide (core.banks[b].owner = some t.id))))
    ∧ (∀ t, x.status = .blocked → x.ending = true → x.inflight = [] → x.pend = [] → x.held = [] → s.owes k c = false → x.task = some t →
        let v := s.writeBack k c (fun _ => true)
        (v.fenced k c 4 = false → exec (.endDrainComplete k c) s = .next v)
        ∧ (v.fenced k c 4 = true → ∃ u, exec (.endDrainComplete k c) s = .next u ∧ (u.ctx k c).status = .free ∧ (u.ctx k c).task = none
            ∧ u.launches = s.launches.map (fun l => if l.handle = t.launch then { l with ended := l.ended + 1 } else l)))
    ∧ (∀ (b : Nat) (m : FifoMsg) (l : List FifoMsg), b < 32 → (core.bank b).fifo = m :: l → m.taker = none → m.cls < 8 → core.sleeperFor m.cls = some c →
        ∃ u, exec (.messageDelivery k b) s = .next u ∧ (u.ctx k c).status = .ready
          ∧ (u.ctx k c).regs.msginfo = BitVec.ofNat 64 (m.cls * 2 ^ 37 + m.len % 65536 * 2 ^ 21 + (b * 65536 + m.addr) % 2 ^ 21)
          ∧ (∀ w, x.regs.harm[m.cls]? = some w → (u.ctx k c).regs.pc = w.toNat / 32 * 32 ∧ (u.ctx k c).regs.harm[m.cls]? = some (w &&& ~~~1#64)))
    ∧ (∀ b, (∀ m ∈ (core.bank b).fifo, m.taker = none → core.sleeperFor m.cls = none) → exec (.messageDelivery k b) s = .next s)

/-! ### Launches, tasks and banks (spec/12, 13, 14) -/

/-- R195, R212, R215, R216, R218, R219, R225, R230 to R239. The scheduler's steps. A round dispatches the next task of the first head that can place
one, once the placement before is complete: its context is READY at the kernel's entry, with its own loop indices (BLOCKED while the records wait in a
bank behind what reached it before); a BOUND deterministic group gets a start of at least 1,024 cycles on, a multiple of 64; a released bank passes to
its pledgee or is free once its owner's writes into it, and the records, are performed; a request is decided after it is read and answered in xd, and a
bundle one of whose effects traps is not applied; a launch completes when its tasks have ended, with its completion word told to the host.
(Where a clause goes past the words of these rules it is the model's choice: assumption log 38, 43 to 46, 92, 100, 101, 105, 106.) -/
def Obligations.Launches : Prop :=
  (∀ (s : State) (die : Nat), die < 4 →
    let t := s.turnGroups die
    (t.placing die = true → exec (.dispatchRound die) s = .next t)
    ∧ ((∀ l ∈ t.heads die, t.dispatchTask l = none) → exec (.dispatchRound die) s = .next t)
    ∧ (∀ pre l rest u, t.placing die = false → t.heads die = pre ++ l :: rest → (∀ x ∈ pre, t.dispatchTask x = none) →
        t.dispatchTask l = some u → exec (.dispatchRound die) s = .next (u.turnGroups die)))
  ∧ (∀ (s : State) (l : Launch) (kn : Kernel) (k c : Nat), AMap.get? s.kernels l.kernel = some kn → s.reserveOk l kn = true → c < 4 →
    let kinds := kn.levels.map fun x => x.kind
    let idx := taskIndices kinds l.counts l.dispatched
    s.placeFor l kn ((l.die + indexOver kinds l.counts idx LevelKind.isD) % 4) (indexOver kinds l.counts idx LevelKind.isC) = some (k, c) →
    ∃ u t, s.dispatchTask l = some u ∧ (u.ctx k c).task = some t
      ∧ ((∀ b : Fin 32, bitAt kn.claim b.val = true ∧ (s.core k).banks[b].owner = none ∨ (s.core k).banks[b].owner = some s.nextTask →
          (s.core k).banks[b].queue = []) → (u.ctx k c).status = .ready)
      ∧ ((u.ctx k c).status = .ready ∨ (u.ctx k c).status = .blocked ∧ u.placing (k / 128) = true)
      ∧ t = { id := s.nextTask, launch := l.handle, kernel := l.kernel, index := l.dispatched, counts := l.counts, kinds := kinds, idx := idx,
              started := false }
      ∧ (u.ctx k c).regs.pc = 32 * kn.entry ∧ (u.ctx k c).regs.x = Vector.replicate 32 0 ∧ (u.ctx k c).regs.sten = kn.sten
      ∧ (u.ctx k c).priv = l.priv ∧ (u.ctx k c).lockstep = l.lockstep ∧ (u.ctx k c).sm = Vector.replicate 16 0
      ∧ (∀ (i : Fin 6) kd n x, kinds[i.val]? = some kd → l.counts[i.val]? = some n → idx[i.val]? = some x → kd.spatial = true →
          (u.ctx k c).regs.li[i] = BitVec.ofNat 64 x ∧ (u.ctx k c).regs.lc[i] = BitVec.ofNat 64 (n - x - 1))
      ∧ ∀ b : Fin 32, bitAt kn.claim b.val = true → (s.core k).banks[b].owner = none → (u.core k).banks[b].owner = some s.nextTask)
  ∧ (∀ (s : State) (h : Nat) (l : Launch), s.launch? h = some l →
    let reached := s.cores.all fun e => s.diesJoined l.die (e.1 / 128) || e.2.ctxs.all fun x => !x.task.any fun t => decide (t.launch = h)
    (l.deterministic = true → l.group = .bound → l.start = none → reached = false → exec (.groupStart h) s = .next s)
    ∧ (l.deterministic = true → l.group = .bound → l.start = none → reached = true → ∃ u a, exec (.groupStart h) s = .next u
      ∧ l.lastPlaced + 1024 ≤ a ∧ a < l.lastPlaced + 1024 + 64 ∧ a % 64 = 0
      ∧ u = { s with cores := u.cores, launches := s.launches.map fun x => if x.handle = h then { x with start := some a } else x }
      ∧ ∀ k c, c < 4 → ((AMap.get? s.cores k).isSome = true →
          u.ctx k c = if (s.ctx k c).task.any (fun t => decide (t.launch = h))
            then { s.ctx k c with regs := { (s.ctx k c).regs with startAt := some a, origin := BitVec.ofNat 64 a } } else s.ctx k c))
    ∧ (s.launchDone l = false → exec (.launchComplete h) s = .next s)
    ∧ (s.launchDone l = true → ∃ u, exec (.launchComplete h) s = .next u
        ∧ u.launches.map Launch.handle = (s.launches.map Launch.handle).filter (fun x => x ≠ h)
        ∧ ⟨.completion, h, l.word / 2 ^ 56, [l.word]⟩ ∈ u.out
        ∧ (∀ t ∈ l.killTags, ⟨.response, t, stOk, []⟩ ∈ u.out)
        ∧ (l.cancelled = none → l.failedDep = false → l.gone = 0 → l.word = statusWord stOk l.ended 0)))
  ∧ (∀ (s : State) (k b : Nat), coreExists k = true → b < 32 →
    let x := s.bank k b
    let quiet := ∀ c, x.owner.bind (s.core k).ctxOf = some c → (s.core k).bankQuiet k c b = true
    let last := ∀ it ∈ x.queue, it.ctx ≠ schedParty
    (x.releasing = false → x.passing = false → exec (.bankHandover k b) s = .next s)
    ∧ (¬ quiet → x.passing = false → exec (.bankHandover k b) s = .next s)
    ∧ (x.passing = true → ¬ last → exec (.bankHandover k b) s = .next s)
    ∧ (x.passing = true → last → exec (.bankHandover k b) s = .next (s.modBank k b fun y =>
        { y with owner := x.pledge, pledge := none, releasing := false, passing := false }))
    ∧ (x.releasing = true → quiet → x.passing = false → x.pledge = none → last → exec (.bankHandover k b) s = .next (s.modBank k b fun y =>
        { y with owner := none, pledge := none, releasing := false, passing := false }))
    ∧ (x.releasing = true → quiet → x.passing = false → ∃ u, exec (.bankHandover k b) s = .next u
        ∧ ((u.bank k b).owner = x.pledge ∧ (u.bank k b).pledge = none ∧ (u.bank k b).releasing = false ∧ (u.bank k b).passing = false
          ∨ (u.bank k b).owner = x.owner ∧ (u.bank k b).pledge = x.pledge ∧ (u.bank k b).passing = true
            ∧ ∃ it ∈ (u.bank k b).queue, it.ctx = schedParty)
        ∧ (u.bank k b).mode = x.mode))
  ∧ (∀ (s : State) (die : Nat), die < 4 →
    let asked (s : State) (r : SchedReq) : State := if r.core / 128 = die ∧ r.readyAt ≤ s.sfc then (s.fetchSectors r.sectors).2 else s
    let v := s.sched.foldl asked s
    let ready (r : SchedReq) : Bool := decide (r.core / 128 = die) && v.requestReady r && (v.fetchSectors r.sectors).1
    ((∀ r ∈ v.sched, ready r = false) → exec (.launchDecision die) s = .next v)
    ∧ (∀ r t, v.sched.find? ready = some r → (v.requestTrap r).1 = some t →
        exec (.launchDecision die) s = .next ((v.requestTrap r).2.modCtx r.core r.ctx fun x => x.faultOldest t))
    ∧ (∀ r, v.sched.find? ready = some r → (v.requestTrap r).1 = none →
        let w : State := { (v.requestTrap r).2 with sched := (v.requestTrap r).2.sched.filter fun x => x.seq ≠ r.seq }
        let final (i : Issued) : Issued := if i.bid = r.bid then { i with final := true } else i
        let answer (u : State) (n : Nat) : State := (u.fillLoad r.core r.ctx r.bid .c 0 (leBytes 8 n) (some u.sfc)).modCtx r.core r.ctx
          fun y => { y with inflight := y.inflight.map final }
        let parent := (w.ctx r.core r.ctx).task.bind fun t => w.launch? t.launch
        (∀ h, r.cancel = some h → exec (.launchDecision die) s =
          .next (answer (w.cancelLaunch (h % 2 ^ 32)).2 (w.cancelLaunch (h % 2 ^ 32)).1))
        ∧ (r.cancel = none → parent = none → exec (.launchDecision die) s = .next (answer w (stPoolFull * 2 ^ 56)))
        ∧ (∀ p, r.cancel = none → parent = some p →
          let d := w.decideLaunch die (ctlCq p.desc) r.desc false (some p.handle)
          exec (.launchDecision die) s = .next (answer d.2.2 (d.1 * 2 ^ 56 + d.2.1)))))
  ∧ ∀ (s : State) (h : Nat),
    (s.launch? h = none → s.cancelLaunch h = (if s.completed h then 2 else 3, s))
    ∧ ∀ l, s.launch? h = some l → (l.dispatched = l.tasks → s.cancelLaunch h = (2, s))
      ∧ (l.dispatched ≠ l.tasks → l.dispatched ≠ 0 → (s.cancelLaunch h).1 = 1 ∧ (s.cancelLaunch h).2 =
          s.modLaunch h fun x => { x with cancelled := some (x.cancelled.getD 0), group := .draining })
      ∧ (l.dispatched ≠ l.tasks → l.dispatched = 0 → (s.cancelLaunch h).1 = 0 ∧ (s.cancelLaunch h).2.launches.map Launch.handle =
          (s.launches.map Launch.handle).filter (fun x => x ≠ h))

/-! ### Host commands (spec/12, 13, 17, 18, 23, 24) -/

/-- R204, R212 to R214, R225, R227, R228, R231 to R234. The host's kernel, launch and queue commands, each answered with its tag: KLOAD loads an image that
passes its checks, KRETIRE takes no more launches of it, LAUNCH is decided as a launch, CANCEL answers its code, KILL kills every dispatched task,
and the queue commands move the queue's state. A header that is refused, or a module that is not READY, answers ATTR and does nothing else.
(Where a clause goes past the words of these rules it is the model's choice: assumption log 43, 45, 70, 74.) -/
def Obligations.HostQueues : Prop :=
  ∀ (s : State) (h : HostHdr) (image desc : List (BitVec 8)) (x : Nat) (flag : Bool),
    let q := h.queue % 16
    let mine (l : Launch) : Bool := decide (l.die = h.die % 4 ∧ l.queue = q)
    let put (s : State) (f : LaunchQueue → LaunchQueue) : State :=
      let queues := (s.die h.die).queues.set (fin16 q) (f ((s.die h.die).queue q))
      { s with dies := s.dies.set (dieIx h.die) { s.die h.die with queues := queues } }
    let set (s : State) (f : QueueState → QueueState) : State := put s fun y => { y with state := f y.state }
    let state := ((s.die h.die).queue q).state
    let stop (l : Launch) : Launch :=
      if mine l = true ∧ l.dispatched < l.tasks ∧ l.cancelled = none then { l with cancelled := some 2, group := .draining } else l
    let reply (s : State) (status : Nat) (data : List Nat) : Host.Outcome State Fault Refusal :=
      .next { s with out := s.out ++ [⟨.response, h.tag, status, data⟩] }
    (badHeader h = true ∨ s.takesCommands = false →
      ∀ i ∈ [Instr.kload h image, .kretire h x, .hostLaunch h desc, .hostCancel h x, .kill h x, .qpause h, .qresume h, .qdrain h, .qreset h, .qstat h,
        .qdet h flag], exec i s = reply s stAttr [])
    ∧ (badHeader h = false → s.takesCommands = true →
      (imgRefusal image = 0 → exec (.kload h image) s =
        reply { s with kernels := AMap.set s.kernels s.nextKernel (kernelOf image), nextKernel := s.nextKernel + 1 } stOk [s.nextKernel])
      ∧ (imgRefusal image ≠ 0 → exec (.kload h image) s = reply s (imgRefusal image) [])
      ∧ (AMap.get? s.kernels x = none → exec (.kretire h x) s = reply s stAttr [])
      ∧ (∀ kn, AMap.get? s.kernels x = some kn → kn.state = .loaded → ∃ u, exec (.kretire h x) s = reply u stOk []
          ∧ u = { s with kernels := u.kernels } ∧ AMap.get? u.kernels x =
            some { kn with state := if (s.launches.any fun l => decide (l.kernel = x)) then .retiring else .retired })
      ∧ (desc.length ≠ 128 → exec (.hostLaunch h desc) s = reply s stAttr [])
      ∧ (desc.length = 128 → ∃ priv, let d := { s with free := s.free + 1 }.decideLaunch (h.die % 4) q desc priv none
          exec (.hostLaunch h desc) s = reply d.2.2 d.1 (if d.1 = stOk then [d.2.1] else []))
      ∧ exec (.hostCancel h x) s = reply (s.cancelLaunch (x % 2 ^ 32)).2 (s.cancelLaunch (x % 2 ^ 32)).1 []
      ∧ (s.launch? x = none → exec (.kill h x) s = reply s stOk [])
      ∧ (∀ l, s.launch? x = some l → ∃ u, exec (.kill h x) s = .next u ∧ u.out = s.out ∧ u.mem = s.mem
          ∧ u.launches = s.launches.map (fun y => if y.handle = x then
              { y with cancelled := some (y.cancelled.getD 1), group := .draining, killTags := y.killTags ++ [h.tag] } else y)
          ∧ ∀ p ∈ s.contextsOf x, (u.ctx p.1 p.2).status = .killed)
      ∧ exec (.qpause h) s = reply (set s fun y => if y = .idle ∨ y = .active then .paused else y) stOk []
      ∧ exec (.qresume h) s = reply (set s fun y => if y = .paused then (if s.launches.any mine then .active else .idle) else y) stOk []
      ∧ exec (.qdrain h) s = reply (set s fun y => if y = .idle ∨ y = .active ∨ y = .paused then .draining else y) stOk []
      ∧ exec (.qreset h) s = reply (set { s with launches := s.launches.map stop } fun _ => .idle) stOk []
      ∧ exec (.qstat h) s = reply s stOk [state.code, (s.launches.filter mine).length, (s.die h.die).poolFree]
      ∧ (state = .idle → exec (.qdet h flag) s = reply (put s fun y => { y with det := flag }) stOk [])
      ∧ (state ≠ .idle → exec (.qdet h flag) s = reply s stAttr []))

/-! ### Engines and banks (spec/09, 10, 15, 16, 17) -/

/-- R169 to R174, R180, R184 to R188. The matrix engine and the copy sequencer. The engine takes the oldest item of the matrix slot's owner, else the oldest
by issue of those that the four contexts offer; a chunk that has ended adds its products to the tile, one rounding an element; a completed item raises its semaphore unless its context is
killed, and an MZERO clears its tiles. A card starts checked and in order, a copy reads its pieces and then writes them,
each finished copy counts, a faulted one stops the card, and a completed card writes its completion word and nothing else.
(Where a clause goes past the words of these rules it is the model's choice: assumption log 30 to 33, 36, 40 to 42.) -/
def Obligations.EngineSteps : Prop :=
  ∀ (s : State) (k : Nat), coreExists k = true →
    let core := s.core k
    exec .matrixSlotTurn s = .next s
    ∧ (∀ c i, c < 4 → core.mslot[s.sfc / 64 % 16]? = some (BitVec.ofNat 3 (4 + c)) → core.candidate c = some i → core.nextWork s.sfc = some i)
    ∧ (let slot := core.mslot[s.sfc / 64 % 16]?.getD 0
      (slot.toNat < 4 ∨ core.candidate (slot.toNat % 4) = none) →
        (∀ c i, c < 4 → core.candidate c = some i → (∀ c' j, c' < 4 → c' ≠ c → core.candidate c' = some j → i.order < j.order) →
          core.nextWork s.sfc = some i)
        ∧ ((∀ c, c < 4 → core.candidate c = none) → core.nextWork s.sfc = none))
    ∧ (core.mrun = none → exec (.matrixChunk k) s =
        .next (s.modCore k fun c => { c with mrun := (core.nextWork s.sfc).map fun i => i.runFrom s.sfc false }))
    ∧ (∀ r, core.mrun = some r → s.sfc ≤ r.ends → exec (.matrixChunk k) s = .next s)
    ∧ (∀ r i q, core.mrun = some r → r.ends < s.sfc → core.mq.find? (fun j => j.order = r.order) = some i → i.chunked = some q → dStepped q.desc = false →
        dM q.desc ≤ 64 → dN q.desc ≤ 64 →
        let d := q.desc
        let n := i.chunk
        let j := chunkOf d n
        let tile := q.acc.toNat % 256
        ∃ u, exec (.matrixChunk k) s = .next u ∧ ∀ (m : Nat) (c : Fin 64), m < dM d →
          ((u.core k).accRow tile m)[c] = if c.val < dN d then BitVec.ofNat 32 (chunkSum
              (if dMode d ∨ n ≠ 0 then some (decodeNum 0 (core.accRow tile m)[c].toNat) else none)
              (List.zipWith FVal.mul
                (Machine.segment s k i.ctx (dAfmt d) j q.xa m (dK d) (if dAsc d then some q.sa else none) (i.halves.1[m]?.getD [])
                  (s.planeBytes k i.ctx (q.aSeg n m 0) (segBytes (dAfmt d))))
                (Machine.segment s k i.ctx (dBfmt d) j q.xb c.val (dK d) (if dBsc d then some q.sb else none) (i.halves.2[c.val]?.getD [])
                  (s.planeBytes k i.ctx (q.bSeg n c.val) (segBytes (dBfmt d))))))
            else (core.accRow tile m)[c])
    ∧ (core.mdone = [] → core.mrun = none → exec (.matrixItemComplete k) s = .next (s.modCore k fun c => { c with mdone := [] }))
    ∧ (∀ i due sem, core.mdone = [⟨i, due⟩] → due ≤ s.sfc → core.mrun = none → i.charge = Vector.replicate 4 0 → i.ctx < 4 →
        i.notify = { core := k, ctx := i.ctx, sem := some sem, arrive := none } → ∃ u, exec (.matrixItemComplete k) s = .next u ∧ (u.core k).mdone = []
          ∧ (u.ctx k i.ctx).sm = if core.gone i.ctx then (s.ctx k i.ctx).sm
              else (s.ctx k i.ctx).sm.set sem (BitVec.ofNat 8 (min 255 ((s.ctx k i.ctx).sm[sem].toNat + 1))))
    ∧ (∀ r i first cnt, core.mdone = [] → core.mrun = some r → r.ends ≤ s.sfc → core.mq.find? (fun j => j.order = r.order) = some i →
        i.work = .zero first cnt → i.notify.sem = none → i.notify.arrive = none → ∃ u, exec (.matrixItemComplete k) s = .next u
          ∧ (∀ t m, m < 64 → first ≤ t → t < first + cnt → (u.core k).accRow t m = Vector.replicate 64 0)
          ∧ (AMap.sortedFrom 0 core.acc = true → ∀ t m, m < 64 → t < first ∨ first + cnt ≤ t → (u.core k).accRow t m = core.accRow t m))
    ∧ (core.cards.find? Card.ready = none → exec (.cardStart k) s = .next s)
    ∧ (∀ d, core.cards.find? Card.ready = some d →
        let bad := cardOffence d.raw ((core.ctx d.ctx).hawks[fin16 (cardHawk d.raw)]).cap
        (∀ off, bad = some off → exec (.cardStart k) s = .next (s.putCard k { d with started := true, stopped := true, fault := some (0, stAttr, off) }))
        ∧ (bad = none → ∃ u d', exec (.cardStart k) s = .next u ∧ d' ∈ (u.core k).cards ∧ d'.id = d.id ∧ d'.started = true ∧ d'.raw = d.raw
            ∧ d'.copies.map Prod.fst = d.copies.map Prod.fst ++ List.range' d.next (d'.next - d.next)
            ∧ d.next ≤ d'.next ∧ d'.next ≤ max d.next (min (cardCopies d.raw) (d.next + (4 - d.copies.length)))
            ∧ (cardBmen d.raw = false ∨ s.poisoned (spadAddr k (d.addr + 0x20)) 8 = false →
                d'.next = max d.next (min (cardCopies d.raw) (d.next + (4 - d.copies.length))))
            ∧ ∀ p ∈ d'.copies, p ∈ d.copies ∨ s.sfc + 4 ≤ p.2))
    ∧ (∀ card q, (∀ d, core.cards.find? (fun d => d.id = card) = some d → (d.copies.any fun p => p.1 = q) = false) →
        exec (.copyComplete k card q) s = .next s)
    ∧ (∀ card q d, core.cards.find? (fun d => d.id = card) = some d → (d.copies.any fun p => p.1 = q) = true →
        let stopped (e : Nat) : Card :=
          { d with copies := d.copies.filter fun p => p.1 ≠ q, stopped := true, failed := q :: d.failed, fault := lowestFault d.fault q e }
        (d.barred.contains q = true → exec (.copyComplete k card q) s = .next (s.putCard k (stopped stAttr)))
        ∧ (∀ e, d.barred.contains q = false → s.copyPieces k d q = .error e → exec (.copyComplete k card q) s = .next (s.putCard k (stopped e)))
        ∧ (∀ srcs dsts, d.barred.contains q = false → s.copyPieces k d q = .ok (srcs, dsts) →
            let r := s.copyOpen k d q srcs dsts
            (r.1 = false → exec (.copyComplete k card q) s = .next r.2)
            ∧ (∀ e, r.1 = true → (r.2.cardRun k card q).bad = some e → exec (.copyComplete k card q) s = .next (r.2.putCard k (stopped e)))
            ∧ (r.1 = true → (r.2.cardRun k card q).bad = none → cardBmen d.raw = false → ∃ u d', exec (.copyComplete k card q) s = .next u
                ∧ u.mem = r.2.mem ∧ (∀ k b, (u.bank k b).queue = (r.2.bank k b).queue) ∧ d' ∈ (u.core k).cards ∧ d'.id = card
                ∧ d'.okCount = d.okCount + 1)))
    ∧ (∀ (d : Card) (q due n start i : Nat) (p : CopyPiece) (a : Nat), p.2 = .spad a → due ≤ s.sfc → s.pieceWaits k d due p.2 = false →
        let r := s.cardRun k d.id q
        let rest := r.reqs.filter fun x => x.1 ≠ i
        r.bad = none → r.did i = false →
          (i < n → s.poisoned (spadAddr k a) p.1.2 = false → s.servePiece k d q due n start (i, p) =
            s.setRun k d.id q { r with reqs := rest, data := AMap.set r.data i (s.engineSpad k d.ctx a p.1.2) })
          ∧ (i < n → s.poisoned (spadAddr k a) p.1.2 = true → s.servePiece k d q due n start (i, p) =
            s.setRun k d.id q { r with reqs := [], bad := some stEcc })
          ∧ (n ≤ i → r.readAll n = false → s.servePiece k d q due n start (i, p) = s)
          ∧ (n ≤ i → r.readAll n = true →
            let read := (List.range n).flatMap fun j => AMap.getD r.data j []
            s.servePiece k d q due n start (i, p) =
              (s.engineWrite k d.ctx a ((read.drop (p.1.1 - start)).take p.1.2)).setRun k d.id q { r with reqs := rest, wrote := i :: r.wrote }))
    ∧ (∀ card, (∀ d, core.cards.find? (fun d => d.id = card) = some d → d.outcome = none) → exec (.cardComplete k card) s = .next s)
    ∧ (∀ card d st det, core.cards.find? (fun d => d.id = card) = some d → d.outcome = some (st, det) → s.mem.wf = true → d.addr % 256 = 0 → d.addr < 2 ^ 21 →
        (st = stOk → cardHen d.raw = true → cardHcnt d.raw + 1 ≤ ((s.ctx k d.ctx).hawks[fin16 (cardHawk d.raw)]).free) →
        let queue := (s.bank k (d.addr / 65536)).queue
        let word := statusWord st d.okCount det
        ∃ u, exec (.cardComplete k card) s = .next u ∧ (∀ x ∈ (u.core k).cards, x.id ≠ card)
          ∧ (queue = [] → leValue (u.spadRead k (d.addr + 0x18) 8) = word % 2 ^ 64)
          ∧ (queue ≠ [] → ∃ it ∈ (u.bank k (d.addr / 65536)).queue, it.core = k ∧ it.work = .store (bytesAt (d.addr + 0x18) (leBytes 8 word)))
          ∧ ((s.ctx k d.ctx).status ≠ .saved → (s.ctx d.notify.core d.notify.ctx).status ≠ .saved →
              ∀ a, a < spadAddr k (d.addr + 0x18) ∨ spadAddr k (d.addr + 0x18) + 8 ≤ a → Memory.get u.mem a = Memory.get s.mem a))

/-- R111, R242, R244, R256 to R259, R261, R263, R266, R271. What reaches a scratchpad bank is performed in the bank's order: a store writes its bytes and
no other, a load takes its bytes, a barrier arrival counts and flips the phase, a trowel command starts after the one before it, takes the cycles of
its kind, and computes what its kind computes as one unit; a host atomic goes to the unit of its bank; a mode switch completes when the bank is quiet, and
a bank that leaves CACHE reads zero.
(Where a clause goes past the words of these rules it is the model's choice: assumption log 7, 8, 21, 36, 72, 83, 86, 87, 99.) -/
def Obligations.BankSteps : Prop :=
  ∀ (s : State) (k b : Nat), coreExists k = true → b < 32 → s.mem.wf = true →
    let x := s.bank k b
    let pop := s.modBank k b fun y => { y with queue := y.queue.drop 1 }
    (x.queue = [] → exec (.bankAccess k b) s = .next s ∧ exec (.barrierArrival k b) s = .next s ∧ exec (.trowelCommandStart k b) s = .next s
      ∧ exec (.trowelCommandPerform k b) s = .next s)
    ∧ (∀ it rest, x.queue = it :: rest →
      (∀ l, it.work = .store l →
        (it.storeDue k (s.core k) = false → exec (.bankAccess k b) s = .next s)
        ∧ (it.storeDue k (s.core k) = true → ∃ m ps, exec (.bankAccess k b) s = .next { pop with mem := m, poison := ps } ∧ m.wf = true
            ∧ (∀ w, w ∈ ps ↔ w ∈ s.poison ∧ ∃ i, i < 8 ∧ ∀ p ∈ l, spadAddr k p.1 ≠ w / 8 * 8 + i)
            ∧ (∀ a, (∀ p ∈ l, spadAddr k p.1 ≠ a) → Memory.get m a = Memory.get s.mem a)
            ∧ ∀ l1 p l2, l = l1 ++ p :: l2 → (∀ q ∈ l2, spadAddr k q.1 ≠ spadAddr k p.1) → Memory.get m (spadAddr k p.1) = p.2))
      ∧ (∀ a m, it.work = .orWord a m →
          exec (.bankAccess k b) s = .next (pop.spadUpdate k a (leValue (s.spadRead k a 8) ||| m)))
      ∧ (∀ bid slot off a n, it.work = .load bid slot off a n →
        let back := s.sfc + if slot = .b then 3 else 5
        (it.core = k → s.ripe it bid = false → exec (.bankAccess k b) s = .next s)
        ∧ (it.core = k → s.ripe it bid = true → exec (.bankAccess k b) s =
            .next (pop.bindLoad k it.ctx bid slot off (spadAddr k a) (s.spadRead k a n) back))
        ∧ (it.core ≠ k → ∃ later, later ≤ (if it.core / 128 = k / 128 then 64 else 320) ∧ exec (.bankAccess k b) s =
            .next (({ pop with free := s.free + 1 }).bindLoad it.core it.ctx bid slot off (spadAddr k a) (s.spadRead k a n) (back + later))))
      ∧ (∀ a e, it.work = .arrival a e →
        let w := leValue (s.spadRead k a 8)
        let expect := w / 2 ^ 32 % 2 ^ 31
        let n := w % 2 ^ 32 + 1
        let phase := w / 2 ^ 63 % 2
        (s.sfc < it.notBefore → exec (.barrierArrival k b) s = .next s)
        ∧ (it.notBefore ≤ s.sfc → exec (.barrierArrival k b) s = .next ((pop.spadUpdate k a
            (if expect ≤ n then (1 - phase) * 2 ^ 63 + expect * 2 ^ 32 else phase * 2 ^ 63 + expect * 2 ^ 32 + n)).modBar it.core it.ctx e fun y =>
              { w := y.w, ph := some (y.ph.getD (decide (phase = 1))), out := y.out - 1 })))
      ∧ (∀ op a bid arr, it.work = .trowel op a bid arr →
        let cycles : Nat := match op with
          | .store o _ _ _ => if o = 0x0B then 16 else 8
          | .range o _ n _ => if o = 0x10 then 16 * n else if o = 0x0E ∨ o = 0x0F then 8 * n + 4 else 8 * n
          | _ => 1
        (it.ends = none → op.forHost = false → s.ripe it bid = false → exec (.trowelCommandStart k b) s = .next s)
        ∧ (it.ends = none → it.notBefore < s.sfc → op.forHost = true ∨ s.ripe it bid = true → exec (.trowelCommandStart k b) s =
          .next (s.modBank k b fun y => { y with queue := { it with ends := some (s.sfc + cycles - 1) } :: rest }))
        ∧ (∀ e, it.ends = some e → e ≤ s.sfc → op.badWord pop it k a bid = none → exec (.trowelCommandPerform k b) s =
          .next ((op.perform pop k a).1.trowelDone k it op bid (op.perform pop k a).2 arr))
        ∧ (∀ e t, it.ends = some e → e ≤ s.sfc → op.badWord pop it k a bid = some t → exec (.trowelCommandPerform k b) s = .next t)
        ∧ (∀ o v u, op = .atomic o v u → op.badWord pop it k a bid =
            if s.poisoned (spadAddr k a) 4 then some (pop.failLoad it.core it.ctx bid .e 0 causeEcc) else none)
        ∧ (∀ e, it.ends = some e → s.sfc < e → exec (.trowelCommandPerform k b) s = .next s)))
    ∧ (∀ (o : Nat) (v u : Word32) (a : Nat),
        let m := leValue (s.spadRead k a 4)
        let r : Nat × Bool := match o with
          | 0x11 => ((m + v.toNat) % 2 ^ 32, false)
          | 0x12 => if m + v.toNat ≤ u.toNat then (m + v.toNat, false) else (m, true)
          | 0x13 => (if v.toNat ≤ m then 0 else m + 1, false)
          | 0x14 => (if m = 0 ∨ v.toNat < m then v.toNat else m - 1, false)
          | 0x15 => if m = v.toNat then (u.toNat, false) else (m, true)
          | _ => (v.toNat, false)
        TrowelOp.perform (.atomic o v u) s k a = (s.spadWrite k a (leBytes 4 (r.1 % 2 ^ 32)), m + if r.2 then 2 ^ 32 else 0))
    ∧ (∀ (o fmt a : Nat) (clusters : BitVec 8) (v : VReg), o = 0x08 ∨ o = 0x09 ∨ o = 0x0A → a + 512 ≤ 2 ^ 21 →
        let t := (TrowelOp.perform (.store o fmt clusters v) s k a).1
        (∀ i : Fin 128, t.bankWord k (a + 4 * i.val) =
          if clusters.getLsbD (i.val / 16) then
            (if o = 0x08 then wordSum fmt (s.bankWord k (a + 4 * i.val)) v[i].toNat
             else if o = 0x09 then maxNode fmt (s.bankWord k (a + 4 * i.val)) v[i].toNat
             else f32Mul (s.bankWord k (a + 4 * i.val)) v[i].toNat) % 2 ^ 32
          else s.bankWord k (a + 4 * i.val))
        ∧ ∀ x, x < spadAddr k a ∨ spadAddr k a + 512 ≤ x → Memory.get t.mem x = Memory.get s.mem x)
    ∧ (∀ (fmt a n : Nat) (y : Word64), a + 512 * n ≤ 2 ^ 21 →
        let t := (TrowelOp.perform (.range 0x0D fmt n y) s k a).1
        (∀ i, i < 128 * n → t.bankWord k (a + 4 * i) = y.toNat % 2 ^ 32)
        ∧ ∀ x, x < spadAddr k a ∨ spadAddr k a + 512 * n ≤ x → Memory.get t.mem x = Memory.get s.mem x)
    ∧ (∀ (tag va : Nat) (op : HostAtomOp) (wide : Bool) (p q : Nat),
        (hostLeaf s va = none → exec (.hostAtomic tag va op wide p q) s = .next (s.report .response tag stHostAtomic []))
        ∧ (∀ l, hostLeaf s va = some l → l.sysatom = false ∨ va % (if wide then 8 else 4) ≠ 0 → exec (.hostAtomic tag va op wide p q) s =
          .next (s.report .response tag stHostAtomic []))
        ∧ (∀ l, hostLeaf s va = some l → l.sysatom = true → va % (if wide then 8 else 4) = 0 → l.wr = true →
          (s.bank (bits l.pa 29 21) (bits l.pa 20 16)).mode.plain = true → s.queueHeld (bits l.pa 29 21) (bits l.pa 20 16) < 16 →
          exec (.hostAtomic tag va op wide p q) s =
            .next (s.modBank (bits l.pa 29 21) (bits l.pa 20 16) fun y => { y with queue := y.queue ++ [
              { core := 512, ctx := 0, work := .trowel (.hostAtomic op wide p q tag) (bits l.pa 20 0) 0 none, issued := 0, notBefore := s.sfc + 1,
                cycle := 0, ends := none, sent := s.sfc }] })))
    ∧ (x.mode = .toCache → x.notify = none → exec (.bankmodeSwitchComplete k b) s =
        .next (if (s.core k).cacheReady k b && !s.answersInto k b then s.modBank k b fun y => { y with mode := .cache, notify := none } else s))
    ∧ (x.mode = .fromCache → x.notify = none → ∃ u, exec (.bankmodeSwitchComplete k b) s = .next u ∧ (u.bank k b).mode = x.nextMode
        ∧ (∀ a, a < 65536 → Memory.get u.mem (spadAddr k (65536 * b + a)) = defaultByte)
        ∧ ∀ a, a < spadAddr k (65536 * b) ∨ spadAddr k (65536 * b) + 65536 ≤ a → Memory.get u.mem a = Memory.get s.mem a)
    ∧ (x.mode.plain = true → exec (.bankmodeSwitchComplete k b) s = .next s)

/-! ### Skimmed and step regions (spec/18, 19) -/

/-- R284, R286, R287, R288, R289, R291, R295, R302, R304, R305, R306, R307, R311. The cursor's steps of a region's slice. An admission puts the next command of the slice
behind the others, for the coat after the one in progress; a coat begins when no slice is behind and the window is open; the cursor passes a unit with
no work, and serves one with work while 27 ticks of the window remain: an update adds to, or replaces, the words of its enabled clusters and nothing
else; a commit coat rounds momentum, change and master of a group as R305 says, clears its gradient and keeps its undo record, unless a row of the group has an uncorrectable error. A coat completes
after the last unit; a commit that finds no coat within DLIM fails; a step load that has waited too long leaves; a drained region is removed.
(Where a clause goes past the words of these rules it is the model's choice: assumption log 50 to 52, 108.) -/
def Obligations.Regions : Prop :=
  ∀ (s : State) (r i : Nat),
    (s.sliceAt r i = none → ∀ e ∈ [Instr.skimAdmission r i, .coatStart r i, .skimRowVisit r i, .groupVisit r i, .coatComplete r i, .waitTimeout r i],
      exec e s = .next s)
    ∧ (∀ g sl, s.sliceAt r i = some (g, sl) →
      let n := sl.done + 1
      let work := sl.workFor g sl.row n
      let put (s : State) (f : Slice → Slice) : State := { s with regions := AMap.set s.regions r { g with slices := g.slices.modify i f } }
      (g.nextAdmitted sl.transit [] = none → exec (.skimAdmission r i) s = .next s)
      ∧ (∀ q, g.nextAdmitted sl.transit [] = some q → s.diesJoined (q.core / 128) (sl.pc / 256) = true → exec (.skimAdmission r i) s =
          .next (put s fun x => { x with transit := x.transit.erase q, nextOrder := x.nextOrder + 1,
                                         queue := x.queue ++ [{ q with coat := some (sl.done + if sl.busy then 2 else 1), order := x.nextOrder }] }))
      ∧ (∀ q, g.nextAdmitted sl.transit [] = some q → s.diesJoined (q.core / 128) (sl.pc / 256) = false → exec (.skimAdmission r i) s =
          .next ((put s fun x => { x with transit := x.transit.erase q }).skimCut q))
      ∧ (sl.busy = true ∨ (∃ x ∈ g.slices, x.done < sl.done) ∨ s.curOpen sl 1 = false → exec (.coatStart r i) s = .next s)
      ∧ (i ≠ 0 → sl.busy = false → (∀ x ∈ g.slices, sl.done ≤ x.done ∧ s.diesJoined (x.pc / 256) (sl.pc / 256) = true) → s.curOpen sl 1 = true →
          (∃ x ∈ g.slices, x.done ≠ sl.done ∨ x.busy = true) → exec (.coatStart r i) s = .next (put s fun x => { x with busy := true, row := 0 }))
      ∧ (sl.busy = false ∨ g.unitsIn i ≤ sl.row → exec (.skimRowVisit r i) s = .next s ∧ exec (.groupVisit r i) s = .next s)
      ∧ (sl.busy = true → sl.row < g.unitsIn i → work = [] → g.commit ≠ some n →
          let t := if s.curOpen sl 1 then put s (fun x => { x with row := x.row + 1 }) else s
          (g.step = false → exec (.skimRowVisit r i) s = .next t) ∧ (g.step = true → exec (.groupVisit r i) s = .next t))
      ∧ (∀ q op clusters v a b, g.step = false → sl.busy = true → sl.row < g.unitsIn i → work = [q] → q.op = .sku op clusters v → s.curOpen sl 27 = true →
          s.regionHome g sl (g.unitOff i sl.row) = some b → (s.openRow b).regionHome g sl q.off = some a →
          (s.openRow b).poisoned (a / 2048 * 2048) 2048 = false → s.mem.wf = true → (s.ctx q.notify.core q.notify.ctx).status ≠ .saved →
          ∃ u, exec (.skimRowVisit r i) s = .next u
            ∧ (∀ L : Fin 128, Memory.value u.mem (a + 4 * L.val) 4 =
                let w := Memory.value s.mem (a + 4 * L.val) 4
                if clusters.getLsbD (L.val / 16) then (if op = 0 then w + v[L].toNat else if op = 1 then v[L].toNat else f32Add w v[L].toNat) % 2 ^ 32 else w)
            ∧ (∀ b, b < a ∨ a + 512 ≤ b → Memory.get u.mem b = Memory.get s.mem b)
            ∧ ∃ g' sl', u.sliceAt r i = some (g', sl') ∧ sl'.row = sl.row + 1 ∧ sl'.done = sl.done ∧ sl'.queue = sl.queue.filter fun p => p.order ≠ q.order)
      ∧ (∀ a, g.step = true → sl.busy = true → sl.row < g.unitsIn i → work = [] → g.commit = some n → s.curOpen sl 27 = true →
          let t := [0, 1, 2, 3].foldl (fun t j => t.openRow (a + 2048 * j)) s
          s.regionHome g sl (g.unitOff i sl.row) = some a → t.regionHome g sl (g.unitOff i sl.row) = some a →
          ((∃ j, j < 4 ∧ t.poisoned (a + 2048 * j) 2048 = true) → ∃ u g' sl' x, exec (.groupVisit r i) s = .next u ∧ u.mem = s.mem
            ∧ u.sliceAt r i = some (g', sl') ∧ sl'.undo = sl.undo ++ [x] ∧ x.undo = List.replicate 512 0)
          ∧ ((∀ j, j < 4 → t.poisoned (a + 2048 * j) 2048 = false) → s.mem.wf = true → ∃ u, exec (.groupVisit r i) s = .next u
            ∧ (∀ j : Fin 512,
                let word (k : Nat) := Memory.value s.mem (a + 2048 * k + 4 * j.val) 4
                let mom := rne32 (FVal.add .rn (FVal.mul (decodeNum 0 g.params.mu.toNat) (decodeNum 0 (word 1))) (decodeNum 0 (word 3)), false)
                let change := rne32 (FVal.mul (decodeNum 0 g.params.eta.toNat).negate (decodeNum 0 mom), false)
                Memory.value u.mem (a + 4 * j.val) 4 = f32Add (word 0) change % 2 ^ 32 ∧ Memory.value u.mem (a + 0x800 + 4 * j.val) 4 = mom % 2 ^ 32
                ∧ Memory.value u.mem (a + 0x1000 + 4 * j.val) 4 = change % 2 ^ 32 ∧ Memory.value u.mem (a + 0x1800 + 4 * j.val) 4 = 0)
            ∧ (∀ b, b < a ∨ a + 0x2000 ≤ b → Memory.get u.mem b = Memory.get s.mem b)
            ∧ ∃ g' sl' x, u.sliceAt r i = some (g', sl') ∧ sl'.undo = sl.undo ++ [x] ∧ x.group = sl.row ∧ x.step = g.head ∧ g'.head = g.head))
      ∧ (sl.busy = false ∨ sl.row < g.unitsIn i → exec (.coatComplete r i) s = .next s)
      ∧ (sl.busy = true → g.unitsIn i ≤ sl.row → ∃ u g' sl', exec (.coatComplete r i) s = .next u ∧ u.sliceAt r i = some (g', sl') ∧ sl'.done = n ∧ sl'.busy = false
          ∧ ((∃ x, ∃ j, g.slices[j]? = some x ∧ j ≠ i ∧ x.done < n) → g'.head = g.head)
          ∧ ((∀ x j, g.slices[j]? = some x → j ≠ i → n ≤ x.done) → g.commit = some n → g'.head = g.head + 1 ∧ g'.commit = none ∧ g'.counted = []))
      ∧ ((∀ q ∈ sl.queue, ∀ dest lfmt mode step c, q.op = .wld dest lfmt mode step → q.coat = some c → sl.done < c + g.params.wlim) →
          exec (.waitTimeout r i) s = .next s)
      ∧ (∀ q dest lfmt mode step c, sl.queue = [q] → q.op = .wld dest lfmt mode step → q.coat = some c → c + g.params.wlim ≤ sl.done →
          exec (.waitTimeout r i) s = .next ((put s fun x => { x with queue := x.queue.filter fun p => p.order ≠ q.order }).wldFail q dest lfmt step stWaitTimeout
            (c + g.params.wlim))))
    ∧ (∀ g, AMap.get? s.regions r = some g →
      (g.readyCoat = none ∨ g.commit ≠ none → exec (.commitFail r) s = .next s)
      ∧ (∀ c x, g.readyCoat = some c → g.commit = none → x ∈ g.slices → c + g.params.dlim ≤ x.done → ∃ u g', exec (.commitFail r) s = .next u
          ∧ AMap.get? u.regions r = some g' ∧ g'.counted = [] ∧ g'.readyCoat = none ∧ g'.commit = none ∧ g'.head = g.head)
      ∧ (g.state ≠ .draining → exec (.regionRemoved r) s = .next s)
      ∧ (∀ d, g.state = .draining → (∀ sl ∈ g.slices, sl.queue = [] ∧ sl.transit = [] ∧ sl.reserved = 0) → g.drainFrom = some d →
          (g.coatDone ≤ d → exec (.regionRemoved r) s = .next s)
          ∧ (d < g.coatDone → AMap.sortedFrom 0 s.regions = true → ∃ u, exec (.regionRemoved r) s = .next u ∧ AMap.get? u.regions r = none
              ∧ ∀ t ∈ g.destroyTags, ⟨.response, t, stOk, []⟩ ∈ u.out)))
    ∧ (AMap.get? s.regions r = none → exec (.commitFail r) s = .next s ∧ exec (.regionRemoved r) s = .next s)

/-! ### Channels (spec/17, 20) -/

/-- R283, R317, R318, R320, R324, R325, R330 to R334. The steps of a channel. The timetable goes on at the tick at which the running entry ends; a WIN entry serves
the head of an ordinary queue, and the last-level cache what it can outside one; a visit takes effect at its end, an NMAC adding a group of columns to the lanes of its accumulator with one rounding each;
TTLOAD stages a table that breaks no rule and refuses another with the rule and entry; a started table begins after the running entry with a refresh
round; TTSTOP brings the default table back at a lap boundary; a low channel wakes within 1,024 ticks of an access.
(Where a clause goes past the words of these rules it is the model's choice: assumption log 25, 53, 54, 56 to 59, 109 to 111.) -/
def Obligations.Channels : Prop :=
  ∀ (s : State) (ch : Nat), ch < 512 →
    let c := s.chan ch
    let dur (t : List Word64) (i : Nat) : Nat := ((t[i]?.getD 0).toNat / 2 ^ 48) % 2 ^ 12
    (c.advances = false ∨ s.tick < c.ends → exec (.timetableEntry ch) s = .next s)
    ∧ (c.advances = true → c.ends ≤ s.tick → c.refreshRound = none → c.starting = none → c.stopping = false → c.visit = none → ∃ u, exec (.timetableEntry ch) s = .next u
        ∧ (u.chan ch).idx = nextEntry c.table c.idx ∧ (u.chan ch).start = s.tick ∧ (u.chan ch).ends = c.ends + dur c.table (nextEntry c.table c.idx)
        ∧ (u.chan ch).table = c.table)
    ∧ (∀ pc, pc < 2 → let q := if pc = 0 then c.q0 else c.q1
        let headThere := ∃ r l, q = r :: l ∧ r.due ≤ s.sfc
        q = [] ∨ ((c.openFor 1 s.tick = false ∨ ¬ headThere) ∧ takeFirst s.llcServes [] q = none) → exec (.dramAccess ch pc) s = .next s)
    ∧ (∀ pc req l, pc < 2 → let q := if pc = 0 then c.q0 else c.q1
        let headThere := ∃ r l, q = r :: l ∧ r.due ≤ s.sfc
        (c.openFor 1 s.tick = true ∧ req.due ≤ s.sfc ∧ q = req :: l)
          ∨ ((c.openFor 1 s.tick = false ∨ ¬ headThere) ∧ takeFirst s.llcServes [] q = some (req, l)) → ∃ u, exec (.dramAccess ch pc) s = .next u
        ∧ (∀ bs, req.bytes = some bs → u.mem = Memory.write s.mem req.addr bs ∧ (if pc = 0 then (u.chan ch).q0 else (u.chan ch).q1) = l)
        ∧ (req.bytes = none → u.mem = s.mem))
    ∧ (∀ bank row, bank < 32 →
        let key := 2 * (bank % 16 + 16 * row) + bank / 16
        (AMap.get? c.spareCopy key = none ∨ c.openFor 1 s.tick = false → exec (.spareCopyComplete ch bank row) s = .next s)
        ∧ ((AMap.get? c.spareCopy key).isSome = true → c.openFor 1 s.tick = true → AMap.getD c.spares bank 0 < 8 → exec (.spareCopyComplete ch bank row) s = .next
            { s with free := s.free + 1, chans := AMap.set s.chans ch (if Config.dramError s.free = 0
                then { c with spareCopy := AMap.erase c.spareCopy key, corrected := AMap.erase c.corrected key }
                else { c with spares := AMap.set c.spares bank (AMap.getD c.spares bank 0 + 1) }) }))
    ∧ (c.visit = none → c.pass = none → exec (.nbVisit ch) s = .next s)
    ∧ (∀ e, c.visit = some e → s.tick < e → exec (.nbVisit ch) s = .next s)
    ∧ (∀ e p, c.visit = some e → e ≤ s.tick → c.pass = some p →
        let o := nbOf (c.table[c.visitOp]?.getD 0)
        let v := AMap.getD p.count (opOf c.table c.visitOp) 0
        let row := o.row + v / o.ncg
        let g := o.cg + v % o.ncg
        let lane := o.a + g - o.cg
        o.op = 3 → o.dup = false → o.all = false → p.redo = [] →
        (Config.dramError s.free = 2 → ∃ u, exec (.nbVisit ch) s = .next u ∧ (u.chan ch).pass = none ∧ ∀ x y, (u.chan ch).baOf x y = c.baOf x y)
        ∧ (Config.dramError s.free ≠ 2 → (∀ i, i < 16 → s.poisoned (p.column o.pc row o.bank (16 * g + i)) 32 = false) →
        ∃ u, exec (.nbVisit ch) s = .next u ∧ u.mem = s.mem ∧ (∀ x y, y < 8 → lane < 8 → x ≠ o.unit o.bank ∨ y ≠ lane → (u.chan ch).baOf x y = c.baOf x y)
          ∧ (u.chan ch).baOf (o.unit o.bank) lane = (List.range 16).map fun i => BitVec.ofNat 32
              (chunkSum (some (decodeNum 0 ((c.baOf (o.unit o.bank) lane)[i]?.getD 0).toNat))
                (List.zipWith (fun x y => FVal.mul (decodeNum 2 x) (decodeNum 2 y)) (s.halves (p.column o.pc row o.bank (16 * g + i)))
                  ((c.bgOf (o.unit o.bank) o.g).map BitVec.toNat)))))
    ∧ (c.cmds = [] → exec (.timetableStage ch) s = .next s ∧ exec (.channelPowerDown ch) s = .next s)
    ∧ (∀ q a n, c.cmds = [q] → q.taken = false → s.diesJoined (q.core / 128) (ch / 128) = true → q.op = .load a n → c.pass = none → q.silent = false →
        s.mem.wf = true → q.reply % 8 = 0 → q.reply < 2 ^ 21 → (s.bank q.core (q.reply / 65536)).queue = [] →
        s.poisoned (spadAddr q.core a) (8 * n) = false →
        let table := (valuesAt (s.engineSpad q.core q.ctx a (8 * n)) n).map (BitVec.ofNat 64)
        ∃ u, exec (.timetableStage ch) s = .next u ∧ (u.chan ch).cmds = []
          ∧ (tableFault table (s.skimOn ch) = none → (u.chan ch).staged = some table ∧ leValue (u.spadRead q.core q.reply 8) = 0)
          ∧ (∀ rule at_, tableFault table (s.skimOn ch) = some (rule, at_) → (u.chan ch).staged = c.staged ∧ leValue (u.spadRead q.core q.reply 8) =
              stRejected * 2 ^ 56 + (rule * 2 ^ 16 + at_) % 2 ^ 32))
    ∧ (c.starting = none → c.cmds = [] → exec (.tableReplacement ch) s = .next s)
    ∧ (∀ x, c.starting = some x → (x.placed = true ∨ c.advances = false ∨ s.tick < max x.due c.ends ∨ c.visit ≠ none) → exec (.tableReplacement ch) s = .next s)
    ∧ (∀ x, c.starting = some x → x.placed = false → c.advances = true → max x.due c.ends ≤ s.tick → c.visit = none →
        ∃ u e, exec (.tableReplacement ch) s = .next u ∧ s.tick ≤ e ∧ e ≤ s.tick + 192 ∧ u = { s with free := u.free, chans := u.chans }
          ∧ u.chan ch = { c with table := x.table, idx := x.table.length, start := s.tick, ends := e, refreshRound := some e,
                                 starting := some { x with placed := true } })
    ∧ (c.stopping = false → c.cmds = [] → exec (.defaultTableSwitch ch) s = .next s)
    ∧ (c.stopping = true → c.advances = true → c.visit = none → c.ends ≤ s.tick → c.nextIdx = lapEntry c.table → c.cmds = [] → c.pass = none →
        ∃ u, exec (.defaultTableSwitch ch) s = .next u ∧ (u.chan ch).stopping = false ∧ (u.chan ch).idx = 0 ∧ (u.chan ch).start = c.ends ∧ (u.chan ch).ends = c.ends + 144
          ∧ (u.chan ch).table = [0x1090000000000000, 0x3030000000000000, 0x1020000000000000, 0x4020000000000000])
    ∧ (∀ q, c.stopping = false → c.starting = none → c.visit = none → c.pass = none → c.cmds = [q] → q.taken = false → q.op = .stop → s.skimOn ch = false →
        ∃ u, exec (.defaultTableSwitch ch) s = .next u ∧ u.chan ch = { c with staged := none, stopping := true, cmds := [{ q with taken := true }] })
    ∧ (∀ q n, c.cmds = [q] → q.taken = false → q.op = .power n → n = 1 ∨ n = 2 → s.skimOn ch = false → c.visit = none → c.refreshRound = none → c.power = .active →
        c.pass = none → ∃ u, exec (.channelPowerDown ch) s = .next u ∧ (u.chan ch).power = (if n = 1 then .selfRefresh else .powerDown) ∧ (u.chan ch).cmds = [])
    ∧ (c.power = .active → c.cmds = [] → exec (.channelWake ch) s = .next s)
    ∧ (c.power = .selfRefresh ∨ c.power = .powerDown → c.cmds = [] →
        (c.q0 = [] → c.q1 = [] → c.wanted = false → exec (.channelWake ch) s = .next s)
        ∧ (s.overheated = true → exec (.channelWake ch) s = .next s)
        ∧ (s.overheated = false → c.q0 ≠ [] ∨ c.q1 ≠ [] ∨ c.wanted = true → ∃ u, exec (.channelWake ch) s = .next u ∧ (u.chan ch).power = .waking
            ∧ s.tick ≤ (u.chan ch).wakeAt ∧ (u.chan ch).wakeAt ≤ s.tick + 1024))
    ∧ (c.power = .waking → c.cmds = [] → (s.tick < c.wakeAt → exec (.channelWake ch) s = .next s)
        ∧ (c.wakeAt ≤ s.tick → c.stopping = false ∨ c.nextIdx ≠ lapEntry c.table → c.starting = none → ∃ u, exec (.channelWake ch) s = .next u
            ∧ (u.chan ch).power = .active ∧ (u.chan ch).idx = c.nextIdx ∧ (u.chan ch).start = s.tick)
        ∧ (c.wakeAt ≤ s.tick → c.stopping = true → c.nextIdx = lapEntry c.table → ∃ u, exec (.channelWake ch) s = .next u
            ∧ (u.chan ch).power = .active ∧ (u.chan ch).stopping = false ∧ (u.chan ch).idx = 0 ∧ (u.chan ch).start = s.tick))

/-! ### Links and messages (spec/21) -/

/-- R335 to R338, R341, R342, R344. A link trains, negotiates the highest common versions, and is UP, DEGRADED on a power of two of its lanes, FAILED or DOWN; what
is in flight on a link that goes DOWN is gone. A good flit in sequence is taken, one with a bad CRC is not, and the seventeenth failure takes the link DOWN;
every 4,096 core cycles the module sends its SFC. A message waits for what its SEND released and for its sender's messages before it; its bytes are written
in full at its slots of the FIFO bank, in the bank's order, and then it completes; or it is refused, or times out after 2^20 cycles without space.
(Where a clause goes past the words of these rules it is the model's choice: assumption log 62 to 68.) -/
def Obligations.LinksAndMessages : Prop :=
  (∀ (s : State) (l : Nat), l < 22 →
    let x := s.link l
    let put (y : Link) : State := { s with links := s.links.set (linkIx l) y }
    exec (.linkEnable l) s = .next (if x.state = .down then put { x with state := .training } else s)
    ∧ exec (.lanesTrained l) s = .next (if x.state = .training then put { x with state := .negotiating } else s)
    ∧ exec (.trainingFail l) s = .next (if x.state = .training
        then { put { x with state := .down } with out := s.out ++ [⟨.event, l, stLink, []⟩] } else s)
    ∧ (∀ peer, x.state ≠ .negotiating → exec (.negotiationDone l peer) s = .next s)
    ∧ (∀ peer : List (Nat × Nat), x.state = .negotiating → peer.length = 7 → (∀ p ∈ peer, p.1 ≤ 1 ∧ 1 ≤ p.2) → exec (.negotiationDone l peer) s =
        .next (put { x with state := .up, lanes := 8, versions := List.replicate 7 1, replays := 0, txReplays := 0, lastAlign := none }))
    ∧ (∀ peer : List (Nat × Nat), x.state = .negotiating → (peer.length ≠ 7 ∨ ∃ p ∈ peer, p.2 < 1 ∨ min 1 p.2 < p.1) → exec (.negotiationDone l peer) s =
        .next (put { x with state := .failed }))
    ∧ (∀ n, exec (.linkDegrade l n) s = .next (if x.state = .up
        then put { x with state := .degraded, lanes := if 8 ≤ n then 8 else if 4 ≤ n then 4 else if 2 ≤ n then 2 else 1 } else s))
    ∧ exec (.linkRestore l) s = .next (if x.state = .degraded then put { x with state := .up, lanes := 8 } else s)
    ∧ (x.flows = false → x.state ≠ .failed → exec (.linkDisable l) s = .next s)
    ∧ (x.flows = true ∨ x.state = .failed → ∃ u, exec (.linkDisable l) s = .next u ∧ (u.link l).state = .down ∧ (u.link l).reqs = [])
    ∧ (∀ f, l < 6 ∨ x.flows = false → exec (.flitReceive l f) s = .next s)
    ∧ (∀ f, 6 ≤ l → x.flows = true → f.crcOk = false → x.replays < 16 → exec (.flitReceive l f) s = .next (put { x with replays := x.replays + 1 }))
    ∧ (∀ f, 6 ≤ l → x.flows = true → f.crcOk = false → 16 ≤ x.replays → ∃ u, exec (.flitReceive l f) s = .next u ∧ (u.link l).state = .down)
    ∧ (∀ f, 6 ≤ l → x.flows = true → f.crcOk = true → f.seq ≠ x.rxSeq → exec (.flitReceive l f) s = .next s)
    ∧ (∀ f, 6 ≤ l → x.flows = true → f.crcOk = true → f.seq = x.rxSeq →
        let fresh := seqAfter x.acked f.ackSeq
        (x.asksReplay f = true → 16 ≤ x.txReplays → ∃ u, exec (.flitReceive l f) s = .next u ∧ (u.link l).state = .down)
        ∧ (x.asksReplay f = false ∨ x.txReplays < 16 → f.type = .idle ∨ f.type = .ack → exec (.flitReceive l f) s = .next (put
            { x with acked := if fresh then f.ackSeq else x.acked, credits := f.credits, rxSeq := (f.seq + 1) % 2 ^ 32, replays := 0,
                     txReplays := (if fresh then 0 else x.txReplays) + (x.asksReplay f).toNat,
                     reqs := x.reqs.filter fun r => r.req.bytes.isNone || seqAfter f.ackSeq r.seq })))
    ∧ exec (.alignmentFlit l) s = .next (if 6 ≤ l ∧ x.flows = true ∧ (∀ t, x.lastAlign = some t → t + 4096 ≤ s.clocks)
        then put { x with lastAlign := some s.clocks, txSeq := (x.txSeq + 1) % 2 ^ 32 } else s))
  ∧ (∀ (s : State) (group m : Nat), exec (.timingSourceDesignation group m) s = .next { s with timing := AMap.set s.timing group m })
  ∧ (∀ (s : State) (port conn : Nat) (peer : List (Nat × Nat)), port < 8 →
    (peer.length = 7 → (∀ p ∈ peer, p.1 ≤ 1 ∧ 1 ≤ p.2) → exec (.ueConnectionSetup port conn peer) s =
      .next { s with conns := AMap.set s.conns (8 * conn + port) (List.replicate 7 1) })
    ∧ exec (.uePacket port conn .rod) s = .next s ∧ exec (.uePacket port conn .rud) s = .next s
    ∧ ∀ mode, mode = .rudi ∨ mode = .uud → ∃ status, status ∈ [1, 2, 3, 4, 5, 6, 7, 8, 9, 10, 11, 13, 14, 15] ∧ exec (.uePacket port conn mode) s =
        .next { s with free := s.free + 1, out := s.out ++ [⟨.completion, 8 * conn + port, status, []⟩] })
  ∧ ∀ (s : State) (id : Nat),
    (s.messages.find? (fun m => m.id = id) = none → exec (.sendDelivery id) s = .next s ∧ exec (.sendTimeout id) s = .next s)
    ∧ ∀ m, s.messages.find? (fun m => m.id = id) = some m → s.mem.wf = true → m.reply % 8 = 0 → m.reply < 2 ^ 21 →
        m.silent = false → m.core < 512 → m.bank < 32 → m.notify.core < 512 → 64 ≤ m.bytes.length →
        (s.bank m.notify.core (m.reply / 65536)).queue = [] → (s.ctx m.notify.core m.notify.ctx).status ≠ .saved →
        let b := s.bank m.core m.bank
        let n := m.bytes.length / 64
        let place := if 1024 < b.fifoNext + n then 0 else b.fifoNext
        let took := if 1024 < b.fifoNext + n then 1024 - b.fifoNext + n else n
        let entry (taker : Option Nat) : FifoMsg := { cls := m.cls, len := m.bytes.length, addr := 64 * place, slots := took, taker := taker, rel := m.rel }
        let ended (u : State) (word : Nat) : Prop := (∀ x ∈ u.messages, x.id ≠ id) ∧ leValue (u.spadRead m.notify.core m.reply 8) = word
        let waits := s.sendBehind m = true ∨ ∃ r, m.rel = some r ∧ s.released r = false
        let goes := s.sendJoined m = true ∧ s.sendBehind m = false ∧ ∀ r, m.rel = some r → s.released r = true
        (m.placed = none → s.sendJoined m = false → ∃ u, exec (.sendDelivery id) s = .next u ∧ ended u (stLink * 2 ^ 56 + 1))
        ∧ (m.placed = none → s.sendJoined m = true → waits → exec (.sendDelivery id) s = .next s)
        ∧ (∀ l, m.placed = none → m.remote = some l → goes → ∃ u, exec (.sendDelivery id) s = .next u
            ∧ (u = { s with free := s.free + 1 } ∨ ended u 0 ∨ ended u (stAttr * 2 ^ 56)))
        ∧ (m.placed = none → m.remote = none → goes →
          (b.mode ≠ .fifo → ∃ u, exec (.sendDelivery id) s = .next u ∧ ended u (stAttr * 2 ^ 56))
          ∧ (b.mode = .fifo → 1024 < b.fifoUsed + took → exec (.sendDelivery id) s = .next s)
          ∧ (b.mode = .fifo → b.fifoUsed + took ≤ 1024 → b.queue = [] → (∀ x ∈ b.fifo, x.addr = 64 * place → x.taker ≠ some 5) →
            ∃ u, exec (.sendDelivery id) s = .next u ∧ ended u 0
              ∧ (u.bank m.core m.bank).fifo = b.fifo ++ [entry none] ∧ (u.bank m.core m.bank).fifoNext = (place + n) % 1024
              ∧ ∀ i x, m.bytes[i]? = some x →
                  let a := spadAddr m.core (65536 * m.bank + 64 * place + i)
                  a < spadAddr m.notify.core m.reply ∨ spadAddr m.notify.core m.reply + 8 ≤ a → Memory.get u.mem a = x)
          ∧ (b.mode = .fifo → b.fifoUsed + took ≤ 1024 → b.queue ≠ [] → ∃ u it, exec (.sendDelivery id) s = .next u
              ∧ u.messages = s.messages.map (fun x => if x.id = m.id then { x with placed := some (64 * place) } else x)
              ∧ (u.bank m.core m.bank).fifo = b.fifo ++ [entry (some 5)] ∧ (u.bank m.core m.bank).fifoNext = (place + n) % 1024
              ∧ (u.bank m.core m.bank).queue = b.queue ++ [it] ∧ it.work = .store (bytesAt (65536 * m.bank + 64 * place) m.bytes)
              ∧ u.mem = s.mem))
        ∧ (∀ a, m.placed = some a → b.awaits m a = false → ∃ u, exec (.sendDelivery id) s = .next u ∧ ended u 0
            ∧ (u.bank m.core m.bank).fifo = b.fifo.map fun x => if x.addr = a ∧ x.taker = some 5 then { x with taker := none } else x)
        ∧ (m.placed = none → m.readyAt + 2 ^ 20 ≤ s.sfc → m.remote.isSome = true ∨ (b.mode = .fifo ∧ 1024 < b.fifoUsed + took) →
            ∃ u, exec (.sendTimeout id) s = .next u ∧ ended u (stLink * 2 ^ 56 + 2))
        ∧ (s.sfc < m.readyAt + 2 ^ 20 → exec (.sendTimeout id) s = .next s)

/-! ### Host commands: pages, regions, checkpoints, modes (spec/17, 18, 19, 23, 24) -/

/-- R234, R271, R277, R279 to R282, R284 to R286, R373 to R375. Host transfers and the page, region and checkpoint commands. A read answers the bytes of a page that
allows it, a write performs them at their home and nowhere else. Each command answers with its tag: PMAP maps onto free frames, PPIN and PUNPIN move pages
between MAPPED and PINNED, PUNMAP clears an entry and is answered when nothing uses it, RCREATE and RDESTROY begin and drain a region, CKSAVE keeps a
link with the pieces written since its base (a link that the flash lacks room for is POOL_FULL), CKDROP drops one that no other rests on. A refused header, or a module that is not READY, answers ATTR and does nothing else.
(Where a clause goes past the words of these rules it is the model's choice: assumption log 60, 70 to 73, 78.) -/
def Obligations.HostPages : Prop :=
  ∀ (s : State) (h : HostHdr) (tag va len x y : Nat) (bytes : List (BitVec 8)) (masks params : List Nat),
    let reply (s : State) (status : Nat) (data : List Nat) : Host.Outcome State Fault Refusal := .next { s with out := s.out ++ [⟨.response, h.tag, status, data⟩] }
    let one (p : Page) : Prop := AMap.get? s.pages va = some p ∧ len = p.size ∧ 0 < len ∧ s.aligned va = true
    (0 < len → va % 65536 + len ≤ 65536 →
      let sectors := hostSectors s false [(va, len)]
      let r := s.fetchSectors sectors
      let got := sectors.foldl (fun m pa => if r.2.nearArmed pa && r.2.winOpen pa then AMap.set m (pa / 64) (Memory.read r.2.mem pa 64) else m) []
      (r.1 = false ∨ hostBanksQuiet r.2 false [(va, len)] = false → exec (.hostRead tag va len) s =
          .next { r.2 with hostJobs := r.2.hostJobs ++ [.read tag va len got] })
      ∧ ∀ l, r.1 = true → hostBanksQuiet r.2 false [(va, len)] = true → hostLeaf r.2 va = some l → l.allows false = true → l.remote = false → exec (.hostRead tag va len) s =
          .next { r.2 with free := r.2.free + 1, out := r.2.out ++
            [⟨.response, tag, if r.2.poisoned l.pa len then stEcc else stOk, (Memory.read s.mem l.pa len).map BitVec.toNat⟩] })
    ∧ (hostLeaf s va = none → 0 < len → va % 65536 + len ≤ 65536 → exec (.hostRead tag va len) s =
        .next { s with free := s.free + 1, out := s.out ++ [⟨.response, tag, stXlate, []⟩] })
    ∧ (∀ l, hostLeaf s va = some l → l.allows true = true → l.remote = false → 0 < bytes.length → va % 65536 + bytes.length ≤ 65536 →
        let sectors := hostSectors s true [(va, bytes.length)]
        (hostBanksQuiet s true [(va, bytes.length)] = false → exec (.hostWrite tag va bytes) s = .next { s with hostJobs := s.hostJobs ++ [.write tag va bytes []] })
        ∧ (s.homeOpen sectors = false → hostBanksQuiet s true [(va, bytes.length)] = true →
            let r := s.hostPieces va bytes []
            exec (.hostWrite tag va bytes) s = .next { r.2 with hostJobs := r.2.hostJobs ++ [.write tag va bytes r.1] })
        ∧ (s.homeOpen sectors = true → hostBanksQuiet s true [(va, bytes.length)] = true → ∃ u, exec (.hostWrite tag va bytes) s = .next u ∧ u.mem = Memory.write s.mem l.pa bytes
            ∧ u = { (s.put l.pa bytes).landSectors sectors with out := s.out ++ [⟨.response, tag, stOk, []⟩] }))
    ∧ (∀ l, hostLeaf s va = some l → l.allows true = false → 0 < bytes.length → va % 65536 + bytes.length ≤ 65536 →
        exec (.hostWrite tag va bytes) s = .next { s with out := s.out ++ [⟨.response, tag, stAttr, []⟩] })
    ∧ (badHeader h = true ∨ s.takesCommands = false → ∀ i ∈ [Instr.pmap h va len x, .ppin h va len, .punpin h va len, .punmap h va len, .pstat h va,
        .rcreate h x va len masks params, .rdestroy h x, .rstat h x, .cksave h x y, .ckrestore h x, .ckdrop h x], exec i s = reply s stAttr [])
    ∧ (badHeader h = false → s.takesCommands = true →
      (s.aligned va = false → ∀ i ∈ [Instr.ppin h va len, .punpin h va len, .punmap h va len, .pstat h va], exec i s = reply s stAttr [0])
      ∧ (s.aligned va = true → ∀ i ∈ [Instr.ppin h va 0, .punpin h va 0, .punmap h va 0], exec i s = reply s stOk [])
      ∧ (∀ small : Bool, small = bitAt x 8 →
        let size := if small then 2 ^ 16 else 2 ^ 21
        let attr := x % 2 ^ 7
        (va % size ≠ 0 ∨ len % size ≠ 0 ∨ 2 ^ 9 ≤ x ∨ badAttr attr small = true → exec (.pmap h va len x) s = reply s stAttr [0])
        ∧ (∀ i, va % size = 0 → len % size = 0 → x < 2 ^ 9 → badAttr attr small = false → firstPage (len / size) (fun i => !s.pageFree (va + size * i) size) = some i →
            exec (.pmap h va len x) s = reply s stAttr [i])
        ∧ (va % size = 0 → len % size = 0 → x < 2 ^ 9 → badAttr attr small = false → firstPage (len / size) (fun i => !s.pageFree (va + size * i) size) = none →
            (∀ t, s.mapPages va attr (bitAt x 7) small (len / size) = some t → exec (.pmap h va len x) s = if t.undercoatsFit && t.tablesFit then reply t stOk [] else reply s stPoolFull [])
            ∧ (s.mapPages va attr (bitAt x 7) small (len / size) = none → exec (.pmap h va len x) s = reply s stPoolFull [])))
      ∧ (∀ p, one p → (p.state = .mapped → ∃ u, exec (.ppin h va len) s = reply u stOk []
            ∧ AMap.get? u.pages va = some { p with state := .pinned, attr := p.attr / 2 * 2 + 1 })
          ∧ (p.state = .pinned → exec (.ppin h va len) s = reply s stOk [])
          ∧ (p.state = .retiring ∨ p.state = .retired → exec (.ppin h va len) s = reply s stAttr [0]))
      ∧ (∀ p, one p → (p.state = .pinned → s.inRegion va = false → ∃ u, exec (.punpin h va len) s = reply u stOk []
            ∧ AMap.get? u.pages va = some { p with state := .mapped, attr := p.attr / 4 * 4 })
          ∧ (p.state = .mapped → exec (.punpin h va len) s = reply s stOk [])
          ∧ (p.state = .pinned → s.inRegion va = true → exec (.punpin h va len) s = reply s stAttr [0]))
      ∧ (∀ p, one p → (p.state = .pinned ∨ s.inRegion va = true → exec (.punmap h va len) s = reply s stAttr [0])
          ∧ (p.state = .mapped → s.inRegion va = false → ∃ u, exec (.punmap h va len) s = .next u ∧ u.out = s.out
              ∧ (∃ dies, u.unmaps = s.unmaps ++ [⟨h.tag, va, p.frame, p.size, p.attr, p.wr, dies⟩])
              ∧ (AMap.sortedFrom 0 s.pages = true → AMap.get? u.pages va = none)))
      ∧ (s.aligned va = true → s.pages.find? (fun e => decide (e.1 ≤ va ∧ va < e.1 + e.2.size)) = none → exec (.pstat h va) s = reply s stOk [0, 0, 0])
      ∧ (∀ e, s.aligned va = true → s.pages.find? (fun e => decide (e.1 ≤ va ∧ va < e.1 + e.2.size)) = some e → exec (.pstat h va) s =
          reply s stOk [(match e.2.state with | .mapped => 1 | .pinned => 2 | .retiring => 3 | .retired => 4), e.2.size, e.2.attr + if e.2.wr then 128 else 0])
      ∧ ((AMap.get? s.regions (x % 64)).isSome = true → bitAt x 8 = false → exec (.rcreate h x va len masks params) s = reply s stAttr [])
      ∧ (AMap.get? s.regions (x % 64) = none → x < 2 ^ 10 → bits x 7 6 = 0 → bitAt x 8 = false → va % 2 ^ 21 = 0 → len % 2 ^ 21 = 0 →
          (∀ e ∈ s.rangePages va len, ∃ p, e.2 = some p ∧ p.regionable = true) → maskPcs masks ≠ [] →
          (∀ pc ∈ maskPcs masks, s.noCursor pc = false ∧ ∀ e ∈ s.regions, ∀ sl ∈ e.2.slices, sl.pc ≠ pc) →
          ∃ u g, exec (.rcreate h x va len masks params) s = reply u stOk [] ∧ AMap.get? u.regions (x % 64) = some g ∧ g.state = .active ∧ g.step = false
            ∧ g.dord = bitAt x 9 ∧ g.base = va ∧ g.len = len ∧ g.slices.map Slice.pc = maskPcs masks ∧ ∀ sl ∈ g.slices, sl.done = 0 ∧ sl.busy = false ∧ sl.queue = [])
      ∧ (AMap.get? s.regions x = none → exec (.rdestroy h x) s = reply s stAttr [] ∧ exec (.rstat h x) s = reply s stAttr [])
      ∧ (∀ g, AMap.get? s.regions x = some g →
          (∃ u, exec (.rdestroy h x) s = .next u ∧ u.out = s.out ∧ AMap.get? u.regions x = some { g with state := .draining, destroyTags := g.destroyTags ++ [h.tag] })
          ∧ exec (.rstat h x) s = reply s stOk [if g.state = .active then 1 else 2, (match g.slices with | sl :: _ => sl.done | [] => 0) % 2 ^ 32,
              g.slices.foldl (fun n sl => n + sl.queue.length) 0, (g.lastError.getD (0, 0)).1, (g.lastError.getD (0, 0)).2 % 2 ^ 32])
      ∧ (x = 0 ∨ (s.ckLink? x).isSome = true → exec (.cksave h x 0) s = reply s stAttr [])
      ∧ (x ≠ 0 → x < 2 ^ 32 → s.ckLink? x = none → s.regions = [] →
          let l : CkLink :=
            { id := x, base := 0, point := s.sfc, pieces := s.ckPieces.map (fun p => (p.1, p.2.2)), pages := s.ckPages, regions := [], waits := [],
              complete := false, event := s.nextSeq, tag := none, cut := false }
          (s.flashUsed + l.size ≤ 2 ^ 40 → exec (.cksave h x 0) s = reply { s with ckLinks := s.ckLinks ++ [l], nextSeq := s.nextSeq + 1 } stOk [s.sfc])
          ∧ (2 ^ 40 < s.flashUsed + l.size → exec (.cksave h x 0) s = reply s stPoolFull []))
      ∧ (∀ ls p, y ≠ 0 → s.chainOf y = some ls → p ∈ s.ckPieces →
          (∀ l t, ls.getLast? = some l → AMap.get? s.touched (p.2.1 / 65536) = some t → l.event < t → (p.1, p.2.2) ∈ s.newPieces ls)
          ∧ (∀ l q, ls.getLast? = some l → (AMap.get? s.touched (p.2.1 / 65536)).all (fun t => decide (t ≤ l.event)) = true →
              (∃ l ∈ ls, ∃ bs, (p.1, bs) ∈ l.pieces) → (∀ p' ∈ s.ckPieces, p'.1 = p.1 → p' = p) → q ∈ s.newPieces ls → q.1 ≠ p.1))
      ∧ (s.ckLink? x = none → exec (.ckrestore h x) s = reply s stAttr [] ∧ exec (.ckdrop h x) s = reply s stAttr [])
      ∧ ((s.ckLink? x).isSome = true → (∀ l ∈ s.ckLinks, l.base ≠ x) → exec (.ckdrop h x) s =
          reply { s with ckLinks := s.ckLinks.filter fun l => l.id ≠ x } stOk [])
      ∧ (∀ l t, s.ckLink? x = some l → l.base = 0 → l.complete = true → l.regions = [] → s.regions = [] → (∀ d, ∀ q ∈ (s.die d).queues, q.state = .idle) →
          s.mapMissing l.pages = some t → exec (.ckrestore h x) s = reply (l.pieces.foldl (fun s p => s.putVa p.1 p.2) t) stOk []))

/-- R234, R362, R368 to R372, R376, R377, R381. The host's other commands: the mode a control-core pair takes at its next reload, the hash interval and the nodes of a
formed tree, the trace ring, breakpoints, health, firmware that verifies and nothing else, attestation of the nonce and every image, and a power limit
from 400 W.
(Where a clause goes past the words of these rules it is the model's choice: assumption log 70, 75 to 77, 85.) -/
def Obligations.HostModes : Prop :=
  ∀ (s : State) (h : HostHdr) (n a b c : Nat) (flag : Bool) (bps : List (Option Nat)) (image : List (BitVec 8)),
    let reply (s : State) (status : Nat) (data : List Nat) : Host.Outcome State Fault Refusal := .next { s with out := s.out ++ [⟨.response, h.tag, status, data⟩] }
    (badHeader h = true ∨ s.takesCommands = false → ∀ i ∈ [Instr.cpmode h n flag, .hashcfg h n, .hashrd h n a b, .trcfg h a b c n, .dbg h n flag bps, .plim h n],
      exec i s = reply s stAttr [])
    ∧ (badHeader h = false → s.takesCommands = true →
      (∀ p : Fin 4, p.val = n → exec (.cpmode h n flag) s = reply { s with dies := s.dies.set (dieIx h.die) { s.die h.die with
          pairs := (s.die h.die).pairs.set p { (s.die h.die).pairs[p] with nextSplit := flag } } } stOk [])
      ∧ (4 ≤ n → exec (.cpmode h n flag) s = reply s stAttr [])
      ∧ (n < 2 ^ 25 → exec (.hashcfg h n) s = reply { s with hashEvery := n % 2 ^ 24 + 1, hashOn := decide (2 ^ 24 ≤ n) } stOk [])
      ∧ (2 ^ 25 ≤ n → exec (.hashcfg h n) s = reply s stAttr [])
      ∧ (s.trees.find? (fun t => t.boundary = n) = none → exec (.hashrd h n a b) s = reply s stAttr [])
      ∧ (∀ t, s.trees.find? (fun t => t.boundary = n) = some t → t.formed = false → exec (.hashrd h n a b) s =
          .next { s with hashReads := s.hashReads ++ [(h.tag, n, a, b)] })
      ∧ (∀ t l root, s.trees.find? (fun t => t.boundary = n) = some t → t.formed = true → t.levels.getLast? = some (root :: l) → exec (.hashrd h n 0xFF b) s =
          reply s stOk (root.map BitVec.toNat))
      ∧ (a % 4096 = 0 → (∃ i, i < 15 ∧ b = 2 ^ (16 + i)) → c = 0 ∨ (2 ^ 10 ≤ c ∧ c ≤ 2 ^ 30) → exec (.trcfg h a b c n) s =
          reply { s with trace := ⟨a, b, c, n, 0, 0⟩ } stOk [])
      ∧ (a % 4096 ≠ 0 → exec (.trcfg h a b c n) s = reply s stAttr [])
      ∧ (n < 104 → exec (.dbg h n flag bps) s = reply (s.setCore (128 * (h.die % 4) + n) { s.core (128 * (h.die % 4) + n) with
          armed := flag, breaks := Vector.ofFn fun i : Fin 4 => (bps[i.val]?).getD none }) stOk [])
      ∧ (104 ≤ n → exec (.dbg h n flag bps) s = reply s stAttr [])
      ∧ (400 ≤ n → n < 2 ^ 16 → exec (.plim h n) s = reply { s with plimit := n } stOk [])
      ∧ (n < 400 → exec (.plim h n) s = reply s stAttr []))
    ∧ (badHeader h = true ∨ s.recovery = true → exec (.hstat h) s = reply s stAttr [])
    ∧ (badHeader h = false → s.recovery = false → ∃ data : List Nat, exec (.hstat h) s = reply { s with free := s.free + 2 } stOk data ∧ data.length = 354
        ∧ ∀ i, i < 104 → data[i]? = some (s.core (128 * (h.die % 4) + i)).errors)
    ∧ (badHeader h = false → s.recovery = true ∨ s.stage = .ready → exec (.fwload h image) s =
        if Config.shake256 (Config.imageKey image) 32 = Config.fusedDigest ∧ Config.mldsaVerify (Config.imageKey image) image = true then reply { s with firmware := image, recovery := false } stOk [] else reply s stAttr [])
    ∧ (badHeader h = true ∨ (s.recovery = false ∧ s.stage ≠ .ready) → exec (.fwload h image) s = reply s stAttr [])
    ∧ (badHeader h = false → image.length = 32 → exec (.attest h image) s = reply s stOk
        ((s.attested image ++ (Config.mldsaSign (s.attested image)).toList ++ Config.identityKey.toList).map BitVec.toNat))
    ∧ (image.length ≠ 32 → exec (.attest h image) s = reply s stAttr [])

/-! ### The module (spec/01, 23, 24) -/

/-- R8, R320, R335, R362, R366, R368, R370, R372, R375, R376, R378, R379, R381. What comes about on the module: bring-up's stages, reset and power loss, low margin, an overheated
die, a droop record for each core of the domain, trace samples, scrubbing of a word or an accumulator, hash boundaries and trees, finished flash writes, a reloaded pair, an
indicator of wear.
(Where a clause goes past the words of these rules it is the model's choice: assumption log 25, 35, 79 to 85.) -/
def Obligations.ModuleEvents : Prop :=
  ∀ (s : State) (die dom k : Nat), die < 4 → dom < 12 → coreExists k = true →
    let x := (s.die die).domains[domIx dom]
    let told (s : State) (subject status : Nat) (data : List Nat) : State := { s with out := s.out ++ [⟨.event, subject, status, data⟩] }
    let domain (s : State) (y : Domain) : State :=
      let ds := (s.die die).domains.set (domIx dom) y
      { s with dies := s.dies.set (dieIx die) { s.die die with domains := ds } }
    let at_ := s.runningAt k
    (∃ u, exec .moduleReset s = .next u ∧ u.sfc = 0 ∧ u.mem = [] ∧ u.cores = [] ∧ u.chans = [] ∧ u.kernels = [] ∧ u.launches = [] ∧ u.regions = [] ∧ u.pages = []
        ∧ (∀ i, i < 512 → (u.chan i).power = .selfRefresh) ∧ u.stage = .dwell ∧ u.retired = s.retired ∧ u.air = s.air ∧ u.firmware = Config.bootImage
        ∧ (u.recovery = true ↔ Config.shake256 (Config.imageKey Config.bootImage) 32 ≠ Config.fusedDigest
            ∨ Config.mldsaVerify (Config.imageKey Config.bootImage) Config.bootImage = false)
        ∧ u.ckLinks.map CkLink.id = s.ckLinks.map CkLink.id ∧ ∀ (i : Nat) (l : CkLink), s.ckLinks[i]? = some l → l.waits = [] → u.ckLinks[i]? = some l)
    ∧ (∃ u, exec .powerLoss s = .next u ∧ u.mem = [] ∧ u.cores = [] ∧ u.stage = .stopped ∧ u.ckLinks.map CkLink.id = s.ckLinks.map CkLink.id
        ∧ ∀ (i : Nat) (l : CkLink), s.ckLinks[i]? = some l → l.complete = true → u.ckLinks[i]? = some l)
    ∧ (∀ warm, s.stage ≠ .dwell ∨ s.recovery = true → exec (.dwellEnd warm) s = .next s)
    ∧ (s.stage = .dwell → s.recovery = false → ∃ u v, exec (.dwellEnd true) s = .next u
          ∧ u = { s with stage := .train, chans := u.chans, links := s.links.map fun l => if l.state = .down then { l with state := .training } else l }
          ∧ (∀ i, i < 512 → u.chan i = { s.chan i with power := .active })
        ∧ exec (.dwellEnd false) s = .next v ∧ v = told { s with stage := .stopped, chans := v.chans } 0 stCancelled []
          ∧ ∀ i, i < 512 → v.chan i = { s.chan i with power := .selfRefresh })
    ∧ (s.stage ≠ .train → exec .trainComplete s = .next s ∧ exec .channelTrainingFails s = .next s)
    ∧ (s.stage = .train → ∃ u v, exec .trainComplete s = .next u ∧ u = { s with stage := .ramp, chans := u.chans }
          ∧ (∀ i, i < 512 → u.chan i =
            { s.chan i with running := true, idx := 0, start := s.sfc / 4, ends := s.sfc / 4 + 144,
                            table := [0x1090000000000000, 0x3030000000000000, 0x1020000000000000, 0x4020000000000000] })
        ∧ exec .channelTrainingFails s = .next v ∧ v = told { s with stage := .stopped, chans := v.chans } 0 stCancelled []
          ∧ ∀ i, i < 512 → v.chan i = { s.chan i with power := .selfRefresh })
    ∧ exec .rampComplete s = .next (if s.stage = .ramp then { s with stage := .ready } else s)
    ∧ exec (.marginLow die dom) s = .next (domain s (if x.raised then { x with skipping := true } else { x with raised := true }))
    ∧ exec (.marginRestored die dom) s = .next (domain s { x with skipping := false, raised := false })
    ∧ (∃ u, exec (.dieOvertemp die) s = .next u ∧ u.overheated = true ∧ (∀ i, i < 512 → u.chan i = { s.chan i with power := .selfRefresh })
        ∧ u = { s with chans := u.chans, dies := u.dies, out := s.out ++ [⟨.event, die, stCancelled, []⟩] })
    ∧ (∀ t, x.lastDroop = some t → s.sfc < t + 4096 → exec (.droopFire die dom) s = .next (domain s { x with droops := x.droops + 1, lastDroop := some s.sfc }))
    ∧ ((∀ t, x.lastDroop = some t → t + 4096 ≤ s.sfc) → s.trace.size = 0 → exec (.droopFire die dom) s =
        .next (domain s { x with droops := x.droops + 1, lastDroop := some s.sfc }))
    ∧ ((∀ t, x.lastDroop = some t → t + 4096 ≤ s.sfc) →
        let cores := (List.range 104).filter fun i => (i < 96 ∧ i / 8 = dom) ∨ i = 96 + dom
        exec (.droopFire die dom) s = .next (cores.foldl (fun t i =>
          let r := t.runningAt (128 * die + i)
          t.traceRec { type := 5, core := 128 * die + i, ctx := r.1, addr := r.2, sfc := s.sfc, payload := dom })
          (domain s { x with droops := x.droops + 1, lastDroop := some s.sfc })))
    ∧ (∀ r : TraceRec, s.trace.size ≠ 0 → bitAt s.trace.mask r.type = true →
        (s.trace.size ≤ 32 * s.trace.index → s.traceRec r = { s with trace := { s.trace with dropped := s.trace.dropped + 1 } })
        ∧ (∀ l, 32 * s.trace.index < s.trace.size → translate s 0 (s.trace.base + 32 * s.trace.index) = some l →
          (s.traceRec r).trace = { s.trace with index := s.trace.index + 1 } ∧ (s.traceRec r).mem = Memory.write s.mem l.pa
            (leBytes 8 (r.type + 256 * (r.core / 128) + 2 ^ 16 * (r.core % 128) + 2 ^ 24 * r.ctx) ++ leBytes 8 r.addr ++ leBytes 8 r.sfc ++ leBytes 8 r.payload)))
    ∧ (s.trace.period = 0 ∨ s.sfc % s.trace.period ≠ 0 → exec (.traceSample k) s = .next s)
    ∧ (∀ l, s.trace.period ≠ 0 → s.sfc % s.trace.period = 0 → 32 * s.trace.index < s.trace.size → bitAt s.trace.mask 3 = true →
        translate s 0 (s.trace.base + 32 * s.trace.index) = some l →
        let rec_ := leBytes 8 (3 + 256 * (k / 128) + 2 ^ 16 * (k % 128) + 2 ^ 24 * at_.1) ++ leBytes 8 at_.2 ++ leBytes 8 s.sfc ++ leBytes 8 0
        exec (.traceSample k) s =
          .next (({ s with trace := { s.trace with index := s.trace.index + 1 } }.put l.pa rec_).llcPut l.pa 0))
    ∧ (∀ addr, addr < 2 ^ 60 → exec (.scrub addr none) s = .next s
        ∧ (addr < 2 ^ 47 → ∃ u, exec (.scrub addr (some false)) s = .next u ∧ u.mem = s.mem ∧ u.poison = s.poison
            ∧ (s.llcHit addr = true → (u.die (homeDie addr)).errors = (s.die (homeDie addr)).errors + 1)
            ∧ (s.llcHit addr = false → AMap.getD (u.chan (chanOfPc (homePc addr))).corrected (rowKey addr) 0 =
                AMap.getD (s.chan (chanOfPc (homePc addr))).corrected (rowKey addr) 0 + 1))
        ∧ ∃ u, exec (.scrub addr (some true)) s = .next u ∧ u.mem = s.mem ∧ ∀ n, 0 < n → u.poisoned (addr / 8 * 8) n = true)
    ∧ (∀ a, 2 ^ 61 ≤ a → arrayCore a = k → exec (.scrub a none) s = .next s
        ∧ ∃ u, exec (.scrub a (some true)) s = .next u ∧ u.mem = s.mem ∧ (u.core k).errors = (s.core k).errors + 1 ∧ u.poisoned (a / 8 * 8) 1 = true)
    ∧ (∀ w row col : Nat, w = 64 * row + col → row < 16384 → col < 64 → ∃ u, exec (.scrub (2 ^ 60 + k * 2 ^ 20 + w) (some true)) s = .next u
        ∧ (u.core k).errors = (s.core k).errors + 1 ∧ ∀ j : Fin 64, ((u.core k).accRow (row / 64) (row % 64))[j] =
            if j.val / 2 = col / 2 then 0x7FC00000 else ((s.core k).accRow (row / 64) (row % 64))[j])
    ∧ (s.hashOn = false ∨ s.sfc % (256 * s.hashEvery) ≠ 0 → exec .hashBoundary s = .next s)
    ∧ (s.hashOn = true → s.sfc % (256 * s.hashEvery) = 0 → s.hashReads = [] → s.trees = [] → ∃ t, exec .hashBoundary s = .next { s with trees := [t] }
        ∧ t.boundary = s.sfc / (256 * s.hashEvery) ∧ t.formed = false ∧ t.levels[0]? = some (s.hashRanges.map fun va => Config.shake256 (s.leafBytes va) 32))
    ∧ ((∀ t ∈ s.trees, t.formed = true) → exec .hashTreeFormed s = .next s)
    ∧ (∀ t, s.trees = [t] → t.formed = false → s.hashReads = [] → exec .hashTreeFormed s = .next { s with trees := [{ t with formed := true }] })
    ∧ (∀ id, exec (.checkpointWriteComplete id) s = .next
        { s with ckLinks := s.ckLinks.map fun l => if l.id = id ∧ l.waits = [] ∧ l.cut = false then { l with complete := true } else l })
    ∧ (∀ pair : Fin 4, ∃ u, exec (.firmwareReload die pair.val) s = .next u ∧ (u.die die).pairs[pair] =
          { (s.die die).pairs[pair] with split := (s.die die).pairs[pair].nextSplit, stopped := false }
        ∧ (u.core (128 * die + 96 + 2 * pair.val)).halted = false ∧ (u.core (128 * die + 97 + 2 * pair.val)).halted = false)
    ∧ (∀ unit months, unit < 106 → months < 2 ^ 16 → ∃ u, exec (.ageingIndicatorLow die unit months) s = .next u ∧ AMap.get? (u.die die).ageing unit = some months
        ∧ (months < 12 → 12 ≤ AMap.getD (s.die die).ageing unit 0xFFFF → u.out = s.out ++ [⟨.event, die, stOk, [unit, months]⟩])
        ∧ (12 ≤ months → u.out = s.out))

/-! ### Encoding, reset, and what every step keeps -/

/-- R83 to R93. Every slot word has one meaning: for a well-formed instruction of a slot, with every operand at every value, the decoding of its
encoding is the instruction itself and the encoding fits the slot; and a word that decodes to an instruction other than a no-operation is that
instruction's encoding, and the instruction is well formed. -/
def Obligations.DecodeEncodedSlots : Prop :=
  (∀ (i : Instr) (sl : Slot), i.wf = true → slotOf i = some sl → encode i < 2 ^ sl.width ∧ decodeSlot sl (encode i) = .ok i)
  ∧ ∀ (sl : Slot) (w : Nat) (i : Instr), w < 2 ^ sl.width → decodeSlot sl w = .ok i → i ≠ .nop → i.wf = true ∧ slotOf i = some sl ∧ encode i = w

/-- R83 to R93. Words written out from the spec's encoding tables decode to the instructions they stand for, one or more for every slot. -/
def Obligations.DecodeSpecWords : Prop :=
  decodeSlot .a 0x04A5300 = .ok (.add .a 5 5 6) ∧ decodeSlot .b 0x04A5300 = .ok (.add .b 5 5 6)
  ∧ decodeSlot .c 0x5C00000 = .ok (.rett ⟨0, false⟩) ∧ decodeSlot .c 0x6000850 = .ok (.csrr ⟨0, false⟩ 0x008 10)
  ∧ decodeSlot .c 0x440A600 = .ok (.launch ⟨0, false⟩ 5 6) ∧ decodeSlot .k 0x262 = .ok (.kld 1 4 2)
  ∧ decodeSlot .v 0x0848110DD80 = .ok (.vfma ⟨3, true⟩ 1 4 1 2 3 1 true)
  ∧ decodeSlot .d 0x1BD2010 = .ok (.vldG 15 9 0 0x10) ∧ decodeSlot .d 0x6008202 = .ok (.hset 4 1 2)
  ∧ decodeTableWord 24 0x081800 = some (.mcall 3) ∧ decodeTableWord 24 0x123800 = some (.mpset 2 7)
  ∧ decodeTableWord 32 0x08800000 = some (.cseq 4) ∧ decodeTableWord 32 0x4CE60008 = some (.tincw 7 6 0 8)

/-- R8, R169, R194, R256, R275, R316, R320, R335, R378, R391. The module right after reset: bring-up stage 1 at SFC 0; every context FREE with its registers at their
reset values; every bank free and in SCRATCH mode; accumulators +0.0; MSLOT entry n granting context n modulo 4; channels in self-refresh with the default timetable,
not running; links DOWN; no translation; memory in its canonical form with nothing listed. (What the spec gives no reset value for is the model's:
assumption log 5.) -/
def Obligations.ResetState : Prop :=
  let s := State.reset
  s.sfc = 0 ∧ s.stage = .dwell ∧ s.mem = [] ∧ s.mem.wf = true ∧ MapsSorted s ∧ (∀ a, Memory.get s.mem a = 0)
  ∧ (∀ k c : Nat, (s.ctx k c).status = .free ∧ (s.ctx k c).regs.x = Vector.replicate 32 0 ∧ (s.ctx k c).regs.pc = 0 ∧ (s.ctx k c).regs.trapvec = 0
      ∧ (s.ctx k c).regs.hnd = false ∧ (s.ctx k c).regs.clm = 0xFF ∧ (s.ctx k c).sm = Vector.replicate 16 0 ∧ (s.ctx k c).inflight = [])
  ∧ (∀ (k : Nat) (b : Fin 32), (s.core k).banks[b].owner = none ∧ (s.core k).banks[b].mode = .scratch ∧ (s.core k).banks[b].queue = [])
  ∧ (∀ k tile row : Nat, (s.core k).accRow tile row = Vector.replicate 64 0)
  ∧ (∀ (k : Nat) (n : Fin 16), (s.core k).mslot[n] = BitVec.ofNat 3 (4 + n.val % 4))
  ∧ (∀ ch : Nat, (s.chan ch).running = false ∧ (s.chan ch).power = .selfRefresh ∧ (s.chan ch).table = [0x1090000000000000, 0x3030000000000000, 0x1020000000000000, 0x4020000000000000])
  ∧ (∀ l : Nat, (s.link l).state = .down) ∧ (∀ d va : Nat, translate s d va = none)

/-- R7. Every step keeps memory in its canonical form: addresses that rise strictly, and no entry equal to what an unlisted address reads as.
(Where a clause goes past the words of these rules it is the model's choice: assumption log 1.) -/
def Obligations.StepKeepsMemory : Prop :=
  ∀ (s t : State), s.mem.wf = true → step s = .next t → t.mem.wf = true

/-- The model's own form of its maps (no rule of the spec), on which statements about removed entries rest: every step keeps the tables of regions and pages,
and each core's accumulator store, with keys that rise strictly.
(Where a clause goes past the words of these rules it is the model's choice: assumption log 90.) -/
def Obligations.StepKeepsMaps : Prop :=
  ∀ (s t : State), MapsSorted s → step s = .next t → MapsSorted t
end

