-- ==== Sys2Proof/Laws/Maps.lean ====
section
/-! SUPPORT. Laws of finite maps and of memory: read after write, writes elsewhere, and the canonical form kept. -/
namespace Sys2Proof.Machine

/-! ### Finite maps -/

theorem AMap.get?_set_self {α : Type} (m : AMap α) (k : Nat) (a : α) : AMap.get? (AMap.set m k a) k = some a := by
  induction m with
  | nil => simp [AMap.set, AMap.get?]
  | cons e t ih =>
    obtain ⟨j, b⟩ := e
    simp only [AMap.set]
    split
    · simp [AMap.get?]
    · split
      · simp [AMap.get?]
      · simp_all [AMap.get?]

theorem AMap.get?_set_ne {α : Type} (m : AMap α) {k j : Nat} (a : α) (h : j ≠ k) :
    AMap.get? (AMap.set m k a) j = AMap.get? m j := by
  induction m with
  | nil => simp [AMap.set, AMap.get?, h.symm]
  | cons e t ih =>
    obtain ⟨i, b⟩ := e
    simp only [AMap.set]
    split
    · next e =>
      subst e
      simp only [AMap.get?, h.symm, if_false]
    · split
      · simp only [AMap.get?, h.symm, if_false]
        split
        · rw [if_neg (by omega), if_pos (by omega)]
        · rfl
      · simp only [AMap.get?, ih]

@[simp] theorem AMap.getD_set_self {α : Type} (m : AMap α) (k : Nat) (a d : α) : AMap.getD (AMap.set m k a) k d = a := by
  simp [AMap.getD, AMap.get?_set_self]

theorem AMap.getD_set_ne {α : Type} (m : AMap α) {k j : Nat} (a d : α) (h : j ≠ k) :
    AMap.getD (AMap.set m k a) j d = AMap.getD m j d := by
  simp [AMap.getD, AMap.get?_set_ne m a h]

theorem AMap.set_set {α : Type} (m : AMap α) (k : Nat) (a b : α) : AMap.set (AMap.set m k a) k b = AMap.set m k b := by
  induction m with
  | nil => simp [AMap.set]
  | cons e t ih =>
    obtain ⟨j, c⟩ := e
    simp only [AMap.set]
    split
    · simp [AMap.set]
    · split
      · simp [AMap.set]
      · simp_all [AMap.set]

theorem AMap.sortedFrom_mono {α : Type} (m : AMap α) {lo hi : Nat} (h : lo ≤ hi) (w : AMap.sortedFrom hi m = true) :
    AMap.sortedFrom lo m = true := by
  cases m with
  | nil => rfl
  | cons e t =>
    simp only [AMap.sortedFrom, Bool.and_eq_true, decide_eq_true_eq] at *
    exact ⟨by omega, w.2⟩

theorem AMap.set_sorted {α : Type} (m : AMap α) (lo k : Nat) (a : α) (hk : lo ≤ k) (h : AMap.sortedFrom lo m = true) :
    AMap.sortedFrom lo (AMap.set m k a) = true := by
  induction m generalizing lo with
  | nil => simp [AMap.set, AMap.sortedFrom, hk]
  | cons e t ih =>
    obtain ⟨j, b⟩ := e
    simp only [AMap.sortedFrom, Bool.and_eq_true, decide_eq_true_eq] at h
    simp only [AMap.set]
    split
    · simp_all [AMap.sortedFrom]
    · split
      · next hlt => simp [AMap.sortedFrom, hk, h.2]; omega
      · simp only [AMap.sortedFrom, Bool.and_eq_true, decide_eq_true_eq]
        exact ⟨h.1, ih (j + 1) (by omega) h.2⟩

/-! ### Memory: the canonical form -/

theorem Memory.wfFrom_mono (m : Memory) {lo hi : Nat} (h : lo ≤ hi) (w : Memory.wfFrom hi m = true) : Memory.wfFrom lo m = true := by
  cases m with
  | nil => rfl
  | cons e t =>
    simp only [Memory.wfFrom, Bool.and_eq_true, decide_eq_true_eq] at *
    exact ⟨⟨by omega, w.1.2⟩, w.2⟩

theorem Memory.wfFrom_set (m : Memory) (lo a : Nat) (v : Byte) (ha : lo ≤ a) (h : Memory.wfFrom lo m = true) :
    Memory.wfFrom lo (Memory.set m a v) = true := by
  induction m generalizing lo with
  | nil => by_cases hv : v = defaultByte <;> simp [Memory.set, Memory.wfFrom, hv, ha]
  | cons e t ih =>
    obtain ⟨j, b⟩ := e
    simp only [Memory.wfFrom, Bool.and_eq_true, decide_eq_true_eq] at h
    by_cases hv : v = defaultByte
    · simp only [Memory.set, if_pos hv]
      split
      · exact Memory.wfFrom_mono t (by omega) h.2
      · split
        · simp [Memory.wfFrom, h.1.1, h.1.2, h.2]
        · simp only [Memory.wfFrom, Bool.and_eq_true, decide_eq_true_eq]
          exact ⟨h.1, ih (j + 1) (by omega) h.2⟩
    · simp only [Memory.set, if_neg hv]
      split
      · next e => subst e; simp [Memory.wfFrom, h.1.1, h.2, hv]
      · split
        · simp [Memory.wfFrom, h.1.2, h.2, ha, hv]; omega
        · simp only [Memory.wfFrom, Bool.and_eq_true, decide_eq_true_eq]
          exact ⟨h.1, ih (j + 1) (by omega) h.2⟩

/-- A write of a byte keeps the canonical form. -/
theorem Memory.wf_set (m : Memory) (a : Nat) (v : Byte) (h : m.wf = true) : (Memory.set m a v).wf = true :=
  Memory.wfFrom_set m 0 a v (Nat.zero_le a) h

/-- A write of bytes keeps the canonical form. -/
theorem Memory.wf_write (m : Memory) (a : Nat) (bs : List Byte) (h : m.wf = true) : (Memory.write m a bs).wf = true := by
  induction bs generalizing m a with
  | nil => exact h
  | cons b t ih => exact ih _ _ (Memory.wf_set m a b h)

/-- A write of a value keeps the canonical form. -/
theorem Memory.wf_store (m : Memory) (a n x : Nat) (h : m.wf = true) : (Memory.store m a n x).wf = true :=
  Memory.wf_write m a _ h

theorem Memory.wfFrom_filter (m : Memory) (lo : Nat) (p : Host.Cell → Bool) (h : Memory.wfFrom lo m = true) :
    Memory.wfFrom lo (m.filter p) = true := by
  induction m generalizing lo with
  | nil => rfl
  | cons e t ih =>
    obtain ⟨j, b⟩ := e
    simp only [Memory.wfFrom, Bool.and_eq_true, decide_eq_true_eq] at h
    simp only [List.filter]
    split
    · simp only [Memory.wfFrom, Bool.and_eq_true, decide_eq_true_eq]
      exact ⟨h.1, ih _ h.2⟩
    · exact ih lo (Memory.wfFrom_mono t (by omega) h.2)

/-- Removing cells keeps the canonical form. -/
theorem Memory.wf_filter (m : Memory) (p : Host.Cell → Bool) (h : m.wf = true) : Memory.wf (m.filter p) = true :=
  Memory.wfFrom_filter m 0 p h

/-! ### Memory: reading after writing -/

theorem Memory.get_below (m : Memory) (lo a : Nat) (h : Memory.wfFrom lo m = true) (ha : a < lo) : Memory.get m a = defaultByte := by
  cases m with
  | nil => rfl
  | cons e t =>
    obtain ⟨j, b⟩ := e
    simp only [Memory.wfFrom, Bool.and_eq_true, decide_eq_true_eq] at h
    simp only [Memory.get]
    rw [if_neg (by omega), if_pos (by omega)]

theorem Memory.get_set_self_from (m : Memory) (lo a : Nat) (v : Byte) (h : Memory.wfFrom lo m = true) :
    Memory.get (Memory.set m a v) a = v := by
  induction m generalizing lo with
  | nil => by_cases hv : v = defaultByte <;> simp [Memory.set, Memory.get, hv]
  | cons e t ih =>
    obtain ⟨j, b⟩ := e
    simp only [Memory.wfFrom, Bool.and_eq_true, decide_eq_true_eq] at h
    by_cases hv : v = defaultByte
    · simp only [Memory.set, if_pos hv]
      split
      · next e => subst e; rw [hv]; exact Memory.get_below t (j + 1) j h.2 (by omega)
      · next ne =>
        split
        · next lt => simp only [Memory.get]; rw [if_neg ne, if_pos lt, hv]
        · next nlt => simp only [Memory.get]; rw [if_neg ne, if_neg nlt]; exact ih (j + 1) h.2
    · simp only [Memory.set, if_neg hv]
      split
      · simp [Memory.get]
      · next ne =>
        split
        · simp [Memory.get]
        · next nlt => simp only [Memory.get]; rw [if_neg ne, if_neg nlt]; exact ih (j + 1) h.2

/-- A byte that has been written reads as written. -/
theorem Memory.get_set_self (m : Memory) (a : Nat) (v : Byte) (h : m.wf = true) : Memory.get (Memory.set m a v) a = v :=
  Memory.get_set_self_from m 0 a v h

theorem Memory.get_set_ne_from (m : Memory) (lo a c : Nat) (v : Byte) (hc : c ≠ a) (h : Memory.wfFrom lo m = true) :
    Memory.get (Memory.set m a v) c = Memory.get m c := by
  induction m generalizing lo with
  | nil =>
    by_cases hv : v = defaultByte
    · simp [Memory.set, Memory.get, hv]
    · simp [Memory.set, Memory.get, hv, hc.symm]
  | cons e t ih =>
    obtain ⟨j, b⟩ := e
    simp only [Memory.wfFrom, Bool.and_eq_true, decide_eq_true_eq] at h
    have hca : ¬ a = c := fun e => hc e.symm
    by_cases hv : v = defaultByte
    · simp only [Memory.set, if_pos hv]
      split
      · next e =>
        subst e
        simp only [Memory.get]
        rw [if_neg hca]
        split
        · next lt => exact Memory.get_below t (j + 1) c h.2 (by omega)
        · rfl
      · split
        · rfl
        · simp only [Memory.get, ih (j + 1) h.2]
    · simp only [Memory.set, if_neg hv]
      split
      · next e => subst e; simp only [Memory.get, if_neg hca]
      · split
        · simp only [Memory.get]
          rw [if_neg hca]
          split
          · rw [if_neg (by omega), if_pos (by omega)]
          · rfl
        · simp only [Memory.get, ih (j + 1) h.2]

/-- A write leaves every other byte alone. -/
theorem Memory.get_set_ne (m : Memory) {a c : Nat} (v : Byte) (hc : c ≠ a) (h : m.wf = true) :
    Memory.get (Memory.set m a v) c = Memory.get m c := Memory.get_set_ne_from m 0 a c v hc h

/-- A write of bytes leaves alone every byte outside them. -/
theorem Memory.get_write_outside (m : Memory) (a c : Nat) (bs : List Byte) (hc : c < a ∨ a + bs.length ≤ c) (h : m.wf = true) :
    Memory.get (Memory.write m a bs) c = Memory.get m c := by
  induction bs generalizing m a with
  | nil => rfl
  | cons b t ih =>
    simp only [List.length_cons] at hc
    simp only [Memory.write]
    rw [ih _ _ (by omega) (Memory.wf_set m a b h), Memory.get_set_ne m b (by omega) h]

/-- Bytes that have been written read as written. -/
theorem Memory.get_write_inside (m : Memory) (a i : Nat) (bs : List Byte) (hi : i < bs.length) (h : m.wf = true) :
    Memory.get (Memory.write m a bs) (a + i) = bs[i] := by
  induction bs generalizing m a i with
  | nil => simp at hi
  | cons b t ih =>
    simp only [Memory.write]
    cases i with
    | zero =>
      simp only [Nat.add_zero, List.getElem_cons_zero]
      rw [Memory.get_write_outside _ _ _ _ (by omega) (Memory.wf_set m a b h), Memory.get_set_self m a b h]
    | succ n =>
      have : a + (n + 1) = (a + 1) + n := by omega
      rw [this, ih _ _ n (by simpa using hi) (Memory.wf_set m a b h)]
      rfl

end Sys2Proof.Machine
end

