-- ==== Sys2Proof/Laws/State.lean ====
section
/-! SUPPORT. Laws of the state: what each accessor reads after each update. -/
namespace Sys2Proof.Machine

/-! ### setCore -/

@[simp] theorem State.setCore_sfc (s : State) (k : Nat) (c : Core) : (s.setCore k c).sfc = s.sfc := rfl
@[simp] theorem State.setCore_steer (s : State) (k : Nat) (c : Core) : (s.setCore k c).steer = s.steer := rfl
@[simp] theorem State.setCore_held (s : State) (k : Nat) (c : Core) : (s.setCore k c).held = s.held := rfl
@[simp] theorem State.setCore_clocks (s : State) (k : Nat) (c : Core) : (s.setCore k c).clocks = s.clocks := rfl
@[simp] theorem State.setCore_mem (s : State) (k : Nat) (c : Core) : (s.setCore k c).mem = s.mem := rfl
@[simp] theorem State.setCore_dies (s : State) (k : Nat) (c : Core) : (s.setCore k c).dies = s.dies := rfl
@[simp] theorem State.setCore_chans (s : State) (k : Nat) (c : Core) : (s.setCore k c).chans = s.chans := rfl
@[simp] theorem State.setCore_links (s : State) (k : Nat) (c : Core) : (s.setCore k c).links = s.links := rfl
@[simp] theorem State.setCore_kernels (s : State) (k : Nat) (c : Core) : (s.setCore k c).kernels = s.kernels := rfl
@[simp] theorem State.setCore_launches (s : State) (k : Nat) (c : Core) : (s.setCore k c).launches = s.launches := rfl
@[simp] theorem State.setCore_regions (s : State) (k : Nat) (c : Core) : (s.setCore k c).regions = s.regions := rfl
@[simp] theorem State.setCore_pages (s : State) (k : Nat) (c : Core) : (s.setCore k c).pages = s.pages := rfl
@[simp] theorem State.setCore_transit (s : State) (k : Nat) (c : Core) : (s.setCore k c).transit = s.transit := rfl
@[simp] theorem State.setCore_sched (s : State) (k : Nat) (c : Core) : (s.setCore k c).sched = s.sched := rfl
@[simp] theorem State.setCore_messages (s : State) (k : Nat) (c : Core) : (s.setCore k c).messages = s.messages := rfl
@[simp] theorem State.setCore_relHomes (s : State) (k : Nat) (c : Core) : (s.setCore k c).relHomes = s.relHomes := rfl
@[simp] theorem State.setCore_conns (s : State) (k : Nat) (c : Core) : (s.setCore k c).conns = s.conns := rfl
@[simp] theorem State.setCore_nextSeq (s : State) (k : Nat) (c : Core) : (s.setCore k c).nextSeq = s.nextSeq := rfl
@[simp] theorem State.setCore_nextTask (s : State) (k : Nat) (c : Core) : (s.setCore k c).nextTask = s.nextTask := rfl
@[simp] theorem State.setCore_nextKernel (s : State) (k : Nat) (c : Core) : (s.setCore k c).nextKernel = s.nextKernel := rfl
@[simp] theorem State.setCore_nextTable (s : State) (k : Nat) (c : Core) : (s.setCore k c).nextTable = s.nextTable := rfl
@[simp] theorem State.setCore_hashOn (s : State) (k : Nat) (c : Core) : (s.setCore k c).hashOn = s.hashOn := rfl
@[simp] theorem State.setCore_hashEvery (s : State) (k : Nat) (c : Core) : (s.setCore k c).hashEvery = s.hashEvery := rfl
@[simp] theorem State.setCore_trees (s : State) (k : Nat) (c : Core) : (s.setCore k c).trees = s.trees := rfl
@[simp] theorem State.setCore_hashReads (s : State) (k : Nat) (c : Core) : (s.setCore k c).hashReads = s.hashReads := rfl
@[simp] theorem State.setCore_trace (s : State) (k : Nat) (c : Core) : (s.setCore k c).trace = s.trace := rfl
@[simp] theorem State.setCore_ckLinks (s : State) (k : Nat) (c : Core) : (s.setCore k c).ckLinks = s.ckLinks := rfl
@[simp] theorem State.setCore_stage (s : State) (k : Nat) (c : Core) : (s.setCore k c).stage = s.stage := rfl
@[simp] theorem State.setCore_recovery (s : State) (k : Nat) (c : Core) : (s.setCore k c).recovery = s.recovery := rfl
@[simp] theorem State.setCore_firmware (s : State) (k : Nat) (c : Core) : (s.setCore k c).firmware = s.firmware := rfl
@[simp] theorem State.setCore_plimit (s : State) (k : Nat) (c : Core) : (s.setCore k c).plimit = s.plimit := rfl
@[simp] theorem State.setCore_air (s : State) (k : Nat) (c : Core) : (s.setCore k c).air = s.air := rfl
@[simp] theorem State.setCore_timing (s : State) (k : Nat) (c : Core) : (s.setCore k c).timing = s.timing := rfl
@[simp] theorem State.setCore_poison (s : State) (k : Nat) (c : Core) : (s.setCore k c).poison = s.poison := rfl
@[simp] theorem State.setCore_touched (s : State) (k : Nat) (c : Core) : (s.setCore k c).touched = s.touched := rfl
@[simp] theorem State.setCore_unmaps (s : State) (k : Nat) (c : Core) : (s.setCore k c).unmaps = s.unmaps := rfl
@[simp] theorem State.setCore_retired (s : State) (k : Nat) (c : Core) : (s.setCore k c).retired = s.retired := rfl
@[simp] theorem State.setCore_out (s : State) (k : Nat) (c : Core) : (s.setCore k c).out = s.out := rfl
@[simp] theorem State.setCore_notices (s : State) (k : Nat) (c : Core) : (s.setCore k c).notices = s.notices := rfl
@[simp] theorem State.setCore_strays (s : State) (k : Nat) (c : Core) : (s.setCore k c).strays = s.strays := rfl
@[simp] theorem State.setCore_hostJobs (s : State) (k : Nat) (c : Core) : (s.setCore k c).hostJobs = s.hostJobs := rfl
@[simp] theorem State.setCore_focus (s : State) (k : Nat) (c : Core) : (s.setCore k c).focus = s.focus := rfl
@[simp] theorem State.setCore_agenda (s : State) (k : Nat) (c : Core) : (s.setCore k c).agenda = s.agenda := rfl
@[simp] theorem State.setCore_inputs (s : State) (k : Nat) (c : Core) : (s.setCore k c).inputs = s.inputs := rfl
@[simp] theorem State.setCore_free (s : State) (k : Nat) (c : Core) : (s.setCore k c).free = s.free := rfl

/-! ### modCore -/

@[simp] theorem State.modCore_sfc (s : State) (k : Nat) (f : Core → Core) : (s.modCore k f).sfc = s.sfc := rfl
@[simp] theorem State.modCore_steer (s : State) (k : Nat) (f : Core → Core) : (s.modCore k f).steer = s.steer := rfl
@[simp] theorem State.modCore_held (s : State) (k : Nat) (f : Core → Core) : (s.modCore k f).held = s.held := rfl
@[simp] theorem State.modCore_clocks (s : State) (k : Nat) (f : Core → Core) : (s.modCore k f).clocks = s.clocks := rfl
@[simp] theorem State.modCore_mem (s : State) (k : Nat) (f : Core → Core) : (s.modCore k f).mem = s.mem := rfl
@[simp] theorem State.modCore_dies (s : State) (k : Nat) (f : Core → Core) : (s.modCore k f).dies = s.dies := rfl
@[simp] theorem State.modCore_chans (s : State) (k : Nat) (f : Core → Core) : (s.modCore k f).chans = s.chans := rfl
@[simp] theorem State.modCore_links (s : State) (k : Nat) (f : Core → Core) : (s.modCore k f).links = s.links := rfl
@[simp] theorem State.modCore_kernels (s : State) (k : Nat) (f : Core → Core) : (s.modCore k f).kernels = s.kernels := rfl
@[simp] theorem State.modCore_launches (s : State) (k : Nat) (f : Core → Core) : (s.modCore k f).launches = s.launches := rfl
@[simp] theorem State.modCore_regions (s : State) (k : Nat) (f : Core → Core) : (s.modCore k f).regions = s.regions := rfl
@[simp] theorem State.modCore_pages (s : State) (k : Nat) (f : Core → Core) : (s.modCore k f).pages = s.pages := rfl
@[simp] theorem State.modCore_transit (s : State) (k : Nat) (f : Core → Core) : (s.modCore k f).transit = s.transit := rfl
@[simp] theorem State.modCore_sched (s : State) (k : Nat) (f : Core → Core) : (s.modCore k f).sched = s.sched := rfl
@[simp] theorem State.modCore_messages (s : State) (k : Nat) (f : Core → Core) : (s.modCore k f).messages = s.messages := rfl
@[simp] theorem State.modCore_relHomes (s : State) (k : Nat) (f : Core → Core) : (s.modCore k f).relHomes = s.relHomes := rfl
@[simp] theorem State.modCore_conns (s : State) (k : Nat) (f : Core → Core) : (s.modCore k f).conns = s.conns := rfl
@[simp] theorem State.modCore_nextSeq (s : State) (k : Nat) (f : Core → Core) : (s.modCore k f).nextSeq = s.nextSeq := rfl
@[simp] theorem State.modCore_nextTask (s : State) (k : Nat) (f : Core → Core) : (s.modCore k f).nextTask = s.nextTask := rfl
@[simp] theorem State.modCore_nextKernel (s : State) (k : Nat) (f : Core → Core) : (s.modCore k f).nextKernel = s.nextKernel := rfl
@[simp] theorem State.modCore_nextTable (s : State) (k : Nat) (f : Core → Core) : (s.modCore k f).nextTable = s.nextTable := rfl
@[simp] theorem State.modCore_hashOn (s : State) (k : Nat) (f : Core → Core) : (s.modCore k f).hashOn = s.hashOn := rfl
@[simp] theorem State.modCore_hashEvery (s : State) (k : Nat) (f : Core → Core) : (s.modCore k f).hashEvery = s.hashEvery := rfl
@[simp] theorem State.modCore_trees (s : State) (k : Nat) (f : Core → Core) : (s.modCore k f).trees = s.trees := rfl
@[simp] theorem State.modCore_hashReads (s : State) (k : Nat) (f : Core → Core) : (s.modCore k f).hashReads = s.hashReads := rfl
@[simp] theorem State.modCore_trace (s : State) (k : Nat) (f : Core → Core) : (s.modCore k f).trace = s.trace := rfl
@[simp] theorem State.modCore_ckLinks (s : State) (k : Nat) (f : Core → Core) : (s.modCore k f).ckLinks = s.ckLinks := rfl
@[simp] theorem State.modCore_stage (s : State) (k : Nat) (f : Core → Core) : (s.modCore k f).stage = s.stage := rfl
@[simp] theorem State.modCore_recovery (s : State) (k : Nat) (f : Core → Core) : (s.modCore k f).recovery = s.recovery := rfl
@[simp] theorem State.modCore_firmware (s : State) (k : Nat) (f : Core → Core) : (s.modCore k f).firmware = s.firmware := rfl
@[simp] theorem State.modCore_plimit (s : State) (k : Nat) (f : Core → Core) : (s.modCore k f).plimit = s.plimit := rfl
@[simp] theorem State.modCore_air (s : State) (k : Nat) (f : Core → Core) : (s.modCore k f).air = s.air := rfl
@[simp] theorem State.modCore_timing (s : State) (k : Nat) (f : Core → Core) : (s.modCore k f).timing = s.timing := rfl
@[simp] theorem State.modCore_poison (s : State) (k : Nat) (f : Core → Core) : (s.modCore k f).poison = s.poison := rfl
@[simp] theorem State.modCore_touched (s : State) (k : Nat) (f : Core → Core) : (s.modCore k f).touched = s.touched := rfl
@[simp] theorem State.modCore_unmaps (s : State) (k : Nat) (f : Core → Core) : (s.modCore k f).unmaps = s.unmaps := rfl
@[simp] theorem State.modCore_retired (s : State) (k : Nat) (f : Core → Core) : (s.modCore k f).retired = s.retired := rfl
@[simp] theorem State.modCore_out (s : State) (k : Nat) (f : Core → Core) : (s.modCore k f).out = s.out := rfl
@[simp] theorem State.modCore_notices (s : State) (k : Nat) (f : Core → Core) : (s.modCore k f).notices = s.notices := rfl
@[simp] theorem State.modCore_strays (s : State) (k : Nat) (f : Core → Core) : (s.modCore k f).strays = s.strays := rfl
@[simp] theorem State.modCore_hostJobs (s : State) (k : Nat) (f : Core → Core) : (s.modCore k f).hostJobs = s.hostJobs := rfl
@[simp] theorem State.modCore_focus (s : State) (k : Nat) (f : Core → Core) : (s.modCore k f).focus = s.focus := rfl
@[simp] theorem State.modCore_agenda (s : State) (k : Nat) (f : Core → Core) : (s.modCore k f).agenda = s.agenda := rfl
@[simp] theorem State.modCore_inputs (s : State) (k : Nat) (f : Core → Core) : (s.modCore k f).inputs = s.inputs := rfl
@[simp] theorem State.modCore_free (s : State) (k : Nat) (f : Core → Core) : (s.modCore k f).free = s.free := rfl

/-! ### modCtx -/

@[simp] theorem State.modCtx_sfc (s : State) (k c : Nat) (f : Ctx → Ctx) : (s.modCtx k c f).sfc = s.sfc := rfl
@[simp] theorem State.modCtx_steer (s : State) (k c : Nat) (f : Ctx → Ctx) : (s.modCtx k c f).steer = s.steer := rfl
@[simp] theorem State.modCtx_held (s : State) (k c : Nat) (f : Ctx → Ctx) : (s.modCtx k c f).held = s.held := rfl
@[simp] theorem State.modCtx_clocks (s : State) (k c : Nat) (f : Ctx → Ctx) : (s.modCtx k c f).clocks = s.clocks := rfl
@[simp] theorem State.modCtx_mem (s : State) (k c : Nat) (f : Ctx → Ctx) : (s.modCtx k c f).mem = s.mem := rfl
@[simp] theorem State.modCtx_dies (s : State) (k c : Nat) (f : Ctx → Ctx) : (s.modCtx k c f).dies = s.dies := rfl
@[simp] theorem State.modCtx_chans (s : State) (k c : Nat) (f : Ctx → Ctx) : (s.modCtx k c f).chans = s.chans := rfl
@[simp] theorem State.modCtx_links (s : State) (k c : Nat) (f : Ctx → Ctx) : (s.modCtx k c f).links = s.links := rfl
@[simp] theorem State.modCtx_kernels (s : State) (k c : Nat) (f : Ctx → Ctx) : (s.modCtx k c f).kernels = s.kernels := rfl
@[simp] theorem State.modCtx_launches (s : State) (k c : Nat) (f : Ctx → Ctx) : (s.modCtx k c f).launches = s.launches := rfl
@[simp] theorem State.modCtx_regions (s : State) (k c : Nat) (f : Ctx → Ctx) : (s.modCtx k c f).regions = s.regions := rfl
@[simp] theorem State.modCtx_pages (s : State) (k c : Nat) (f : Ctx → Ctx) : (s.modCtx k c f).pages = s.pages := rfl
@[simp] theorem State.modCtx_transit (s : State) (k c : Nat) (f : Ctx → Ctx) : (s.modCtx k c f).transit = s.transit := rfl
@[simp] theorem State.modCtx_sched (s : State) (k c : Nat) (f : Ctx → Ctx) : (s.modCtx k c f).sched = s.sched := rfl
@[simp] theorem State.modCtx_messages (s : State) (k c : Nat) (f : Ctx → Ctx) : (s.modCtx k c f).messages = s.messages := rfl
@[simp] theorem State.modCtx_relHomes (s : State) (k c : Nat) (f : Ctx → Ctx) : (s.modCtx k c f).relHomes = s.relHomes := rfl
@[simp] theorem State.modCtx_conns (s : State) (k c : Nat) (f : Ctx → Ctx) : (s.modCtx k c f).conns = s.conns := rfl
@[simp] theorem State.modCtx_nextSeq (s : State) (k c : Nat) (f : Ctx → Ctx) : (s.modCtx k c f).nextSeq = s.nextSeq := rfl
@[simp] theorem State.modCtx_nextTask (s : State) (k c : Nat) (f : Ctx → Ctx) : (s.modCtx k c f).nextTask = s.nextTask := rfl
@[simp] theorem State.modCtx_nextKernel (s : State) (k c : Nat) (f : Ctx → Ctx) : (s.modCtx k c f).nextKernel = s.nextKernel := rfl
@[simp] theorem State.modCtx_nextTable (s : State) (k c : Nat) (f : Ctx → Ctx) : (s.modCtx k c f).nextTable = s.nextTable := rfl
@[simp] theorem State.modCtx_hashOn (s : State) (k c : Nat) (f : Ctx → Ctx) : (s.modCtx k c f).hashOn = s.hashOn := rfl
@[simp] theorem State.modCtx_hashEvery (s : State) (k c : Nat) (f : Ctx → Ctx) : (s.modCtx k c f).hashEvery = s.hashEvery := rfl
@[simp] theorem State.modCtx_trees (s : State) (k c : Nat) (f : Ctx → Ctx) : (s.modCtx k c f).trees = s.trees := rfl
@[simp] theorem State.modCtx_hashReads (s : State) (k c : Nat) (f : Ctx → Ctx) : (s.modCtx k c f).hashReads = s.hashReads := rfl
@[simp] theorem State.modCtx_trace (s : State) (k c : Nat) (f : Ctx → Ctx) : (s.modCtx k c f).trace = s.trace := rfl
@[simp] theorem State.modCtx_ckLinks (s : State) (k c : Nat) (f : Ctx → Ctx) : (s.modCtx k c f).ckLinks = s.ckLinks := rfl
@[simp] theorem State.modCtx_stage (s : State) (k c : Nat) (f : Ctx → Ctx) : (s.modCtx k c f).stage = s.stage := rfl
@[simp] theorem State.modCtx_recovery (s : State) (k c : Nat) (f : Ctx → Ctx) : (s.modCtx k c f).recovery = s.recovery := rfl
@[simp] theorem State.modCtx_firmware (s : State) (k c : Nat) (f : Ctx → Ctx) : (s.modCtx k c f).firmware = s.firmware := rfl
@[simp] theorem State.modCtx_plimit (s : State) (k c : Nat) (f : Ctx → Ctx) : (s.modCtx k c f).plimit = s.plimit := rfl
@[simp] theorem State.modCtx_air (s : State) (k c : Nat) (f : Ctx → Ctx) : (s.modCtx k c f).air = s.air := rfl
@[simp] theorem State.modCtx_timing (s : State) (k c : Nat) (f : Ctx → Ctx) : (s.modCtx k c f).timing = s.timing := rfl
@[simp] theorem State.modCtx_poison (s : State) (k c : Nat) (f : Ctx → Ctx) : (s.modCtx k c f).poison = s.poison := rfl
@[simp] theorem State.modCtx_touched (s : State) (k c : Nat) (f : Ctx → Ctx) : (s.modCtx k c f).touched = s.touched := rfl
@[simp] theorem State.modCtx_unmaps (s : State) (k c : Nat) (f : Ctx → Ctx) : (s.modCtx k c f).unmaps = s.unmaps := rfl
@[simp] theorem State.modCtx_retired (s : State) (k c : Nat) (f : Ctx → Ctx) : (s.modCtx k c f).retired = s.retired := rfl
@[simp] theorem State.modCtx_out (s : State) (k c : Nat) (f : Ctx → Ctx) : (s.modCtx k c f).out = s.out := rfl
@[simp] theorem State.modCtx_notices (s : State) (k c : Nat) (f : Ctx → Ctx) : (s.modCtx k c f).notices = s.notices := rfl
@[simp] theorem State.modCtx_strays (s : State) (k c : Nat) (f : Ctx → Ctx) : (s.modCtx k c f).strays = s.strays := rfl
@[simp] theorem State.modCtx_hostJobs (s : State) (k c : Nat) (f : Ctx → Ctx) : (s.modCtx k c f).hostJobs = s.hostJobs := rfl
@[simp] theorem State.modCtx_focus (s : State) (k c : Nat) (f : Ctx → Ctx) : (s.modCtx k c f).focus = s.focus := rfl
@[simp] theorem State.modCtx_agenda (s : State) (k c : Nat) (f : Ctx → Ctx) : (s.modCtx k c f).agenda = s.agenda := rfl
@[simp] theorem State.modCtx_inputs (s : State) (k c : Nat) (f : Ctx → Ctx) : (s.modCtx k c f).inputs = s.inputs := rfl
@[simp] theorem State.modCtx_free (s : State) (k c : Nat) (f : Ctx → Ctx) : (s.modCtx k c f).free = s.free := rfl

/-! ### modBank -/

@[simp] theorem State.modBank_sfc (s : State) (k b : Nat) (f : Bank → Bank) : (s.modBank k b f).sfc = s.sfc := rfl
@[simp] theorem State.modBank_steer (s : State) (k b : Nat) (f : Bank → Bank) : (s.modBank k b f).steer = s.steer := rfl
@[simp] theorem State.modBank_held (s : State) (k b : Nat) (f : Bank → Bank) : (s.modBank k b f).held = s.held := rfl
@[simp] theorem State.modBank_clocks (s : State) (k b : Nat) (f : Bank → Bank) : (s.modBank k b f).clocks = s.clocks := rfl
@[simp] theorem State.modBank_mem (s : State) (k b : Nat) (f : Bank → Bank) : (s.modBank k b f).mem = s.mem := rfl
@[simp] theorem State.modBank_dies (s : State) (k b : Nat) (f : Bank → Bank) : (s.modBank k b f).dies = s.dies := rfl
@[simp] theorem State.modBank_chans (s : State) (k b : Nat) (f : Bank → Bank) : (s.modBank k b f).chans = s.chans := rfl
@[simp] theorem State.modBank_links (s : State) (k b : Nat) (f : Bank → Bank) : (s.modBank k b f).links = s.links := rfl
@[simp] theorem State.modBank_kernels (s : State) (k b : Nat) (f : Bank → Bank) : (s.modBank k b f).kernels = s.kernels := rfl
@[simp] theorem State.modBank_launches (s : State) (k b : Nat) (f : Bank → Bank) : (s.modBank k b f).launches = s.launches := rfl
@[simp] theorem State.modBank_regions (s : State) (k b : Nat) (f : Bank → Bank) : (s.modBank k b f).regions = s.regions := rfl
@[simp] theorem State.modBank_pages (s : State) (k b : Nat) (f : Bank → Bank) : (s.modBank k b f).pages = s.pages := rfl
@[simp] theorem State.modBank_transit (s : State) (k b : Nat) (f : Bank → Bank) : (s.modBank k b f).transit = s.transit := rfl
@[simp] theorem State.modBank_sched (s : State) (k b : Nat) (f : Bank → Bank) : (s.modBank k b f).sched = s.sched := rfl
@[simp] theorem State.modBank_messages (s : State) (k b : Nat) (f : Bank → Bank) : (s.modBank k b f).messages = s.messages := rfl
@[simp] theorem State.modBank_relHomes (s : State) (k b : Nat) (f : Bank → Bank) : (s.modBank k b f).relHomes = s.relHomes := rfl
@[simp] theorem State.modBank_conns (s : State) (k b : Nat) (f : Bank → Bank) : (s.modBank k b f).conns = s.conns := rfl
@[simp] theorem State.modBank_nextSeq (s : State) (k b : Nat) (f : Bank → Bank) : (s.modBank k b f).nextSeq = s.nextSeq := rfl
@[simp] theorem State.modBank_nextTask (s : State) (k b : Nat) (f : Bank → Bank) : (s.modBank k b f).nextTask = s.nextTask := rfl
@[simp] theorem State.modBank_nextKernel (s : State) (k b : Nat) (f : Bank → Bank) : (s.modBank k b f).nextKernel = s.nextKernel := rfl
@[simp] theorem State.modBank_nextTable (s : State) (k b : Nat) (f : Bank → Bank) : (s.modBank k b f).nextTable = s.nextTable := rfl
@[simp] theorem State.modBank_hashOn (s : State) (k b : Nat) (f : Bank → Bank) : (s.modBank k b f).hashOn = s.hashOn := rfl
@[simp] theorem State.modBank_hashEvery (s : State) (k b : Nat) (f : Bank → Bank) : (s.modBank k b f).hashEvery = s.hashEvery := rfl
@[simp] theorem State.modBank_trees (s : State) (k b : Nat) (f : Bank → Bank) : (s.modBank k b f).trees = s.trees := rfl
@[simp] theorem State.modBank_hashReads (s : State) (k b : Nat) (f : Bank → Bank) : (s.modBank k b f).hashReads = s.hashReads := rfl
@[simp] theorem State.modBank_trace (s : State) (k b : Nat) (f : Bank → Bank) : (s.modBank k b f).trace = s.trace := rfl
@[simp] theorem State.modBank_ckLinks (s : State) (k b : Nat) (f : Bank → Bank) : (s.modBank k b f).ckLinks = s.ckLinks := rfl
@[simp] theorem State.modBank_stage (s : State) (k b : Nat) (f : Bank → Bank) : (s.modBank k b f).stage = s.stage := rfl
@[simp] theorem State.modBank_recovery (s : State) (k b : Nat) (f : Bank → Bank) : (s.modBank k b f).recovery = s.recovery := rfl
@[simp] theorem State.modBank_firmware (s : State) (k b : Nat) (f : Bank → Bank) : (s.modBank k b f).firmware = s.firmware := rfl
@[simp] theorem State.modBank_plimit (s : State) (k b : Nat) (f : Bank → Bank) : (s.modBank k b f).plimit = s.plimit := rfl
@[simp] theorem State.modBank_air (s : State) (k b : Nat) (f : Bank → Bank) : (s.modBank k b f).air = s.air := rfl
@[simp] theorem State.modBank_timing (s : State) (k b : Nat) (f : Bank → Bank) : (s.modBank k b f).timing = s.timing := rfl
@[simp] theorem State.modBank_poison (s : State) (k b : Nat) (f : Bank → Bank) : (s.modBank k b f).poison = s.poison := rfl
@[simp] theorem State.modBank_touched (s : State) (k b : Nat) (f : Bank → Bank) : (s.modBank k b f).touched = s.touched := rfl
@[simp] theorem State.modBank_unmaps (s : State) (k b : Nat) (f : Bank → Bank) : (s.modBank k b f).unmaps = s.unmaps := rfl
@[simp] theorem State.modBank_retired (s : State) (k b : Nat) (f : Bank → Bank) : (s.modBank k b f).retired = s.retired := rfl
@[simp] theorem State.modBank_out (s : State) (k b : Nat) (f : Bank → Bank) : (s.modBank k b f).out = s.out := rfl
@[simp] theorem State.modBank_notices (s : State) (k b : Nat) (f : Bank → Bank) : (s.modBank k b f).notices = s.notices := rfl
@[simp] theorem State.modBank_strays (s : State) (k b : Nat) (f : Bank → Bank) : (s.modBank k b f).strays = s.strays := rfl
@[simp] theorem State.modBank_hostJobs (s : State) (k b : Nat) (f : Bank → Bank) : (s.modBank k b f).hostJobs = s.hostJobs := rfl
@[simp] theorem State.modBank_focus (s : State) (k b : Nat) (f : Bank → Bank) : (s.modBank k b f).focus = s.focus := rfl
@[simp] theorem State.modBank_agenda (s : State) (k b : Nat) (f : Bank → Bank) : (s.modBank k b f).agenda = s.agenda := rfl
@[simp] theorem State.modBank_inputs (s : State) (k b : Nat) (f : Bank → Bank) : (s.modBank k b f).inputs = s.inputs := rfl
@[simp] theorem State.modBank_free (s : State) (k b : Nat) (f : Bank → Bank) : (s.modBank k b f).free = s.free := rfl

/-! ### modDie -/

@[simp] theorem State.modDie_sfc (s : State) (d : Nat) (f : Die → Die) : (s.modDie d f).sfc = s.sfc := rfl
@[simp] theorem State.modDie_steer (s : State) (d : Nat) (f : Die → Die) : (s.modDie d f).steer = s.steer := rfl
@[simp] theorem State.modDie_held (s : State) (d : Nat) (f : Die → Die) : (s.modDie d f).held = s.held := rfl
@[simp] theorem State.modDie_clocks (s : State) (d : Nat) (f : Die → Die) : (s.modDie d f).clocks = s.clocks := rfl
@[simp] theorem State.modDie_mem (s : State) (d : Nat) (f : Die → Die) : (s.modDie d f).mem = s.mem := rfl
@[simp] theorem State.modDie_cores (s : State) (d : Nat) (f : Die → Die) : (s.modDie d f).cores = s.cores := rfl
@[simp] theorem State.modDie_chans (s : State) (d : Nat) (f : Die → Die) : (s.modDie d f).chans = s.chans := rfl
@[simp] theorem State.modDie_links (s : State) (d : Nat) (f : Die → Die) : (s.modDie d f).links = s.links := rfl
@[simp] theorem State.modDie_kernels (s : State) (d : Nat) (f : Die → Die) : (s.modDie d f).kernels = s.kernels := rfl
@[simp] theorem State.modDie_launches (s : State) (d : Nat) (f : Die → Die) : (s.modDie d f).launches = s.launches := rfl
@[simp] theorem State.modDie_regions (s : State) (d : Nat) (f : Die → Die) : (s.modDie d f).regions = s.regions := rfl
@[simp] theorem State.modDie_pages (s : State) (d : Nat) (f : Die → Die) : (s.modDie d f).pages = s.pages := rfl
@[simp] theorem State.modDie_transit (s : State) (d : Nat) (f : Die → Die) : (s.modDie d f).transit = s.transit := rfl
@[simp] theorem State.modDie_sched (s : State) (d : Nat) (f : Die → Die) : (s.modDie d f).sched = s.sched := rfl
@[simp] theorem State.modDie_messages (s : State) (d : Nat) (f : Die → Die) : (s.modDie d f).messages = s.messages := rfl
@[simp] theorem State.modDie_relHomes (s : State) (d : Nat) (f : Die → Die) : (s.modDie d f).relHomes = s.relHomes := rfl
@[simp] theorem State.modDie_conns (s : State) (d : Nat) (f : Die → Die) : (s.modDie d f).conns = s.conns := rfl
@[simp] theorem State.modDie_nextSeq (s : State) (d : Nat) (f : Die → Die) : (s.modDie d f).nextSeq = s.nextSeq := rfl
@[simp] theorem State.modDie_nextTask (s : State) (d : Nat) (f : Die → Die) : (s.modDie d f).nextTask = s.nextTask := rfl
@[simp] theorem State.modDie_nextKernel (s : State) (d : Nat) (f : Die → Die) : (s.modDie d f).nextKernel = s.nextKernel := rfl
@[simp] theorem State.modDie_nextTable (s : State) (d : Nat) (f : Die → Die) : (s.modDie d f).nextTable = s.nextTable := rfl
@[simp] theorem State.modDie_hashOn (s : State) (d : Nat) (f : Die → Die) : (s.modDie d f).hashOn = s.hashOn := rfl
@[simp] theorem State.modDie_hashEvery (s : State) (d : Nat) (f : Die → Die) : (s.modDie d f).hashEvery = s.hashEvery := rfl
@[simp] theorem State.modDie_trees (s : State) (d : Nat) (f : Die → Die) : (s.modDie d f).trees = s.trees := rfl
@[simp] theorem State.modDie_hashReads (s : State) (d : Nat) (f : Die → Die) : (s.modDie d f).hashReads = s.hashReads := rfl
@[simp] theorem State.modDie_trace (s : State) (d : Nat) (f : Die → Die) : (s.modDie d f).trace = s.trace := rfl
@[simp] theorem State.modDie_ckLinks (s : State) (d : Nat) (f : Die → Die) : (s.modDie d f).ckLinks = s.ckLinks := rfl
@[simp] theorem State.modDie_stage (s : State) (d : Nat) (f : Die → Die) : (s.modDie d f).stage = s.stage := rfl
@[simp] theorem State.modDie_recovery (s : State) (d : Nat) (f : Die → Die) : (s.modDie d f).recovery = s.recovery := rfl
@[simp] theorem State.modDie_firmware (s : State) (d : Nat) (f : Die → Die) : (s.modDie d f).firmware = s.firmware := rfl
@[simp] theorem State.modDie_plimit (s : State) (d : Nat) (f : Die → Die) : (s.modDie d f).plimit = s.plimit := rfl
@[simp] theorem State.modDie_air (s : State) (d : Nat) (f : Die → Die) : (s.modDie d f).air = s.air := rfl
@[simp] theorem State.modDie_timing (s : State) (d : Nat) (f : Die → Die) : (s.modDie d f).timing = s.timing := rfl
@[simp] theorem State.modDie_poison (s : State) (d : Nat) (f : Die → Die) : (s.modDie d f).poison = s.poison := rfl
@[simp] theorem State.modDie_touched (s : State) (d : Nat) (f : Die → Die) : (s.modDie d f).touched = s.touched := rfl
@[simp] theorem State.modDie_unmaps (s : State) (d : Nat) (f : Die → Die) : (s.modDie d f).unmaps = s.unmaps := rfl
@[simp] theorem State.modDie_retired (s : State) (d : Nat) (f : Die → Die) : (s.modDie d f).retired = s.retired := rfl
@[simp] theorem State.modDie_out (s : State) (d : Nat) (f : Die → Die) : (s.modDie d f).out = s.out := rfl
@[simp] theorem State.modDie_notices (s : State) (d : Nat) (f : Die → Die) : (s.modDie d f).notices = s.notices := rfl
@[simp] theorem State.modDie_strays (s : State) (d : Nat) (f : Die → Die) : (s.modDie d f).strays = s.strays := rfl
@[simp] theorem State.modDie_hostJobs (s : State) (d : Nat) (f : Die → Die) : (s.modDie d f).hostJobs = s.hostJobs := rfl
@[simp] theorem State.modDie_focus (s : State) (d : Nat) (f : Die → Die) : (s.modDie d f).focus = s.focus := rfl
@[simp] theorem State.modDie_agenda (s : State) (d : Nat) (f : Die → Die) : (s.modDie d f).agenda = s.agenda := rfl
@[simp] theorem State.modDie_inputs (s : State) (d : Nat) (f : Die → Die) : (s.modDie d f).inputs = s.inputs := rfl
@[simp] theorem State.modDie_free (s : State) (d : Nat) (f : Die → Die) : (s.modDie d f).free = s.free := rfl

/-! ### modChan -/

@[simp] theorem State.modChan_sfc (s : State) (c : Nat) (f : Channel → Channel) : (s.modChan c f).sfc = s.sfc := rfl
@[simp] theorem State.modChan_steer (s : State) (c : Nat) (f : Channel → Channel) : (s.modChan c f).steer = s.steer := rfl
@[simp] theorem State.modChan_held (s : State) (c : Nat) (f : Channel → Channel) : (s.modChan c f).held = s.held := rfl
@[simp] theorem State.modChan_clocks (s : State) (c : Nat) (f : Channel → Channel) : (s.modChan c f).clocks = s.clocks := rfl
@[simp] theorem State.modChan_mem (s : State) (c : Nat) (f : Channel → Channel) : (s.modChan c f).mem = s.mem := rfl
@[simp] theorem State.modChan_cores (s : State) (c : Nat) (f : Channel → Channel) : (s.modChan c f).cores = s.cores := rfl
@[simp] theorem State.modChan_dies (s : State) (c : Nat) (f : Channel → Channel) : (s.modChan c f).dies = s.dies := rfl
@[simp] theorem State.modChan_links (s : State) (c : Nat) (f : Channel → Channel) : (s.modChan c f).links = s.links := rfl
@[simp] theorem State.modChan_kernels (s : State) (c : Nat) (f : Channel → Channel) : (s.modChan c f).kernels = s.kernels := rfl
@[simp] theorem State.modChan_launches (s : State) (c : Nat) (f : Channel → Channel) : (s.modChan c f).launches = s.launches := rfl
@[simp] theorem State.modChan_regions (s : State) (c : Nat) (f : Channel → Channel) : (s.modChan c f).regions = s.regions := rfl
@[simp] theorem State.modChan_pages (s : State) (c : Nat) (f : Channel → Channel) : (s.modChan c f).pages = s.pages := rfl
@[simp] theorem State.modChan_transit (s : State) (c : Nat) (f : Channel → Channel) : (s.modChan c f).transit = s.transit := rfl
@[simp] theorem State.modChan_sched (s : State) (c : Nat) (f : Channel → Channel) : (s.modChan c f).sched = s.sched := rfl
@[simp] theorem State.modChan_messages (s : State) (c : Nat) (f : Channel → Channel) : (s.modChan c f).messages = s.messages := rfl
@[simp] theorem State.modChan_relHomes (s : State) (c : Nat) (f : Channel → Channel) : (s.modChan c f).relHomes = s.relHomes := rfl
@[simp] theorem State.modChan_conns (s : State) (c : Nat) (f : Channel → Channel) : (s.modChan c f).conns = s.conns := rfl
@[simp] theorem State.modChan_nextSeq (s : State) (c : Nat) (f : Channel → Channel) : (s.modChan c f).nextSeq = s.nextSeq := rfl
@[simp] theorem State.modChan_nextTask (s : State) (c : Nat) (f : Channel → Channel) : (s.modChan c f).nextTask = s.nextTask := rfl
@[simp] theorem State.modChan_nextKernel (s : State) (c : Nat) (f : Channel → Channel) : (s.modChan c f).nextKernel = s.nextKernel := rfl
@[simp] theorem State.modChan_nextTable (s : State) (c : Nat) (f : Channel → Channel) : (s.modChan c f).nextTable = s.nextTable := rfl
@[simp] theorem State.modChan_hashOn (s : State) (c : Nat) (f : Channel → Channel) : (s.modChan c f).hashOn = s.hashOn := rfl
@[simp] theorem State.modChan_hashEvery (s : State) (c : Nat) (f : Channel → Channel) : (s.modChan c f).hashEvery = s.hashEvery := rfl
@[simp] theorem State.modChan_trees (s : State) (c : Nat) (f : Channel → Channel) : (s.modChan c f).trees = s.trees := rfl
@[simp] theorem State.modChan_hashReads (s : State) (c : Nat) (f : Channel → Channel) : (s.modChan c f).hashReads = s.hashReads := rfl
@[simp] theorem State.modChan_trace (s : State) (c : Nat) (f : Channel → Channel) : (s.modChan c f).trace = s.trace := rfl
@[simp] theorem State.modChan_ckLinks (s : State) (c : Nat) (f : Channel → Channel) : (s.modChan c f).ckLinks = s.ckLinks := rfl
@[simp] theorem State.modChan_stage (s : State) (c : Nat) (f : Channel → Channel) : (s.modChan c f).stage = s.stage := rfl
@[simp] theorem State.modChan_recovery (s : State) (c : Nat) (f : Channel → Channel) : (s.modChan c f).recovery = s.recovery := rfl
@[simp] theorem State.modChan_firmware (s : State) (c : Nat) (f : Channel → Channel) : (s.modChan c f).firmware = s.firmware := rfl
@[simp] theorem State.modChan_plimit (s : State) (c : Nat) (f : Channel → Channel) : (s.modChan c f).plimit = s.plimit := rfl
@[simp] theorem State.modChan_air (s : State) (c : Nat) (f : Channel → Channel) : (s.modChan c f).air = s.air := rfl
@[simp] theorem State.modChan_timing (s : State) (c : Nat) (f : Channel → Channel) : (s.modChan c f).timing = s.timing := rfl
@[simp] theorem State.modChan_poison (s : State) (c : Nat) (f : Channel → Channel) : (s.modChan c f).poison = s.poison := rfl
@[simp] theorem State.modChan_touched (s : State) (c : Nat) (f : Channel → Channel) : (s.modChan c f).touched = s.touched := rfl
@[simp] theorem State.modChan_unmaps (s : State) (c : Nat) (f : Channel → Channel) : (s.modChan c f).unmaps = s.unmaps := rfl
@[simp] theorem State.modChan_retired (s : State) (c : Nat) (f : Channel → Channel) : (s.modChan c f).retired = s.retired := rfl
@[simp] theorem State.modChan_out (s : State) (c : Nat) (f : Channel → Channel) : (s.modChan c f).out = s.out := rfl
@[simp] theorem State.modChan_notices (s : State) (c : Nat) (f : Channel → Channel) : (s.modChan c f).notices = s.notices := rfl
@[simp] theorem State.modChan_strays (s : State) (c : Nat) (f : Channel → Channel) : (s.modChan c f).strays = s.strays := rfl
@[simp] theorem State.modChan_hostJobs (s : State) (c : Nat) (f : Channel → Channel) : (s.modChan c f).hostJobs = s.hostJobs := rfl
@[simp] theorem State.modChan_focus (s : State) (c : Nat) (f : Channel → Channel) : (s.modChan c f).focus = s.focus := rfl
@[simp] theorem State.modChan_agenda (s : State) (c : Nat) (f : Channel → Channel) : (s.modChan c f).agenda = s.agenda := rfl
@[simp] theorem State.modChan_inputs (s : State) (c : Nat) (f : Channel → Channel) : (s.modChan c f).inputs = s.inputs := rfl
@[simp] theorem State.modChan_free (s : State) (c : Nat) (f : Channel → Channel) : (s.modChan c f).free = s.free := rfl

/-! ### modLink -/

@[simp] theorem State.modLink_sfc (s : State) (l : Nat) (f : Link → Link) : (s.modLink l f).sfc = s.sfc := rfl
@[simp] theorem State.modLink_steer (s : State) (l : Nat) (f : Link → Link) : (s.modLink l f).steer = s.steer := rfl
@[simp] theorem State.modLink_held (s : State) (l : Nat) (f : Link → Link) : (s.modLink l f).held = s.held := rfl
@[simp] theorem State.modLink_clocks (s : State) (l : Nat) (f : Link → Link) : (s.modLink l f).clocks = s.clocks := rfl
@[simp] theorem State.modLink_mem (s : State) (l : Nat) (f : Link → Link) : (s.modLink l f).mem = s.mem := rfl
@[simp] theorem State.modLink_cores (s : State) (l : Nat) (f : Link → Link) : (s.modLink l f).cores = s.cores := rfl
@[simp] theorem State.modLink_dies (s : State) (l : Nat) (f : Link → Link) : (s.modLink l f).dies = s.dies := rfl
@[simp] theorem State.modLink_chans (s : State) (l : Nat) (f : Link → Link) : (s.modLink l f).chans = s.chans := rfl
@[simp] theorem State.modLink_kernels (s : State) (l : Nat) (f : Link → Link) : (s.modLink l f).kernels = s.kernels := rfl
@[simp] theorem State.modLink_launches (s : State) (l : Nat) (f : Link → Link) : (s.modLink l f).launches = s.launches := rfl
@[simp] theorem State.modLink_regions (s : State) (l : Nat) (f : Link → Link) : (s.modLink l f).regions = s.regions := rfl
@[simp] theorem State.modLink_pages (s : State) (l : Nat) (f : Link → Link) : (s.modLink l f).pages = s.pages := rfl
@[simp] theorem State.modLink_transit (s : State) (l : Nat) (f : Link → Link) : (s.modLink l f).transit = s.transit := rfl
@[simp] theorem State.modLink_sched (s : State) (l : Nat) (f : Link → Link) : (s.modLink l f).sched = s.sched := rfl
@[simp] theorem State.modLink_messages (s : State) (l : Nat) (f : Link → Link) : (s.modLink l f).messages = s.messages := rfl
@[simp] theorem State.modLink_relHomes (s : State) (l : Nat) (f : Link → Link) : (s.modLink l f).relHomes = s.relHomes := rfl
@[simp] theorem State.modLink_conns (s : State) (l : Nat) (f : Link → Link) : (s.modLink l f).conns = s.conns := rfl
@[simp] theorem State.modLink_nextSeq (s : State) (l : Nat) (f : Link → Link) : (s.modLink l f).nextSeq = s.nextSeq := rfl
@[simp] theorem State.modLink_nextTask (s : State) (l : Nat) (f : Link → Link) : (s.modLink l f).nextTask = s.nextTask := rfl
@[simp] theorem State.modLink_nextKernel (s : State) (l : Nat) (f : Link → Link) : (s.modLink l f).nextKernel = s.nextKernel := rfl
@[simp] theorem State.modLink_nextTable (s : State) (l : Nat) (f : Link → Link) : (s.modLink l f).nextTable = s.nextTable := rfl
@[simp] theorem State.modLink_hashOn (s : State) (l : Nat) (f : Link → Link) : (s.modLink l f).hashOn = s.hashOn := rfl
@[simp] theorem State.modLink_hashEvery (s : State) (l : Nat) (f : Link → Link) : (s.modLink l f).hashEvery = s.hashEvery := rfl
@[simp] theorem State.modLink_trees (s : State) (l : Nat) (f : Link → Link) : (s.modLink l f).trees = s.trees := rfl
@[simp] theorem State.modLink_hashReads (s : State) (l : Nat) (f : Link → Link) : (s.modLink l f).hashReads = s.hashReads := rfl
@[simp] theorem State.modLink_trace (s : State) (l : Nat) (f : Link → Link) : (s.modLink l f).trace = s.trace := rfl
@[simp] theorem State.modLink_ckLinks (s : State) (l : Nat) (f : Link → Link) : (s.modLink l f).ckLinks = s.ckLinks := rfl
@[simp] theorem State.modLink_stage (s : State) (l : Nat) (f : Link → Link) : (s.modLink l f).stage = s.stage := rfl
@[simp] theorem State.modLink_recovery (s : State) (l : Nat) (f : Link → Link) : (s.modLink l f).recovery = s.recovery := rfl
@[simp] theorem State.modLink_firmware (s : State) (l : Nat) (f : Link → Link) : (s.modLink l f).firmware = s.firmware := rfl
@[simp] theorem State.modLink_plimit (s : State) (l : Nat) (f : Link → Link) : (s.modLink l f).plimit = s.plimit := rfl
@[simp] theorem State.modLink_air (s : State) (l : Nat) (f : Link → Link) : (s.modLink l f).air = s.air := rfl
@[simp] theorem State.modLink_timing (s : State) (l : Nat) (f : Link → Link) : (s.modLink l f).timing = s.timing := rfl
@[simp] theorem State.modLink_poison (s : State) (l : Nat) (f : Link → Link) : (s.modLink l f).poison = s.poison := rfl
@[simp] theorem State.modLink_touched (s : State) (l : Nat) (f : Link → Link) : (s.modLink l f).touched = s.touched := rfl
@[simp] theorem State.modLink_unmaps (s : State) (l : Nat) (f : Link → Link) : (s.modLink l f).unmaps = s.unmaps := rfl
@[simp] theorem State.modLink_retired (s : State) (l : Nat) (f : Link → Link) : (s.modLink l f).retired = s.retired := rfl
@[simp] theorem State.modLink_out (s : State) (l : Nat) (f : Link → Link) : (s.modLink l f).out = s.out := rfl
@[simp] theorem State.modLink_notices (s : State) (l : Nat) (f : Link → Link) : (s.modLink l f).notices = s.notices := rfl
@[simp] theorem State.modLink_strays (s : State) (l : Nat) (f : Link → Link) : (s.modLink l f).strays = s.strays := rfl
@[simp] theorem State.modLink_hostJobs (s : State) (l : Nat) (f : Link → Link) : (s.modLink l f).hostJobs = s.hostJobs := rfl
@[simp] theorem State.modLink_focus (s : State) (l : Nat) (f : Link → Link) : (s.modLink l f).focus = s.focus := rfl
@[simp] theorem State.modLink_agenda (s : State) (l : Nat) (f : Link → Link) : (s.modLink l f).agenda = s.agenda := rfl
@[simp] theorem State.modLink_inputs (s : State) (l : Nat) (f : Link → Link) : (s.modLink l f).inputs = s.inputs := rfl
@[simp] theorem State.modLink_free (s : State) (l : Nat) (f : Link → Link) : (s.modLink l f).free = s.free := rfl

/-! ### modLaunch -/

@[simp] theorem State.modLaunch_sfc (s : State) (h : Nat) (f : Launch → Launch) : (s.modLaunch h f).sfc = s.sfc := rfl
@[simp] theorem State.modLaunch_steer (s : State) (h : Nat) (f : Launch → Launch) : (s.modLaunch h f).steer = s.steer := rfl
@[simp] theorem State.modLaunch_held (s : State) (h : Nat) (f : Launch → Launch) : (s.modLaunch h f).held = s.held := rfl
@[simp] theorem State.modLaunch_clocks (s : State) (h : Nat) (f : Launch → Launch) : (s.modLaunch h f).clocks = s.clocks := rfl
@[simp] theorem State.modLaunch_mem (s : State) (h : Nat) (f : Launch → Launch) : (s.modLaunch h f).mem = s.mem := rfl
@[simp] theorem State.modLaunch_cores (s : State) (h : Nat) (f : Launch → Launch) : (s.modLaunch h f).cores = s.cores := rfl
@[simp] theorem State.modLaunch_dies (s : State) (h : Nat) (f : Launch → Launch) : (s.modLaunch h f).dies = s.dies := rfl
@[simp] theorem State.modLaunch_chans (s : State) (h : Nat) (f : Launch → Launch) : (s.modLaunch h f).chans = s.chans := rfl
@[simp] theorem State.modLaunch_links (s : State) (h : Nat) (f : Launch → Launch) : (s.modLaunch h f).links = s.links := rfl
@[simp] theorem State.modLaunch_kernels (s : State) (h : Nat) (f : Launch → Launch) : (s.modLaunch h f).kernels = s.kernels := rfl
@[simp] theorem State.modLaunch_regions (s : State) (h : Nat) (f : Launch → Launch) : (s.modLaunch h f).regions = s.regions := rfl
@[simp] theorem State.modLaunch_pages (s : State) (h : Nat) (f : Launch → Launch) : (s.modLaunch h f).pages = s.pages := rfl
@[simp] theorem State.modLaunch_transit (s : State) (h : Nat) (f : Launch → Launch) : (s.modLaunch h f).transit = s.transit := rfl
@[simp] theorem State.modLaunch_sched (s : State) (h : Nat) (f : Launch → Launch) : (s.modLaunch h f).sched = s.sched := rfl
@[simp] theorem State.modLaunch_messages (s : State) (h : Nat) (f : Launch → Launch) : (s.modLaunch h f).messages = s.messages := rfl
@[simp] theorem State.modLaunch_relHomes (s : State) (h : Nat) (f : Launch → Launch) : (s.modLaunch h f).relHomes = s.relHomes := rfl
@[simp] theorem State.modLaunch_conns (s : State) (h : Nat) (f : Launch → Launch) : (s.modLaunch h f).conns = s.conns := rfl
@[simp] theorem State.modLaunch_nextSeq (s : State) (h : Nat) (f : Launch → Launch) : (s.modLaunch h f).nextSeq = s.nextSeq := rfl
@[simp] theorem State.modLaunch_nextTask (s : State) (h : Nat) (f : Launch → Launch) : (s.modLaunch h f).nextTask = s.nextTask := rfl
@[simp] theorem State.modLaunch_nextKernel (s : State) (h : Nat) (f : Launch → Launch) : (s.modLaunch h f).nextKernel = s.nextKernel := rfl
@[simp] theorem State.modLaunch_nextTable (s : State) (h : Nat) (f : Launch → Launch) : (s.modLaunch h f).nextTable = s.nextTable := rfl
@[simp] theorem State.modLaunch_hashOn (s : State) (h : Nat) (f : Launch → Launch) : (s.modLaunch h f).hashOn = s.hashOn := rfl
@[simp] theorem State.modLaunch_hashEvery (s : State) (h : Nat) (f : Launch → Launch) : (s.modLaunch h f).hashEvery = s.hashEvery := rfl
@[simp] theorem State.modLaunch_trees (s : State) (h : Nat) (f : Launch → Launch) : (s.modLaunch h f).trees = s.trees := rfl
@[simp] theorem State.modLaunch_hashReads (s : State) (h : Nat) (f : Launch → Launch) : (s.modLaunch h f).hashReads = s.hashReads := rfl
@[simp] theorem State.modLaunch_trace (s : State) (h : Nat) (f : Launch → Launch) : (s.modLaunch h f).trace = s.trace := rfl
@[simp] theorem State.modLaunch_ckLinks (s : State) (h : Nat) (f : Launch → Launch) : (s.modLaunch h f).ckLinks = s.ckLinks := rfl
@[simp] theorem State.modLaunch_stage (s : State) (h : Nat) (f : Launch → Launch) : (s.modLaunch h f).stage = s.stage := rfl
@[simp] theorem State.modLaunch_recovery (s : State) (h : Nat) (f : Launch → Launch) : (s.modLaunch h f).recovery = s.recovery := rfl
@[simp] theorem State.modLaunch_firmware (s : State) (h : Nat) (f : Launch → Launch) : (s.modLaunch h f).firmware = s.firmware := rfl
@[simp] theorem State.modLaunch_plimit (s : State) (h : Nat) (f : Launch → Launch) : (s.modLaunch h f).plimit = s.plimit := rfl
@[simp] theorem State.modLaunch_air (s : State) (h : Nat) (f : Launch → Launch) : (s.modLaunch h f).air = s.air := rfl
@[simp] theorem State.modLaunch_timing (s : State) (h : Nat) (f : Launch → Launch) : (s.modLaunch h f).timing = s.timing := rfl
@[simp] theorem State.modLaunch_poison (s : State) (h : Nat) (f : Launch → Launch) : (s.modLaunch h f).poison = s.poison := rfl
@[simp] theorem State.modLaunch_touched (s : State) (h : Nat) (f : Launch → Launch) : (s.modLaunch h f).touched = s.touched := rfl
@[simp] theorem State.modLaunch_unmaps (s : State) (h : Nat) (f : Launch → Launch) : (s.modLaunch h f).unmaps = s.unmaps := rfl
@[simp] theorem State.modLaunch_retired (s : State) (h : Nat) (f : Launch → Launch) : (s.modLaunch h f).retired = s.retired := rfl
@[simp] theorem State.modLaunch_out (s : State) (h : Nat) (f : Launch → Launch) : (s.modLaunch h f).out = s.out := rfl
@[simp] theorem State.modLaunch_notices (s : State) (h : Nat) (f : Launch → Launch) : (s.modLaunch h f).notices = s.notices := rfl
@[simp] theorem State.modLaunch_strays (s : State) (h : Nat) (f : Launch → Launch) : (s.modLaunch h f).strays = s.strays := rfl
@[simp] theorem State.modLaunch_hostJobs (s : State) (h : Nat) (f : Launch → Launch) : (s.modLaunch h f).hostJobs = s.hostJobs := rfl
@[simp] theorem State.modLaunch_focus (s : State) (h : Nat) (f : Launch → Launch) : (s.modLaunch h f).focus = s.focus := rfl
@[simp] theorem State.modLaunch_agenda (s : State) (h : Nat) (f : Launch → Launch) : (s.modLaunch h f).agenda = s.agenda := rfl
@[simp] theorem State.modLaunch_inputs (s : State) (h : Nat) (f : Launch → Launch) : (s.modLaunch h f).inputs = s.inputs := rfl
@[simp] theorem State.modLaunch_free (s : State) (h : Nat) (f : Launch → Launch) : (s.modLaunch h f).free = s.free := rfl

/-! ### setMem -/

@[simp] theorem State.setMem_sfc (s : State) (m : Memory) : (s.setMem m).sfc = s.sfc := rfl
@[simp] theorem State.setMem_steer (s : State) (m : Memory) : (s.setMem m).steer = s.steer := rfl
@[simp] theorem State.setMem_held (s : State) (m : Memory) : (s.setMem m).held = s.held := rfl
@[simp] theorem State.setMem_clocks (s : State) (m : Memory) : (s.setMem m).clocks = s.clocks := rfl
@[simp] theorem State.setMem_cores (s : State) (m : Memory) : (s.setMem m).cores = s.cores := rfl
@[simp] theorem State.setMem_dies (s : State) (m : Memory) : (s.setMem m).dies = s.dies := rfl
@[simp] theorem State.setMem_chans (s : State) (m : Memory) : (s.setMem m).chans = s.chans := rfl
@[simp] theorem State.setMem_links (s : State) (m : Memory) : (s.setMem m).links = s.links := rfl
@[simp] theorem State.setMem_kernels (s : State) (m : Memory) : (s.setMem m).kernels = s.kernels := rfl
@[simp] theorem State.setMem_launches (s : State) (m : Memory) : (s.setMem m).launches = s.launches := rfl
@[simp] theorem State.setMem_regions (s : State) (m : Memory) : (s.setMem m).regions = s.regions := rfl
@[simp] theorem State.setMem_pages (s : State) (m : Memory) : (s.setMem m).pages = s.pages := rfl
@[simp] theorem State.setMem_transit (s : State) (m : Memory) : (s.setMem m).transit = s.transit := rfl
@[simp] theorem State.setMem_sched (s : State) (m : Memory) : (s.setMem m).sched = s.sched := rfl
@[simp] theorem State.setMem_messages (s : State) (m : Memory) : (s.setMem m).messages = s.messages := rfl
@[simp] theorem State.setMem_relHomes (s : State) (m : Memory) : (s.setMem m).relHomes = s.relHomes := rfl
@[simp] theorem State.setMem_conns (s : State) (m : Memory) : (s.setMem m).conns = s.conns := rfl
@[simp] theorem State.setMem_nextSeq (s : State) (m : Memory) : (s.setMem m).nextSeq = s.nextSeq := rfl
@[simp] theorem State.setMem_nextTask (s : State) (m : Memory) : (s.setMem m).nextTask = s.nextTask := rfl
@[simp] theorem State.setMem_nextKernel (s : State) (m : Memory) : (s.setMem m).nextKernel = s.nextKernel := rfl
@[simp] theorem State.setMem_nextTable (s : State) (m : Memory) : (s.setMem m).nextTable = s.nextTable := rfl
@[simp] theorem State.setMem_hashOn (s : State) (m : Memory) : (s.setMem m).hashOn = s.hashOn := rfl
@[simp] theorem State.setMem_hashEvery (s : State) (m : Memory) : (s.setMem m).hashEvery = s.hashEvery := rfl
@[simp] theorem State.setMem_trees (s : State) (m : Memory) : (s.setMem m).trees = s.trees := rfl
@[simp] theorem State.setMem_hashReads (s : State) (m : Memory) : (s.setMem m).hashReads = s.hashReads := rfl
@[simp] theorem State.setMem_trace (s : State) (m : Memory) : (s.setMem m).trace = s.trace := rfl
@[simp] theorem State.setMem_ckLinks (s : State) (m : Memory) : (s.setMem m).ckLinks = s.ckLinks := rfl
@[simp] theorem State.setMem_stage (s : State) (m : Memory) : (s.setMem m).stage = s.stage := rfl
@[simp] theorem State.setMem_recovery (s : State) (m : Memory) : (s.setMem m).recovery = s.recovery := rfl
@[simp] theorem State.setMem_firmware (s : State) (m : Memory) : (s.setMem m).firmware = s.firmware := rfl
@[simp] theorem State.setMem_plimit (s : State) (m : Memory) : (s.setMem m).plimit = s.plimit := rfl
@[simp] theorem State.setMem_air (s : State) (m : Memory) : (s.setMem m).air = s.air := rfl
@[simp] theorem State.setMem_timing (s : State) (m : Memory) : (s.setMem m).timing = s.timing := rfl
@[simp] theorem State.setMem_poison (s : State) (m : Memory) : (s.setMem m).poison = s.poison := rfl
@[simp] theorem State.setMem_touched (s : State) (m : Memory) : (s.setMem m).touched = s.touched := rfl
@[simp] theorem State.setMem_unmaps (s : State) (m : Memory) : (s.setMem m).unmaps = s.unmaps := rfl
@[simp] theorem State.setMem_retired (s : State) (m : Memory) : (s.setMem m).retired = s.retired := rfl
@[simp] theorem State.setMem_out (s : State) (m : Memory) : (s.setMem m).out = s.out := rfl
@[simp] theorem State.setMem_notices (s : State) (m : Memory) : (s.setMem m).notices = s.notices := rfl
@[simp] theorem State.setMem_strays (s : State) (m : Memory) : (s.setMem m).strays = s.strays := rfl
@[simp] theorem State.setMem_hostJobs (s : State) (m : Memory) : (s.setMem m).hostJobs = s.hostJobs := rfl
@[simp] theorem State.setMem_focus (s : State) (m : Memory) : (s.setMem m).focus = s.focus := rfl
@[simp] theorem State.setMem_agenda (s : State) (m : Memory) : (s.setMem m).agenda = s.agenda := rfl
@[simp] theorem State.setMem_inputs (s : State) (m : Memory) : (s.setMem m).inputs = s.inputs := rfl
@[simp] theorem State.setMem_free (s : State) (m : Memory) : (s.setMem m).free = s.free := rfl

/-! ### spadWrite -/

@[simp] theorem State.spadWrite_sfc (s : State) (k a : Nat) (bs : List Byte) : (s.spadWrite k a bs).sfc = s.sfc := rfl
@[simp] theorem State.spadWrite_steer (s : State) (k a : Nat) (bs : List Byte) : (s.spadWrite k a bs).steer = s.steer := rfl
@[simp] theorem State.spadWrite_held (s : State) (k a : Nat) (bs : List Byte) : (s.spadWrite k a bs).held = s.held := rfl
@[simp] theorem State.spadWrite_clocks (s : State) (k a : Nat) (bs : List Byte) : (s.spadWrite k a bs).clocks = s.clocks := rfl
@[simp] theorem State.spadWrite_cores (s : State) (k a : Nat) (bs : List Byte) : (s.spadWrite k a bs).cores = s.cores := rfl
@[simp] theorem State.spadWrite_dies (s : State) (k a : Nat) (bs : List Byte) : (s.spadWrite k a bs).dies = s.dies := rfl
@[simp] theorem State.spadWrite_chans (s : State) (k a : Nat) (bs : List Byte) : (s.spadWrite k a bs).chans = s.chans := rfl
@[simp] theorem State.spadWrite_links (s : State) (k a : Nat) (bs : List Byte) : (s.spadWrite k a bs).links = s.links := rfl
@[simp] theorem State.spadWrite_kernels (s : State) (k a : Nat) (bs : List Byte) : (s.spadWrite k a bs).kernels = s.kernels := rfl
@[simp] theorem State.spadWrite_launches (s : State) (k a : Nat) (bs : List Byte) : (s.spadWrite k a bs).launches = s.launches := rfl
@[simp] theorem State.spadWrite_regions (s : State) (k a : Nat) (bs : List Byte) : (s.spadWrite k a bs).regions = s.regions := rfl
@[simp] theorem State.spadWrite_pages (s : State) (k a : Nat) (bs : List Byte) : (s.spadWrite k a bs).pages = s.pages := rfl
@[simp] theorem State.spadWrite_transit (s : State) (k a : Nat) (bs : List Byte) : (s.spadWrite k a bs).transit = s.transit := rfl
@[simp] theorem State.spadWrite_sched (s : State) (k a : Nat) (bs : List Byte) : (s.spadWrite k a bs).sched = s.sched := rfl
@[simp] theorem State.spadWrite_messages (s : State) (k a : Nat) (bs : List Byte) : (s.spadWrite k a bs).messages = s.messages := rfl
@[simp] theorem State.spadWrite_relHomes (s : State) (k a : Nat) (bs : List Byte) : (s.spadWrite k a bs).relHomes = s.relHomes := rfl
@[simp] theorem State.spadWrite_conns (s : State) (k a : Nat) (bs : List Byte) : (s.spadWrite k a bs).conns = s.conns := rfl
@[simp] theorem State.spadWrite_nextSeq (s : State) (k a : Nat) (bs : List Byte) : (s.spadWrite k a bs).nextSeq = s.nextSeq := rfl
@[simp] theorem State.spadWrite_nextTask (s : State) (k a : Nat) (bs : List Byte) : (s.spadWrite k a bs).nextTask = s.nextTask := rfl
@[simp] theorem State.spadWrite_nextKernel (s : State) (k a : Nat) (bs : List Byte) : (s.spadWrite k a bs).nextKernel = s.nextKernel := rfl
@[simp] theorem State.spadWrite_nextTable (s : State) (k a : Nat) (bs : List Byte) : (s.spadWrite k a bs).nextTable = s.nextTable := rfl
@[simp] theorem State.spadWrite_hashOn (s : State) (k a : Nat) (bs : List Byte) : (s.spadWrite k a bs).hashOn = s.hashOn := rfl
@[simp] theorem State.spadWrite_hashEvery (s : State) (k a : Nat) (bs : List Byte) : (s.spadWrite k a bs).hashEvery = s.hashEvery := rfl
@[simp] theorem State.spadWrite_trees (s : State) (k a : Nat) (bs : List Byte) : (s.spadWrite k a bs).trees = s.trees := rfl
@[simp] theorem State.spadWrite_hashReads (s : State) (k a : Nat) (bs : List Byte) : (s.spadWrite k a bs).hashReads = s.hashReads := rfl
@[simp] theorem State.spadWrite_trace (s : State) (k a : Nat) (bs : List Byte) : (s.spadWrite k a bs).trace = s.trace := rfl
@[simp] theorem State.spadWrite_ckLinks (s : State) (k a : Nat) (bs : List Byte) : (s.spadWrite k a bs).ckLinks = s.ckLinks := rfl
@[simp] theorem State.spadWrite_stage (s : State) (k a : Nat) (bs : List Byte) : (s.spadWrite k a bs).stage = s.stage := rfl
@[simp] theorem State.spadWrite_recovery (s : State) (k a : Nat) (bs : List Byte) : (s.spadWrite k a bs).recovery = s.recovery := rfl
@[simp] theorem State.spadWrite_firmware (s : State) (k a : Nat) (bs : List Byte) : (s.spadWrite k a bs).firmware = s.firmware := rfl
@[simp] theorem State.spadWrite_plimit (s : State) (k a : Nat) (bs : List Byte) : (s.spadWrite k a bs).plimit = s.plimit := rfl
@[simp] theorem State.spadWrite_air (s : State) (k a : Nat) (bs : List Byte) : (s.spadWrite k a bs).air = s.air := rfl
@[simp] theorem State.spadWrite_timing (s : State) (k a : Nat) (bs : List Byte) : (s.spadWrite k a bs).timing = s.timing := rfl
@[simp] theorem State.spadWrite_unmaps (s : State) (k a : Nat) (bs : List Byte) : (s.spadWrite k a bs).unmaps = s.unmaps := rfl
@[simp] theorem State.spadWrite_retired (s : State) (k a : Nat) (bs : List Byte) : (s.spadWrite k a bs).retired = s.retired := rfl
@[simp] theorem State.spadWrite_out (s : State) (k a : Nat) (bs : List Byte) : (s.spadWrite k a bs).out = s.out := rfl
@[simp] theorem State.spadWrite_notices (s : State) (k a : Nat) (bs : List Byte) : (s.spadWrite k a bs).notices = s.notices := rfl
@[simp] theorem State.spadWrite_strays (s : State) (k a : Nat) (bs : List Byte) : (s.spadWrite k a bs).strays = s.strays := rfl
@[simp] theorem State.spadWrite_hostJobs (s : State) (k a : Nat) (bs : List Byte) : (s.spadWrite k a bs).hostJobs = s.hostJobs := rfl
@[simp] theorem State.spadWrite_focus (s : State) (k a : Nat) (bs : List Byte) : (s.spadWrite k a bs).focus = s.focus := rfl
@[simp] theorem State.spadWrite_agenda (s : State) (k a : Nat) (bs : List Byte) : (s.spadWrite k a bs).agenda = s.agenda := rfl
@[simp] theorem State.spadWrite_inputs (s : State) (k a : Nat) (bs : List Byte) : (s.spadWrite k a bs).inputs = s.inputs := rfl
@[simp] theorem State.spadWrite_free (s : State) (k a : Nat) (bs : List Byte) : (s.spadWrite k a bs).free = s.free := rfl

/-! ### spadPut -/

@[simp] theorem State.spadPut_sfc (s : State) (k : Nat) (l : List (Nat × Byte)) : (s.spadPut k l).sfc = s.sfc := rfl
@[simp] theorem State.spadPut_steer (s : State) (k : Nat) (l : List (Nat × Byte)) : (s.spadPut k l).steer = s.steer := rfl
@[simp] theorem State.spadPut_held (s : State) (k : Nat) (l : List (Nat × Byte)) : (s.spadPut k l).held = s.held := rfl
@[simp] theorem State.spadPut_clocks (s : State) (k : Nat) (l : List (Nat × Byte)) : (s.spadPut k l).clocks = s.clocks := rfl
@[simp] theorem State.spadPut_cores (s : State) (k : Nat) (l : List (Nat × Byte)) : (s.spadPut k l).cores = s.cores := rfl
@[simp] theorem State.spadPut_dies (s : State) (k : Nat) (l : List (Nat × Byte)) : (s.spadPut k l).dies = s.dies := rfl
@[simp] theorem State.spadPut_chans (s : State) (k : Nat) (l : List (Nat × Byte)) : (s.spadPut k l).chans = s.chans := rfl
@[simp] theorem State.spadPut_links (s : State) (k : Nat) (l : List (Nat × Byte)) : (s.spadPut k l).links = s.links := rfl
@[simp] theorem State.spadPut_kernels (s : State) (k : Nat) (l : List (Nat × Byte)) : (s.spadPut k l).kernels = s.kernels := rfl
@[simp] theorem State.spadPut_launches (s : State) (k : Nat) (l : List (Nat × Byte)) : (s.spadPut k l).launches = s.launches := rfl
@[simp] theorem State.spadPut_regions (s : State) (k : Nat) (l : List (Nat × Byte)) : (s.spadPut k l).regions = s.regions := rfl
@[simp] theorem State.spadPut_pages (s : State) (k : Nat) (l : List (Nat × Byte)) : (s.spadPut k l).pages = s.pages := rfl
@[simp] theorem State.spadPut_transit (s : State) (k : Nat) (l : List (Nat × Byte)) : (s.spadPut k l).transit = s.transit := rfl
@[simp] theorem State.spadPut_sched (s : State) (k : Nat) (l : List (Nat × Byte)) : (s.spadPut k l).sched = s.sched := rfl
@[simp] theorem State.spadPut_messages (s : State) (k : Nat) (l : List (Nat × Byte)) : (s.spadPut k l).messages = s.messages := rfl
@[simp] theorem State.spadPut_relHomes (s : State) (k : Nat) (l : List (Nat × Byte)) : (s.spadPut k l).relHomes = s.relHomes := rfl
@[simp] theorem State.spadPut_conns (s : State) (k : Nat) (l : List (Nat × Byte)) : (s.spadPut k l).conns = s.conns := rfl
@[simp] theorem State.spadPut_nextSeq (s : State) (k : Nat) (l : List (Nat × Byte)) : (s.spadPut k l).nextSeq = s.nextSeq := rfl
@[simp] theorem State.spadPut_nextTask (s : State) (k : Nat) (l : List (Nat × Byte)) : (s.spadPut k l).nextTask = s.nextTask := rfl
@[simp] theorem State.spadPut_nextKernel (s : State) (k : Nat) (l : List (Nat × Byte)) : (s.spadPut k l).nextKernel = s.nextKernel := rfl
@[simp] theorem State.spadPut_nextTable (s : State) (k : Nat) (l : List (Nat × Byte)) : (s.spadPut k l).nextTable = s.nextTable := rfl
@[simp] theorem State.spadPut_hashOn (s : State) (k : Nat) (l : List (Nat × Byte)) : (s.spadPut k l).hashOn = s.hashOn := rfl
@[simp] theorem State.spadPut_hashEvery (s : State) (k : Nat) (l : List (Nat × Byte)) : (s.spadPut k l).hashEvery = s.hashEvery := rfl
@[simp] theorem State.spadPut_trees (s : State) (k : Nat) (l : List (Nat × Byte)) : (s.spadPut k l).trees = s.trees := rfl
@[simp] theorem State.spadPut_hashReads (s : State) (k : Nat) (l : List (Nat × Byte)) : (s.spadPut k l).hashReads = s.hashReads := rfl
@[simp] theorem State.spadPut_trace (s : State) (k : Nat) (l : List (Nat × Byte)) : (s.spadPut k l).trace = s.trace := rfl
@[simp] theorem State.spadPut_ckLinks (s : State) (k : Nat) (l : List (Nat × Byte)) : (s.spadPut k l).ckLinks = s.ckLinks := rfl
@[simp] theorem State.spadPut_stage (s : State) (k : Nat) (l : List (Nat × Byte)) : (s.spadPut k l).stage = s.stage := rfl
@[simp] theorem State.spadPut_recovery (s : State) (k : Nat) (l : List (Nat × Byte)) : (s.spadPut k l).recovery = s.recovery := rfl
@[simp] theorem State.spadPut_firmware (s : State) (k : Nat) (l : List (Nat × Byte)) : (s.spadPut k l).firmware = s.firmware := rfl
@[simp] theorem State.spadPut_plimit (s : State) (k : Nat) (l : List (Nat × Byte)) : (s.spadPut k l).plimit = s.plimit := rfl
@[simp] theorem State.spadPut_air (s : State) (k : Nat) (l : List (Nat × Byte)) : (s.spadPut k l).air = s.air := rfl
@[simp] theorem State.spadPut_timing (s : State) (k : Nat) (l : List (Nat × Byte)) : (s.spadPut k l).timing = s.timing := rfl
@[simp] theorem State.spadPut_touched (s : State) (k : Nat) (l : List (Nat × Byte)) : (s.spadPut k l).touched = s.touched := rfl
@[simp] theorem State.spadPut_unmaps (s : State) (k : Nat) (l : List (Nat × Byte)) : (s.spadPut k l).unmaps = s.unmaps := rfl
@[simp] theorem State.spadPut_retired (s : State) (k : Nat) (l : List (Nat × Byte)) : (s.spadPut k l).retired = s.retired := rfl
@[simp] theorem State.spadPut_out (s : State) (k : Nat) (l : List (Nat × Byte)) : (s.spadPut k l).out = s.out := rfl
@[simp] theorem State.spadPut_notices (s : State) (k : Nat) (l : List (Nat × Byte)) : (s.spadPut k l).notices = s.notices := rfl
@[simp] theorem State.spadPut_strays (s : State) (k : Nat) (l : List (Nat × Byte)) : (s.spadPut k l).strays = s.strays := rfl
@[simp] theorem State.spadPut_hostJobs (s : State) (k : Nat) (l : List (Nat × Byte)) : (s.spadPut k l).hostJobs = s.hostJobs := rfl
@[simp] theorem State.spadPut_focus (s : State) (k : Nat) (l : List (Nat × Byte)) : (s.spadPut k l).focus = s.focus := rfl
@[simp] theorem State.spadPut_agenda (s : State) (k : Nat) (l : List (Nat × Byte)) : (s.spadPut k l).agenda = s.agenda := rfl
@[simp] theorem State.spadPut_inputs (s : State) (k : Nat) (l : List (Nat × Byte)) : (s.spadPut k l).inputs = s.inputs := rfl
@[simp] theorem State.spadPut_free (s : State) (k : Nat) (l : List (Nat × Byte)) : (s.spadPut k l).free = s.free := rfl

/-! ### report -/

@[simp] theorem State.report_sfc (s : State) (kind : ReportKind) (tag status : Nat) (data : List Nat) : (s.report kind tag status data).sfc = s.sfc := rfl
@[simp] theorem State.report_steer (s : State) (kind : ReportKind) (tag status : Nat) (data : List Nat) : (s.report kind tag status data).steer = s.steer := rfl
@[simp] theorem State.report_held (s : State) (kind : ReportKind) (tag status : Nat) (data : List Nat) : (s.report kind tag status data).held = s.held := rfl
@[simp] theorem State.report_clocks (s : State) (kind : ReportKind) (tag status : Nat) (data : List Nat) : (s.report kind tag status data).clocks = s.clocks := rfl
@[simp] theorem State.report_mem (s : State) (kind : ReportKind) (tag status : Nat) (data : List Nat) : (s.report kind tag status data).mem = s.mem := rfl
@[simp] theorem State.report_cores (s : State) (kind : ReportKind) (tag status : Nat) (data : List Nat) : (s.report kind tag status data).cores = s.cores := rfl
@[simp] theorem State.report_dies (s : State) (kind : ReportKind) (tag status : Nat) (data : List Nat) : (s.report kind tag status data).dies = s.dies := rfl
@[simp] theorem State.report_chans (s : State) (kind : ReportKind) (tag status : Nat) (data : List Nat) : (s.report kind tag status data).chans = s.chans := rfl
@[simp] theorem State.report_links (s : State) (kind : ReportKind) (tag status : Nat) (data : List Nat) : (s.report kind tag status data).links = s.links := rfl
@[simp] theorem State.report_kernels (s : State) (kind : ReportKind) (tag status : Nat) (data : List Nat) : (s.report kind tag status data).kernels = s.kernels := rfl
@[simp] theorem State.report_launches (s : State) (kind : ReportKind) (tag status : Nat) (data : List Nat) : (s.report kind tag status data).launches = s.launches := rfl
@[simp] theorem State.report_regions (s : State) (kind : ReportKind) (tag status : Nat) (data : List Nat) : (s.report kind tag status data).regions = s.regions := rfl
@[simp] theorem State.report_pages (s : State) (kind : ReportKind) (tag status : Nat) (data : List Nat) : (s.report kind tag status data).pages = s.pages := rfl
@[simp] theorem State.report_transit (s : State) (kind : ReportKind) (tag status : Nat) (data : List Nat) : (s.report kind tag status data).transit = s.transit := rfl
@[simp] theorem State.report_sched (s : State) (kind : ReportKind) (tag status : Nat) (data : List Nat) : (s.report kind tag status data).sched = s.sched := rfl
@[simp] theorem State.report_messages (s : State) (kind : ReportKind) (tag status : Nat) (data : List Nat) : (s.report kind tag status data).messages = s.messages := rfl
@[simp] theorem State.report_relHomes (s : State) (kind : ReportKind) (tag status : Nat) (data : List Nat) : (s.report kind tag status data).relHomes = s.relHomes := rfl
@[simp] theorem State.report_conns (s : State) (kind : ReportKind) (tag status : Nat) (data : List Nat) : (s.report kind tag status data).conns = s.conns := rfl
@[simp] theorem State.report_nextSeq (s : State) (kind : ReportKind) (tag status : Nat) (data : List Nat) : (s.report kind tag status data).nextSeq = s.nextSeq := rfl
@[simp] theorem State.report_nextTask (s : State) (kind : ReportKind) (tag status : Nat) (data : List Nat) : (s.report kind tag status data).nextTask = s.nextTask := rfl
@[simp] theorem State.report_nextKernel (s : State) (kind : ReportKind) (tag status : Nat) (data : List Nat) : (s.report kind tag status data).nextKernel = s.nextKernel := rfl
@[simp] theorem State.report_nextTable (s : State) (kind : ReportKind) (tag status : Nat) (data : List Nat) : (s.report kind tag status data).nextTable = s.nextTable := rfl
@[simp] theorem State.report_hashOn (s : State) (kind : ReportKind) (tag status : Nat) (data : List Nat) : (s.report kind tag status data).hashOn = s.hashOn := rfl
@[simp] theorem State.report_hashEvery (s : State) (kind : ReportKind) (tag status : Nat) (data : List Nat) : (s.report kind tag status data).hashEvery = s.hashEvery := rfl
@[simp] theorem State.report_trees (s : State) (kind : ReportKind) (tag status : Nat) (data : List Nat) : (s.report kind tag status data).trees = s.trees := rfl
@[simp] theorem State.report_hashReads (s : State) (kind : ReportKind) (tag status : Nat) (data : List Nat) : (s.report kind tag status data).hashReads = s.hashReads := rfl
@[simp] theorem State.report_trace (s : State) (kind : ReportKind) (tag status : Nat) (data : List Nat) : (s.report kind tag status data).trace = s.trace := rfl
@[simp] theorem State.report_ckLinks (s : State) (kind : ReportKind) (tag status : Nat) (data : List Nat) : (s.report kind tag status data).ckLinks = s.ckLinks := rfl
@[simp] theorem State.report_stage (s : State) (kind : ReportKind) (tag status : Nat) (data : List Nat) : (s.report kind tag status data).stage = s.stage := rfl
@[simp] theorem State.report_recovery (s : State) (kind : ReportKind) (tag status : Nat) (data : List Nat) : (s.report kind tag status data).recovery = s.recovery := rfl
@[simp] theorem State.report_firmware (s : State) (kind : ReportKind) (tag status : Nat) (data : List Nat) : (s.report kind tag status data).firmware = s.firmware := rfl
@[simp] theorem State.report_plimit (s : State) (kind : ReportKind) (tag status : Nat) (data : List Nat) : (s.report kind tag status data).plimit = s.plimit := rfl
@[simp] theorem State.report_air (s : State) (kind : ReportKind) (tag status : Nat) (data : List Nat) : (s.report kind tag status data).air = s.air := rfl
@[simp] theorem State.report_timing (s : State) (kind : ReportKind) (tag status : Nat) (data : List Nat) : (s.report kind tag status data).timing = s.timing := rfl
@[simp] theorem State.report_poison (s : State) (kind : ReportKind) (tag status : Nat) (data : List Nat) : (s.report kind tag status data).poison = s.poison := rfl
@[simp] theorem State.report_touched (s : State) (kind : ReportKind) (tag status : Nat) (data : List Nat) : (s.report kind tag status data).touched = s.touched := rfl
@[simp] theorem State.report_unmaps (s : State) (kind : ReportKind) (tag status : Nat) (data : List Nat) : (s.report kind tag status data).unmaps = s.unmaps := rfl
@[simp] theorem State.report_retired (s : State) (kind : ReportKind) (tag status : Nat) (data : List Nat) : (s.report kind tag status data).retired = s.retired := rfl
@[simp] theorem State.report_notices (s : State) (kind : ReportKind) (tag status : Nat) (data : List Nat) : (s.report kind tag status data).notices = s.notices := rfl
@[simp] theorem State.report_strays (s : State) (kind : ReportKind) (tag status : Nat) (data : List Nat) : (s.report kind tag status data).strays = s.strays := rfl
@[simp] theorem State.report_hostJobs (s : State) (kind : ReportKind) (tag status : Nat) (data : List Nat) : (s.report kind tag status data).hostJobs = s.hostJobs := rfl
@[simp] theorem State.report_focus (s : State) (kind : ReportKind) (tag status : Nat) (data : List Nat) : (s.report kind tag status data).focus = s.focus := rfl
@[simp] theorem State.report_agenda (s : State) (kind : ReportKind) (tag status : Nat) (data : List Nat) : (s.report kind tag status data).agenda = s.agenda := rfl
@[simp] theorem State.report_inputs (s : State) (kind : ReportKind) (tag status : Nat) (data : List Nat) : (s.report kind tag status data).inputs = s.inputs := rfl
@[simp] theorem State.report_free (s : State) (kind : ReportKind) (tag status : Nat) (data : List Nat) : (s.report kind tag status data).free = s.free := rfl

/-! ### A core's context or bank changed -/

@[simp] theorem Core.modCtx_port (k : Core) (c : Nat) (f : Ctx → Ctx) : (k.modCtx c f).port = k.port := rfl
@[simp] theorem Core.modCtx_portAt (k : Core) (c : Nat) (f : Ctx → Ctx) : (k.modCtx c f).portAt = k.portAt := rfl
@[simp] theorem Core.modCtx_heldFor (k : Core) (c : Nat) (f : Ctx → Ctx) : (k.modCtx c f).heldFor = k.heldFor := rfl
@[simp] theorem Core.modCtx_frozen (k : Core) (c : Nat) (f : Ctx → Ctx) : (k.modCtx c f).frozen = k.frozen := rfl
@[simp] theorem Core.modCtx_cycle (k : Core) (c : Nat) (f : Ctx → Ctx) : (k.modCtx c f).cycle = k.cycle := rfl
@[simp] theorem Core.modCtx_banks (k : Core) (c : Nat) (f : Ctx → Ctx) : (k.modCtx c f).banks = k.banks := rfl
@[simp] theorem Core.modCtx_l1 (k : Core) (c : Nat) (f : Ctx → Ctx) : (k.modCtx c f).l1 = k.l1 := rfl
@[simp] theorem Core.modCtx_relTable (k : Core) (c : Nat) (f : Ctx → Ctx) : (k.modCtx c f).relTable = k.relTable := rfl
@[simp] theorem Core.modCtx_nextRel (k : Core) (c : Nat) (f : Ctx → Ctx) : (k.modCtx c f).nextRel = k.nextRel := rfl
@[simp] theorem Core.modCtx_book (k : Core) (c : Nat) (f : Ctx → Ctx) : (k.modCtx c f).book = k.book := rfl
@[simp] theorem Core.modCtx_bookOwner (k : Core) (c : Nat) (f : Ctx → Ctx) : (k.modCtx c f).bookOwner = k.bookOwner := rfl
@[simp] theorem Core.modCtx_bookAt (k : Core) (c : Nat) (f : Ctx → Ctx) : (k.modCtx c f).bookAt = k.bookAt := rfl
@[simp] theorem Core.modCtx_acc (k : Core) (c : Nat) (f : Ctx → Ctx) : (k.modCtx c f).acc = k.acc := rfl
@[simp] theorem Core.modCtx_mq (k : Core) (c : Nat) (f : Ctx → Ctx) : (k.modCtx c f).mq = k.mq := rfl
@[simp] theorem Core.modCtx_nextOrder (k : Core) (c : Nat) (f : Ctx → Ctx) : (k.modCtx c f).nextOrder = k.nextOrder := rfl
@[simp] theorem Core.modCtx_mrun (k : Core) (c : Nat) (f : Ctx → Ctx) : (k.modCtx c f).mrun = k.mrun := rfl
@[simp] theorem Core.modCtx_mdone (k : Core) (c : Nat) (f : Ctx → Ctx) : (k.modCtx c f).mdone = k.mdone := rfl
@[simp] theorem Core.modCtx_mslot (k : Core) (c : Nat) (f : Ctx → Ctx) : (k.modCtx c f).mslot = k.mslot := rfl
@[simp] theorem Core.modCtx_mcyc (k : Core) (c : Nat) (f : Ctx → Ctx) : (k.modCtx c f).mcyc = k.mcyc := rfl
@[simp] theorem Core.modCtx_cards (k : Core) (c : Nat) (f : Ctx → Ctx) : (k.modCtx c f).cards = k.cards := rfl
@[simp] theorem Core.modCtx_votecnt (k : Core) (c : Nat) (f : Ctx → Ctx) : (k.modCtx c f).votecnt = k.votecnt := rfl
@[simp] theorem Core.modCtx_armed (k : Core) (c : Nat) (f : Ctx → Ctx) : (k.modCtx c f).armed = k.armed := rfl
@[simp] theorem Core.modCtx_breaks (k : Core) (c : Nat) (f : Ctx → Ctx) : (k.modCtx c f).breaks = k.breaks := rfl
@[simp] theorem Core.modCtx_errors (k : Core) (c : Nat) (f : Ctx → Ctx) : (k.modCtx c f).errors = k.errors := rfl
@[simp] theorem Core.modCtx_halted (k : Core) (c : Nat) (f : Ctx → Ctx) : (k.modCtx c f).halted = k.halted := rfl
@[simp] theorem Core.modCtx_skipped (k : Core) (c : Nat) (f : Ctx → Ctx) : (k.modCtx c f).skipped = k.skipped := rfl
@[simp] theorem Core.modCtx_tlb (k : Core) (c : Nat) (f : Ctx → Ctx) : (k.modCtx c f).tlb = k.tlb := rfl
@[simp] theorem Core.modCtx_past (k : Core) (c : Nat) (f : Ctx → Ctx) : (k.modCtx c f).past = k.past := rfl
@[simp] theorem Core.modBank_ctxs (k : Core) (b : Nat) (f : Bank → Bank) : (k.modBank b f).ctxs = k.ctxs := rfl
@[simp] theorem Core.modBank_port (k : Core) (b : Nat) (f : Bank → Bank) : (k.modBank b f).port = k.port := rfl
@[simp] theorem Core.modBank_portAt (k : Core) (b : Nat) (f : Bank → Bank) : (k.modBank b f).portAt = k.portAt := rfl
@[simp] theorem Core.modBank_heldFor (k : Core) (b : Nat) (f : Bank → Bank) : (k.modBank b f).heldFor = k.heldFor := rfl
@[simp] theorem Core.modBank_frozen (k : Core) (b : Nat) (f : Bank → Bank) : (k.modBank b f).frozen = k.frozen := rfl
@[simp] theorem Core.modBank_cycle (k : Core) (b : Nat) (f : Bank → Bank) : (k.modBank b f).cycle = k.cycle := rfl
@[simp] theorem Core.modBank_l1 (k : Core) (b : Nat) (f : Bank → Bank) : (k.modBank b f).l1 = k.l1 := rfl
@[simp] theorem Core.modBank_relTable (k : Core) (b : Nat) (f : Bank → Bank) : (k.modBank b f).relTable = k.relTable := rfl
@[simp] theorem Core.modBank_nextRel (k : Core) (b : Nat) (f : Bank → Bank) : (k.modBank b f).nextRel = k.nextRel := rfl
@[simp] theorem Core.modBank_book (k : Core) (b : Nat) (f : Bank → Bank) : (k.modBank b f).book = k.book := rfl
@[simp] theorem Core.modBank_bookOwner (k : Core) (b : Nat) (f : Bank → Bank) : (k.modBank b f).bookOwner = k.bookOwner := rfl
@[simp] theorem Core.modBank_bookAt (k : Core) (b : Nat) (f : Bank → Bank) : (k.modBank b f).bookAt = k.bookAt := rfl
@[simp] theorem Core.modBank_acc (k : Core) (b : Nat) (f : Bank → Bank) : (k.modBank b f).acc = k.acc := rfl
@[simp] theorem Core.modBank_mq (k : Core) (b : Nat) (f : Bank → Bank) : (k.modBank b f).mq = k.mq := rfl
@[simp] theorem Core.modBank_nextOrder (k : Core) (b : Nat) (f : Bank → Bank) : (k.modBank b f).nextOrder = k.nextOrder := rfl
@[simp] theorem Core.modBank_mrun (k : Core) (b : Nat) (f : Bank → Bank) : (k.modBank b f).mrun = k.mrun := rfl
@[simp] theorem Core.modBank_mdone (k : Core) (b : Nat) (f : Bank → Bank) : (k.modBank b f).mdone = k.mdone := rfl
@[simp] theorem Core.modBank_mslot (k : Core) (b : Nat) (f : Bank → Bank) : (k.modBank b f).mslot = k.mslot := rfl
@[simp] theorem Core.modBank_mcyc (k : Core) (b : Nat) (f : Bank → Bank) : (k.modBank b f).mcyc = k.mcyc := rfl
@[simp] theorem Core.modBank_cards (k : Core) (b : Nat) (f : Bank → Bank) : (k.modBank b f).cards = k.cards := rfl
@[simp] theorem Core.modBank_votecnt (k : Core) (b : Nat) (f : Bank → Bank) : (k.modBank b f).votecnt = k.votecnt := rfl
@[simp] theorem Core.modBank_armed (k : Core) (b : Nat) (f : Bank → Bank) : (k.modBank b f).armed = k.armed := rfl
@[simp] theorem Core.modBank_breaks (k : Core) (b : Nat) (f : Bank → Bank) : (k.modBank b f).breaks = k.breaks := rfl
@[simp] theorem Core.modBank_errors (k : Core) (b : Nat) (f : Bank → Bank) : (k.modBank b f).errors = k.errors := rfl
@[simp] theorem Core.modBank_halted (k : Core) (b : Nat) (f : Bank → Bank) : (k.modBank b f).halted = k.halted := rfl
@[simp] theorem Core.modBank_skipped (k : Core) (b : Nat) (f : Bank → Bank) : (k.modBank b f).skipped = k.skipped := rfl
@[simp] theorem Core.modBank_tlb (k : Core) (b : Nat) (f : Bank → Bank) : (k.modBank b f).tlb = k.tlb := rfl
@[simp] theorem Core.modBank_past (k : Core) (b : Nat) (f : Bank → Bank) : (k.modBank b f).past = k.past := rfl

/-! ### Reading what was written -/

@[simp] theorem State.setMem_mem (s : State) (m : Memory) : (s.setMem m).mem = m := rfl
@[simp] theorem State.spadWrite_mem (s : State) (k a : Nat) (bs : List Byte) :
    (s.spadWrite k a bs).mem = Memory.write s.mem (spadAddr k a) bs := rfl
@[simp] theorem State.report_out (s : State) (kind : ReportKind) (tag status : Nat) (data : List Nat) :
    (s.report kind tag status data).out = s.out ++ [⟨kind, tag, status, data⟩] := rfl
@[simp] theorem State.core_setCore_self (s : State) (k : Nat) (c : Core) : (s.setCore k c).core k = c := by
  simp [State.core, State.setCore]
theorem State.core_setCore_ne (s : State) {k j : Nat} (c : Core) (h : j ≠ k) : (s.setCore k c).core j = s.core j := by
  simp [State.core, State.setCore, AMap.getD_set_ne _ _ _ h]
@[simp] theorem State.core_modCore_self (s : State) (k : Nat) (f : Core → Core) : (s.modCore k f).core k = f (s.core k) := by
  simp [State.modCore]
theorem State.core_modCore_ne (s : State) {k j : Nat} (f : Core → Core) (h : j ≠ k) : (s.modCore k f).core j = s.core j :=
  State.core_setCore_ne s _ h
@[simp] theorem Core.ctx_modCtx_self (k : Core) (c : Nat) (f : Ctx → Ctx) : (k.modCtx c f).ctx c = f (k.ctx c) := by
  simp [Core.ctx, Core.modCtx]
theorem Core.ctx_modCtx_ne (k : Core) {c d : Nat} (f : Ctx → Ctx) (h : ctxNo d ≠ ctxNo c) : (k.modCtx c f).ctx d = k.ctx d := by
  have : (ctxNo c).val ≠ (ctxNo d).val := fun e => h (Fin.ext e.symm)
  simp [Core.ctx, Core.modCtx, this]
@[simp] theorem State.ctx_modCtx_self (s : State) (k c : Nat) (f : Ctx → Ctx) : (s.modCtx k c f).ctx k c = f (s.ctx k c) := by
  simp [State.ctx, State.modCtx]
theorem State.ctx_modCtx_ne (s : State) (k : Nat) {c d : Nat} (f : Ctx → Ctx) (h : ctxNo d ≠ ctxNo c) :
    (s.modCtx k c f).ctx k d = s.ctx k d := by
  simp [State.ctx, State.modCtx, Core.ctx_modCtx_ne _ f h]
theorem State.ctx_modCtx_other (s : State) {k j : Nat} (c d : Nat) (f : Ctx → Ctx) (h : j ≠ k) :
    (s.modCtx k c f).ctx j d = s.ctx j d := by
  simp [State.ctx, State.modCtx, State.core_modCore_ne s _ h]
@[simp] theorem Core.bank_modBank_self (k : Core) (b : Nat) (f : Bank → Bank) : (k.modBank b f).bank b = f (k.bank b) := by
  simp [Core.bank, Core.modBank]
theorem Core.bank_modBank_ne (k : Core) {b d : Nat} (f : Bank → Bank) (h : bankNo d ≠ bankNo b) : (k.modBank b f).bank d = k.bank d := by
  have : (bankNo b).val ≠ (bankNo d).val := fun e => h (Fin.ext e.symm)
  simp [Core.bank, Core.modBank, this]
@[simp] theorem State.bank_modBank_self (s : State) (k b : Nat) (f : Bank → Bank) : (s.modBank k b f).bank k b = f (s.bank k b) := by
  simp [State.bank, State.modBank]
@[simp] theorem State.die_modDie_self (s : State) (d : Nat) (f : Die → Die) : (s.modDie d f).die d = f (s.die d) := by
  simp [State.die, State.modDie]
theorem State.die_modDie_ne (s : State) {d e : Nat} (f : Die → Die) (h : dieIx e ≠ dieIx d) : (s.modDie d f).die e = s.die e := by
  have : (dieIx d).val ≠ (dieIx e).val := fun x => h (Fin.ext x.symm)
  simp [State.die, State.modDie, this]
@[simp] theorem State.chan_modChan_self (s : State) (c : Nat) (f : Channel → Channel) : (s.modChan c f).chan c = f (s.chan c) := by
  simp [State.chan, State.modChan]
theorem State.chan_modChan_ne (s : State) {c d : Nat} (f : Channel → Channel) (h : d ≠ c) : (s.modChan c f).chan d = s.chan d := by
  simp [State.chan, State.modChan, AMap.getD_set_ne _ _ _ h]
@[simp] theorem State.link_modLink_self (s : State) (l : Nat) (f : Link → Link) : (s.modLink l f).link l = f (s.link l) := by
  simp [State.link, State.modLink]
theorem State.link_modLink_ne (s : State) {l m : Nat} (f : Link → Link) (h : linkIx m ≠ linkIx l) : (s.modLink l f).link m = s.link m := by
  have : (linkIx l).val ≠ (linkIx m).val := fun x => h (Fin.ext x.symm)
  simp [State.link, State.modLink, this]
@[simp] theorem State.ctx_setMem (s : State) (m : Memory) (k c : Nat) : (s.setMem m).ctx k c = s.ctx k c := rfl
@[simp] theorem State.core_setMem (s : State) (m : Memory) (k : Nat) : (s.setMem m).core k = s.core k := rfl
@[simp] theorem State.core_report (s : State) (kind : ReportKind) (tag status : Nat) (data : List Nat) (k : Nat) :
    (s.report kind tag status data).core k = s.core k := rfl
@[simp] theorem State.core_modDie (s : State) (d : Nat) (f : Die → Die) (k : Nat) : (s.modDie d f).core k = s.core k := rfl
@[simp] theorem State.core_modChan (s : State) (c : Nat) (f : Channel → Channel) (k : Nat) : (s.modChan c f).core k = s.core k := rfl
@[simp] theorem State.core_modLink (s : State) (l : Nat) (f : Link → Link) (k : Nat) : (s.modLink l f).core k = s.core k := rfl
@[simp] theorem State.core_modLaunch (s : State) (h : Nat) (f : Launch → Launch) (k : Nat) : (s.modLaunch h f).core k = s.core k := rfl

/-! ### Registers -/

@[simp] theorem Regs.rx_zero (r : Regs) : r.rx 0 = 0 := rfl
@[simp] theorem Regs.rp_zero (r : Regs) : r.rp 0 = true := rfl
@[simp] theorem Regs.wx_zero (r : Regs) (v : Word64) : r.wx 0 v = r := rfl
@[simp] theorem Regs.wp_zero (r : Regs) (v : Bool) : r.wp 0 v = r := rfl
theorem Regs.rx_wx_self (r : Regs) (i : Fin 32) (v : Word64) (h : i ≠ 0) : (r.wx i v).rx i = v := by
  have : ¬ i.val = 0 := fun e => h (Fin.ext e)
  simp [Regs.wx, Regs.rx, this]
theorem Regs.rx_wx_ne (r : Regs) {i j : Fin 32} (v : Word64) (h : j ≠ i) : (r.wx i v).rx j = r.rx j := by
  have : i.val ≠ j.val := fun e => h (Fin.ext e.symm)
  unfold Regs.wx
  split
  · rfl
  · simp [Regs.rx, this]

/-! ### Memory of a step's shared operations -/

@[simp] theorem State.put_mem (s : State) (a : Nat) (bs : List Byte) : (s.put a bs).mem = Memory.write s.mem a bs := rfl
@[simp] theorem State.llcPut_mem (s : State) (pa policy : Nat) : (s.llcPut pa policy).mem = s.mem := by
  unfold State.llcPut
  split <;> rfl
/-- A record of the trace keeps memory's canonical form. -/
theorem State.traceRec_wf (s : State) (r : TraceRec) (h : s.mem.wf = true) : (s.traceRec r).mem.wf = true := by
  unfold State.traceRec
  split
  · exact h
  · split
    · exact h
    · cases translate s 0 (s.trace.base + 32 * s.trace.index) with
      | none => exact h
      | some l => simp only [State.llcPut_mem, State.put_mem]; exact Memory.wf_write _ _ _ h
theorem State.spadWrite_wf (s : State) (k a : Nat) (bs : List Byte) (h : s.mem.wf = true) : (s.spadWrite k a bs).mem.wf = true :=
  Memory.wf_write _ _ _ h
theorem State.spadPut_wf (s : State) (k : Nat) (l : List (Nat × Byte)) (h : s.mem.wf = true) : (s.spadPut k l).mem.wf = true := by
  have : ∀ (l : List (Nat × Byte)) (m : Memory), m.wf = true →
      (l.foldl (fun m p => Memory.set m (spadAddr k p.1) p.2) m).wf = true := by
    intro l
    induction l with
    | nil => exact fun m hm => hm
    | cons p t ih => exact fun m hm => ih _ (Memory.wf_set m _ _ hm)
  exact this l s.mem h

end Sys2Proof.Machine
end

