-- ==== Sys2Proof/Laws/Issue.lean ====
section
/-! SUPPORT. Laws of the issue of one slot instruction: when it issues, and everything that its issue does. -/
namespace Sys2Proof.Machine

/-! ### The first bundle of a task -/

theorem State.startTask_started (s : State) (k c : Nat) (h : ∀ t, (s.ctx k c).task = some t → t.started = true) : s.startTask k c = s := by
  unfold State.startTask
  split
  · rfl
  · next t ht => rw [if_pos (h t ht)]
theorem State.startTask_rest (s : State) (k c : Nat) :
    s.startTask k c = { s with cores := (s.startTask k c).cores, launches := (s.startTask k c).launches } := by
  unfold State.startTask
  split
  · rfl
  · split
    · rfl
    · rfl
theorem State.core_startTask_ne (s : State) {k j : Nat} (c : Nat) (h : j ≠ k) : (s.startTask k c).core j = s.core j := by
  unfold State.startTask
  split
  · rfl
  · split
    · rfl
    · simp only [State.core_modLaunch]; exact State.core_modCore_ne s _ h
theorem State.core_startTask (s : State) (k c : Nat) :
    (s.startTask k c).core k = { s.core k with ctxs := ((s.startTask k c).core k).ctxs } := by
  unfold State.startTask
  split
  · rfl
  · split
    · rfl
    · simp only [State.core_modLaunch, State.modCtx, State.core_modCore_self]; rfl
theorem State.ctx_startTask_ne (s : State) (k : Nat) {c d : Nat} (h : ctxNo d ≠ ctxNo c) : (s.startTask k c).ctx k d = s.ctx k d := by
  unfold State.startTask
  split
  · rfl
  · split
    · rfl
    · simp only [State.ctx, State.core_modLaunch]; exact State.ctx_modCtx_ne s k _ h

/-! ### A bundle of one slot -/

theorem voteSlots_plain (free : Nat) (l : List (Slot × SlotOut)) : voteSlots false free l = (0, none) := by
  have none : (l.flatMap fun _ => ([] : List (Slot × Nat))) = [] := by simp
  simp only [voteSlots, Bool.false_and, Bool.false_eq_true, if_false, none, voteValues]
theorem pairMismatch_none (sl : Slot) (free : Nat) (m : VPred) (h : Config.upset free = 0) : pairMismatch sl free m = none := by
  simp [pairMismatch, h]
theorem comparePairs_one (ls : Bool) (free : Nat) (p : Slot × SlotOut) (h : ls = false ∨ Config.upset (free + 8) = 0) :
    comparePairs ls free [p] = none := by
  obtain ⟨sl, o⟩ := p
  rcases h with h | h
  · simp [comparePairs, h]
  · simp only [comparePairs, pairMismatch_none _ _ _ h]
    simp

theorem State.slotView_headerIllegal (s : State) (c : Nat) : (s.slotView c).headerIllegal = none := by
  simp [View.headerIllegal, View.headerTrap, State.slotView, State.viewAt, plainHeader]
/-- R371. A slot that makes no precise stop leaves the bundle without one. -/
theorem View.stopTag_one {v : View} {slot : Slot} {opcode : Nat} {spec : SlotSpec} (stop : spec.stop v = none) :
    v.stopTag [⟨slot, opcode, spec⟩] = none := by
  simp [View.stopTag, stop]

/-- A slot instruction whose bundle raises nothing and waits for nothing issues. -/
theorem issueOne_next {s : State} {c : Nat} (slot : Slot) (opcode : Nat) (spec : SlotSpec) (h : MayIssue s c)
    (enc : (s.slotView c).encTrap ⟨slot, opcode, spec⟩ = none) (trap : spec.trap (s.slotView c) = none) (block : spec.block (s.slotView c) = false) (stop : spec.stop (s.slotView c) = none)
    (take : (s.slotView c).ctx.canTake (spec.out (s.slotView c)).takes = true) :
    issueOne slot opcode none spec s = .next (commit (s.slotView c) [(slot, spec.out (s.slotView c))]) := by
  have hl : (s.slotView c).ctx.late = none := h.notLate
  have hs : (s.slotView c).stamped = false := by
    simp [View.stamped, State.slotView, State.viewAt, plainHeader]
  have ho : (s.slotView c).overrun = none := by simp [View.overrun, hs]
  have hh : (s.slotView c).headerTrap = [] := by
    simp [View.headerTrap, State.slotView, State.viewAt, plainHeader]
  have ht : takesOf (s.slotView c).hdr [(slot, spec.out (s.slotView c))] = (spec.out (s.slotView c)).takes := by
    simp [takesOf, State.slotView, State.viewAt, plainHeader]
  have hi : (s.slotView c).issueTrap [⟨slot, opcode, spec⟩] = none := by
    simp [View.issueTrap, hh, trap, ho, View.lateTrap, hl, firstTrap]
  have hb : (s.slotView c).blocks [⟨slot, opcode, spec⟩] [(slot, spec.out (s.slotView c))] = false := by
    simp [View.blocks, h.started, block, ht, take]
  have hc : (s.slotView c).hdr.crit = false := rfl
  have hp : comparePairs (s.slotView c).ctx.lockstep (s.slotView c).s.free [(slot, spec.out (s.slotView c))] = none :=
    comparePairs_one _ _ _ h.paired
  have key : issueBundle (s.slotView c) [⟨slot, opcode, spec⟩] = commit (s.slotView c) [(slot, spec.out (s.slotView c))] := by
    unfold issueBundle
    simp only [State.slotView_headerIllegal, View.stopTag_one stop, Option.orElse, enc, hl, Option.isSome_none, h.started, hs, ho, hb, hi, hc, voteSlots_plain, hp,
      List.map_cons, List.map_nil, List.findSome?_cons, List.findSome?_nil, Bool.false_and, firstTrap, List.append_nil, if_false, Bool.false_eq_true]
  unfold issueOne
  rw [h.cool, if_neg (by decide), h.issuer]
  exact congrArg Host.Outcome.next key

/-- R15, R92. Where a slot's encoding is legal: a worker core, or the scalar subset, and no rule of the slot's own against it. -/
theorem encTrap_none {v : View} {slot : Slot} {opcode : Nat} {spec : SlotSpec} (sub : isWorker v.k = true ∨ scalarSubset slot opcode = true)
    (own : spec.enc v = none) : v.encTrap ⟨slot, opcode, spec⟩ = none := by
  rcases sub with h | h <;> simp [View.encTrap, h, own]
/-- R15. On a control core an encoding outside the scalar subset is reserved. -/
theorem encTrap_control {v : View} {slot : Slot} {opcode : Nat} {spec : SlotSpec} (core : isWorker v.k = false)
    (sub : scalarSubset slot opcode = false) : v.encTrap ⟨slot, opcode, spec⟩ = some (encodingTrap ⟨.resOp, slot.code, opcode⟩ v.sten) := by
  simp [View.encTrap, core, sub]
/-- R15, R92. A slot instruction with an illegal encoding traps, before anything can block it. -/
theorem issueOne_illegal {s : State} {c : Nat} (slot : Slot) (opcode : Nat) (spec : SlotSpec) (t : Trap) (h : MayIssue s c)
    (enc : (s.slotView c).encTrap ⟨slot, opcode, spec⟩ = some t) :
    issueOne slot opcode none spec s = .next ((s.slotView c).trapNow t) := by
  have key : issueBundle (s.slotView c) [⟨slot, opcode, spec⟩] = (s.slotView c).trapNow t := by
    unfold issueBundle
    simp only [State.slotView_headerIllegal, Option.orElse, enc, List.findSome?_cons]
  unfold issueOne
  rw [h.cool, if_neg (by decide), h.issuer]
  exact congrArg Host.Outcome.next key

theorem State.core_withFree (s : State) (n k : Nat) : ({ s with free := n } : State).core k = s.core k := rfl
theorem State.ctx_withFree (s : State) (n k c : Nat) : ({ s with free := n } : State).ctx k c = s.ctx k c := rfl
theorem retireArrivals_plain (s : State) (c : Nat) (outs : List (Slot × SlotOut)) : retireArrivals (s.slotView c) outs = [] := by
  simp [retireArrivals, arrivesOn, State.slotView, State.viewAt, plainHeader, bitAt]
theorem takesOf_plain (s : State) (c : Nat) (slot : Slot) (o : SlotOut) : takesOf (s.slotView c).hdr [(slot, o)] = o.takes := by
  simp [takesOf, State.slotView, State.viewAt, plainHeader]

/-- The issuing context after the issue, and the draw of free values: what IssuedQuiet speaks of. -/
def State.quietly (s : State) (c : Nat) (slot : Slot) (o : SlotOut) : State :=
  { (s.startTask s.focus c).modCtx s.focus c (fun _ => s.issuedCtx c slot o) with free := s.free + 16 }
theorem State.quietly_issued (s : State) (c : Nat) (slot : Slot) (o : SlotOut) : IssuedQuiet s (s.quietly c slot o) c slot o := by
  have rest : s.quietly c slot o =
      { s with cores := (s.quietly c slot o).cores, launches := (s.startTask s.focus c).launches, free := s.free + 16 } := by
    unfold State.quietly State.modCtx State.modCore State.setCore
    rw [State.startTask_rest s s.focus c]
  refine ⟨?_, ?_, ?_, ?_, ?_, ?_, ?_⟩
  · exact State.ctx_modCtx_self _ _ _ _
  · intro n hn
    exact (State.ctx_modCtx_ne _ _ _ hn).trans (State.ctx_startTask_ne s _ hn)
  · have : (s.quietly c slot o).core s.focus
        = ((s.startTask s.focus c).core s.focus).modCtx c (fun _ => s.issuedCtx c slot o) :=
      (State.core_withFree _ _ _).trans (State.core_modCore_self _ _ _)
    rw [this, State.core_startTask]
    rfl
  · intro k hk
    exact ((State.core_withFree _ _ _).trans (State.core_modCore_ne _ _ hk)).trans (State.core_startTask_ne s c hk)
  · rfl
  · exact rest
  · intro a
    rw [rest]

theorem State.quietly_of (s : State) (c : Nat) (slot : Slot) (o : SlotOut) (f : Ctx → Ctx)
    (hf : f ((s.startTask s.focus c).ctx s.focus c) = s.issuedCtx c slot o) :
    ({ (s.startTask s.focus c).modCtx s.focus c f with free := ((s.startTask s.focus c).modCtx s.focus c f).free + 16 } : State)
      = s.quietly c slot o := by
  have hw : ((s.startTask s.focus c).modCtx s.focus c f).free = s.free := by
    rw [State.modCtx_free, State.startTask_rest s s.focus c]
  have hm : (s.startTask s.focus c).modCtx s.focus c f = (s.startTask s.focus c).modCtx s.focus c (fun _ => s.issuedCtx c slot o) := by
    rw [← hf]; rfl
  rw [hw, hm]
  rfl

/-- Everything that the issue of one slot's bundle does. -/
theorem commit_one (s : State) (c : Nat) (slot : Slot) (o : SlotOut) :
    commit (s.slotView c) [(slot, o)] = s.finishSlot (s.quietly c slot o) c slot o := by
  have hs : (s.slotView c).stamped = false := by
    simp [View.stamped, State.slotView, State.viewAt, plainHeader]
  have ha : (s.slotView c).hdr.arr = 0 := rfl
  have fold : ∀ X : State, X = s.quietly c slot o →
      (if ((s.slotView c).ctx.inflight.isEmpty && o.conds.isEmpty
            && (!(o.eff.any Effect.ordered) || (s.slotView c).ctx.loadsBound (s.slotView c).ctx.nextBid)) = true then
        (sendLoads (s.slotView c) (s.slotView c).ctx.nextBid
          (o.eff.foldl (fun u e => u.lookUp (s.slotView c).k e) (o.state X (s.slotView c).ctx.nextBid))
          (o.loads.map fun l => (slot, l))).applyEffects (s.slotView c).k (s.slotView c).c (s.slotView c).addr o.eff
      else sendLoads (s.slotView c) (s.slotView c).ctx.nextBid
        (o.eff.foldl (fun u e => u.lookUp (s.slotView c).k e) (o.state X (s.slotView c).ctx.nextBid)) (o.loads.map fun l => (slot, l)))
        = s.finishSlot (s.quietly c slot o) c slot o := by
    intro X e
    rw [e]
    rfl
  unfold commit
  simp only [retireArrivals_plain, takesOf_plain, List.foldl_cons, List.foldl_nil, List.flatMap_cons, List.flatMap_nil, List.append_nil,
    List.findSome?_cons, List.findSome?_nil]
  refine fold _ (State.quietly_of s c slot o _ ?_)
  simp only [hs, ha, Bool.false_eq_true, if_false, ne_eq, not_true_eq_false]
  unfold State.issuedCtx
  cases o.target <;> rfl

/-- A slot instruction whose bundle raises nothing and waits for nothing issues, and does what its meaning answers. -/
theorem issueOne_issues {s : State} {c : Nat} (slot : Slot) (opcode : Nat) (spec : SlotSpec) (o : SlotOut) (h : MayIssue s c)
    (enc : (s.slotView c).encTrap ⟨slot, opcode, spec⟩ = none)
    (out : spec.out (s.slotView c) = o) (trap : spec.trap (s.slotView c) = none) (block : spec.block (s.slotView c) = false)
    (stop : spec.stop (s.slotView c) = none) (take : (s.ctx s.focus c).canTake o.takes = true) :
    ∃ u, IssuedQuiet s u c slot o ∧ issueOne slot opcode none spec s = .next (s.finishSlot u c slot o) := by
  subst out
  refine ⟨s.quietly c slot _, s.quietly_issued c slot _, ?_⟩
  rw [issueOne_next slot opcode spec h enc trap block stop take, commit_one]

/-- A slot instruction that raises a trap at issue takes it, once the earlier bundles have retired. -/
theorem issueOne_traps {s : State} {c : Nat} (slot : Slot) (opcode : Nat) (spec : SlotSpec) (t : Trap) (h : MayIssue s c)
    (enc : (s.slotView c).encTrap ⟨slot, opcode, spec⟩ = none)
    (trap : spec.trap (s.slotView c) = some t) (block : spec.block (s.slotView c) = false ∨ t.rank = 1)
    (stop : spec.stop (s.slotView c) = none) (take : (s.ctx s.focus c).canTake (spec.out (s.slotView c)).takes = true) :
    issueOne slot opcode none spec s = .next ((s.slotView c).trapNow ((s.slotView c).withOpcode opcode t)) := by
  have hl : (s.slotView c).ctx.late = none := h.notLate
  have hs : (s.slotView c).stamped = false := by
    simp [View.stamped, State.slotView, State.viewAt, plainHeader]
  have ho : (s.slotView c).overrun = none := by simp [View.overrun, hs]
  have hh : (s.slotView c).headerTrap = [] := by
    simp [View.headerTrap, State.slotView, State.viewAt, plainHeader]
  have ht : takesOf (s.slotView c).hdr [(slot, spec.out (s.slotView c))] = (spec.out (s.slotView c)).takes := takesOf_plain s c slot _
  have hi : (s.slotView c).issueTrap [⟨slot, opcode, spec⟩] = some ((s.slotView c).withOpcode opcode t) := by
    simp [View.issueTrap, hh, trap, ho, View.lateTrap, hl, firstTrap]
  have hb : (s.slotView c).blocks [⟨slot, opcode, spec⟩] [(slot, spec.out (s.slotView c))] = false := by
    have take' : (s.slotView c).ctx.canTake (spec.out (s.slotView c)).takes = true := take
    rcases block with b | b <;> simp [View.blocks, h.started, b, ht, take', trap]
  have key : issueBundle (s.slotView c) [⟨slot, opcode, spec⟩] = (s.slotView c).trapNow ((s.slotView c).withOpcode opcode t) := by
    unfold issueBundle
    simp only [State.slotView_headerIllegal, View.stopTag_one stop, Option.orElse, enc, hl, Option.isSome_none, h.started, hs, ho, hb, hi, List.map_cons, List.map_nil,
      List.findSome?_cons, List.findSome?_nil, Bool.false_and, if_false, Bool.false_eq_true]
  unfold issueOne
  rw [h.cool, if_neg (by decide), h.issuer]
  exact congrArg Host.Outcome.next key

/-- A slot instruction that waits blocks its context, whatever it will raise but an illegal operand. -/
theorem issueOne_blocks {s : State} {c : Nat} (slot : Slot) (opcode : Nat) (spec : SlotSpec) (h : MayIssue s c)
    (enc : (s.slotView c).encTrap ⟨slot, opcode, spec⟩ = none)
    (trap : ∀ t, spec.trap (s.slotView c) = some t → t.rank ≠ 1) (block : spec.block (s.slotView c) = true) :
    issueOne slot opcode none spec s = .next (s.heldUp c) := by
  have hl : (s.slotView c).ctx.late = none := h.notLate
  have hs : (s.slotView c).stamped = false := by
    simp [View.stamped, State.slotView, State.viewAt, plainHeader]
  have ho : (s.slotView c).overrun = none := by simp [View.overrun, hs]
  have hb : (s.slotView c).blocks [⟨slot, opcode, spec⟩] [(slot, spec.out (s.slotView c))] = true := by
    have legal : ((spec.trap (s.slotView c)).any fun t => decide (t.rank = 1)) = false := by
      cases e : spec.trap (s.slotView c) with
      | none => rfl
      | some t => simp [trap t e]
    simp [View.blocks, block, legal]
  have key : issueBundle (s.slotView c) [⟨slot, opcode, spec⟩] = s.heldUp c := by
    unfold issueBundle
    simp only [State.slotView_headerIllegal, Option.orElse, enc, List.findSome?_cons, List.findSome?_nil, hl, Option.isSome_none, h.started, hs, ho, hb, List.map_cons, List.map_nil, Bool.false_and, if_false,
      Bool.false_eq_true, if_true]
    rfl
  unfold issueOne
  rw [h.cool, if_neg (by decide), h.issuer]
  exact congrArg Host.Outcome.next key

end Sys2Proof.Machine
end

