-- ==== Sys2Proof/Tests/Slice0.lean ====
section
/-! SUPPORT. Tests: words written out from the encoding tables of spec/05 (R84 to R90) and of the instruction chapters, ill-formed terms, single steps
on small states with results taken from the spec's rules, and for each obligation states that meet its hypotheses. -/
set_option Elab.async false
namespace Sys2Proof.Tests
open Sys2Proof Sys2Proof.Machine

/-! ### Words by the forms of R84 -/

/-- Form C-R: op6, predicate, negate, r1, r2, imm8. -/
def cr (op p neg r1 r2 imm : Nat) : Nat := op * 2 ^ 22 + p * 2 ^ 19 + neg * 2 ^ 18 + r1 * 2 ^ 13 + r2 * 2 ^ 8 + imm
/-- Form C-J: disp18. -/
def cj (op p neg disp : Nat) : Nat := op * 2 ^ 22 + p * 2 ^ 19 + neg * 2 ^ 18 + disp
/-- Form C-L: level and disp15. -/
def cl (op p neg level disp : Nat) : Nat := op * 2 ^ 22 + p * 2 ^ 19 + neg * 2 ^ 18 + level * 2 ^ 15 + disp
/-- Form C-S: csr10 and a register. -/
def cs (op p neg csr r : Nat) : Nat := op * 2 ^ 22 + p * 2 ^ 19 + neg * 2 ^ 18 + csr * 2 ^ 8 + r * 2 ^ 3
/-- Form AB-R. -/
def abr (op xd xa xb func : Nat) : Nat := op * 2 ^ 22 + xd * 2 ^ 17 + xa * 2 ^ 12 + xb * 2 ^ 7 + func
/-- Form AB-I. -/
def abi (op xd xa imm : Nat) : Nat := op * 2 ^ 22 + xd * 2 ^ 17 + xa * 2 ^ 12 + imm
/-- The V slot, with predicate vp3 negated: op7, fmt, vd, va, vb, vc, rounding, SAT, imm7. -/
def vw (op fmt vd va vb vc rm sat imm : Nat) : Nat :=
  op * 2 ^ 37 + fmt * 2 ^ 34 + vd * 2 ^ 29 + va * 2 ^ 24 + vb * 2 ^ 19 + vc * 2 ^ 14 + 3 * 2 ^ 11 + 1 * 2 ^ 10 + rm * 2 ^ 8 + sat * 2 ^ 7 + imm
/-- The guard that vw writes. -/
def g3 : Guard := ⟨3, true⟩
/-- Form D-I. -/
def di (op vd xa imm : Nat) : Nat := op * 2 ^ 23 + vd * 2 ^ 18 + xa * 2 ^ 13 + imm
/-- Form D-L. -/
def dl (op vd xa ln arr : Nat) : Nat := op * 2 ^ 23 + vd * 2 ^ 18 + xa * 2 ^ 13 + ln * 2 ^ 8 + arr
/-- The E slot: op6, two register fields, and the low 16 bits. -/
def ew (op r1 r2 low : Nat) : Nat := op * 2 ^ 26 + r1 * 2 ^ 21 + r2 * 2 ^ 16 + low

/-- Every word decodes in its slot to the instruction beside it, which is well formed. -/
def decodes (sl : Slot) (l : List (Nat × Instr)) : Bool :=
  l.all fun p => p.2.wf && match decodeSlot sl p.1 with | .ok i => decide (i = p.2) | .error _ => false
/-- Every word is refused in its slot for the reason beside it. -/
def refuses (sl : Slot) (l : List (Nat × Reason)) : Bool :=
  l.all fun p => match decodeSlot sl p.1 with | .ok _ => false | .error r => decide (r = p.2)

/-- R86, R206, R208. The C slot. -/
theorem test_decode_c : decodes .c
    [(0, .nop), (cj 0x01 1 0 0x3FFFF, .br ⟨1, false⟩ 0x3FFFF), (cr 0x02 2 1 0 7 0, .brx ⟨2, true⟩ 7), (cj 0x03 0 0 0x20001, .call ⟨0, false⟩ 0x20001),
     (cr 0x04 7 1 0 0 0, .ret ⟨7, true⟩), (cl 0x05 0 0 5 0x7FFF, .loop ⟨0, false⟩ 5 0x7FFF), (cl 0x06 1 0 2 0x4000, .lbrk ⟨1, false⟩ 2 0x4000),
     (cr 0x07 0 0 0 0 0xB6, .waits ⟨0, false⟩ 11 6), (cr 0x08 0 1 0 0 0x47, .sigs ⟨0, true⟩ 4 7), (0x240A400, .waitc ⟨0, false⟩ 5 4),
     (cr 0x0A 0 0 0 0 0xE, .arrive ⟨0, false⟩ 14), (cr 0x0B 3 0 0 0 0x9, .bwait ⟨3, false⟩ 9), (0x3000002, .fence ⟨0, false⟩ 2),
     (cr 0x0D 0 0 0 17 4, .acq ⟨0, false⟩ 17 4), (cr 0x0E 0 0 0 18 3, .rel ⟨0, false⟩ 18 3), (cr 0x0F 0 0 0 31 0, .bankacq ⟨0, false⟩ 31),
     (cr 0x10 0 0 0 30 0, .bankrel ⟨0, false⟩ 30), (0x440A600, .launch ⟨0, false⟩ 5 6), (0x480E500, .cancel ⟨0, false⟩ 7 5)] = true := by decide +kernel
theorem test_decode_c_context : decodes .c
    [(cr 0x13 4 0 0 0 0, .sleep ⟨4, false⟩), (cr 0x14 0 0 0 9 6, .armh ⟨0, false⟩ 9 6), (cr 0x15 0 1 0 0 0, .yield ⟨0, true⟩),
     (0x5800007, .trap ⟨0, false⟩ 7), (0x5C00000, .rett ⟨0, false⟩), (0x6000850, .csrr ⟨0, false⟩ 0x008 10),
     (cs 0x19 0 0 0x001 3, .csrw ⟨0, false⟩ 0x001 3), (cs 0x19 0 0 0x010 4, .csrwMemdef ⟨0, false⟩ 4), (cs 0x19 0 0 0x011 5, .csrwClm ⟨0, false⟩ 5),
     (cs 0x19 0 0 0x013 6, .csrwFramelen ⟨0, false⟩ 6), (cs 0x19 0 0 0x070 7, .csrwDetmode ⟨0, false⟩ 7),
     (cs 0x19 0 0 0x012 8, .csrwStepref ⟨0, false⟩ 8), (0x6400350, .csrwTrappc ⟨0, false⟩ 10), (cs 0x19 0 0 0x035 11, .csrwHarm ⟨0, false⟩ 5 11),
     (cs 0x19 0 0 0x024 12, .csrwLoopCount ⟨0, false⟩ false 4 12), (cs 0x19 0 0 0x02D 13, .csrwLoopCount ⟨0, false⟩ true 5 13),
     (cs 0x19 0 0 0x04F 14, .csrwMslot ⟨0, false⟩ 15 14), (cs 0x19 6 1 0x080 15, .csrwXlroot ⟨6, true⟩ 15),
     (cs 0x19 0 0 0x060 16, .csrw ⟨0, false⟩ 0x060 16), (cr 0x1A 0 0 20 21 0, .stenld ⟨0, false⟩ 20 21), (cr 0x1B 0 0 0 22 0xA5, .frame ⟨0, false⟩ 22 0xA5),
     (cr 0x1C 0 0 0 0 0xFF, .brk ⟨0, false⟩ 0xFF), (cr 0x1D 5 0 0 0 0, .endTask ⟨5, false⟩), (cr 0x1E 0 0 0 0 0x81, .sevt ⟨0, false⟩ 0x81)] = true := by
  decide +kernel

/-- R87. The A and B slots. -/
theorem test_decode_ab : decodes .a
    [(0x04A5300, .add .a 5 5 6), (abr 0x02 1 2 3 0, .sub .a 1 2 3), (abr 0x03 31 30 29 0, .and .a 31 30 29), (abr 0x04 1 2 3 0, .or .a 1 2 3),
     (abr 0x05 1 2 3 0, .xor .a 1 2 3), (abr 0x06 1 2 3 0, .shl .a 1 2 3), (abr 0x07 1 2 3 0, .shr .a 1 2 3), (abr 0x08 1 2 3 0, .sra .a 1 2 3),
     (abr 0x09 1 2 3 0, .mul .a 1 2 3), (abr 0x0A 1 2 3 0, .mulh .a 1 2 3), (abr 0x0B 1 2 3 0, .mulhn .a 1 2 3), (abr 0x0C 1 2 3 0, .min .a 1 2 3),
     (abr 0x0D 1 2 3 0, .max .a 1 2 3), (abr 0x0E 1 2 3 0, .minn .a 1 2 3), (abr 0x0F 1 2 3 0, .maxn .a 1 2 3), (abr 0x10 7 2 3 5, .cmp .a 7 2 3 5),
     (abr 0x11 1 2 3 0x0E, .sel .a 1 2 3 6 true), (abr 0x11 1 2 3 0x05, .sel .a 1 2 3 5 false), (abr 0x12 1 2 0 0, .clz .a 1 2), (abr 0x13 1 2 0 0, .popc .a 1 2), (abr 0x14 1 2 3 0, .div .a 1 2 3),
     (abr 0x15 1 2 3 0, .rem .a 1 2 3), (0x60E7005, .addi .a 7 7 5), (abi 0x19 1 2 0x800, .andi .a 1 2 0x800), (abi 0x1A 1 2 0x7FF, .ori .a 1 2 0x7FF),
     (abi 0x1B 1 2 0xFFF, .xori .a 1 2 0xFFF), (abi 0x1C 1 2 63, .shli .a 1 2 63), (abi 0x1D 1 2 1, .shri .a 1 2 1), (abi 0x1E 1 2 32, .srai .a 1 2 32),
     (0x7C43400, .cmpi .a 2 3 2 0), (0x7C320FF, .cmpi .a 1 18 0 0xFF), (0x8062346, .lui .a 3 0x2346), (0x20 * 2 ^ 22 + 4 * 2 ^ 17 + 0x1FFFF, .lui .a 4 0x1FFFF),
     (abr 0x21 1 2 3 0x8, .plog .a 1 2 3 0x8)] = true := by decide +kernel
theorem test_decode_b : decodes .b
    [(0x60E7000, .addi .b 7 7 0), (abr 0x14 4 5 6 0, .div .b 4 5 6), (abi 0x30 1 2 8, .ldsD 1 2 8), (0xC526040, .ldsW 9 6 0x40), (abi 0x32 1 2 0xFFC, .ldsWn 1 2 0xFFC), (abi 0x33 1 2 2, .ldsH 1 2 2),
     (abi 0x34 1 2 2, .ldsHn 1 2 2), (abi 0x35 1 2 1, .ldsB 1 2 1), (abi 0x36 1 2 0x7FF, .ldsBn 1 2 0x7FF), (abi 0x37 1 2 8, .stsD 1 2 8),
     (abi 0x38 1 2 4, .stsW 1 2 4), (abi 0x39 1 2 2, .stsH 1 2 2), (abi 0x3A 1 2 0x800, .stsB 1 2 0x800)] = true := by decide +kernel
theorem test_refuse_ab : refuses .a
    [(abi 0x30 1 2 0, .slotKind), (abi 0x3A 1 2 0, .slotKind), (0x5800000, .resOp), (abr 0x17 0 0 0 0, .resOp), (abr 0x22 0 0 0 0, .resOp), (abr 0x3F 0 0 0 0, .resOp),
     (abr 0x01 1 2 3 1, .resField), (abr 0x10 8 2 3 0, .resField), (abr 0x10 1 2 3 8, .resField), (abr 0x10 1 2 3 6, .badValue), (abi 0x1F 1 2 0xE00, .badValue), (abr 0x11 1 2 3 0x10, .resField),
     (abi 0x1C 1 2 0x40, .resField), (abr 0x21 1 2 3 0x10, .resField), (abr 0x12 1 2 3 0, .resField), (1, .resField)] = true := by decide +kernel
theorem test_refuse_c : refuses .c
    [(1, .resField), (0x1F * 2 ^ 22, .resOp), (0x3F * 2 ^ 22, .resOp), (cl 0x05 0 0 6 1, .badValue), (cl 0x06 0 0 7 1, .badValue), (cr 0x0C 0 0 0 0 5, .badValue),
     (cr 0x0D 0 0 0 1 7, .badValue), (cr 0x0E 0 0 0 1 5, .badValue), (cr 0x0D 0 0 1 1 0, .resField), (cr 0x07 0 0 0 0 8, .resField), (cr 0x13 0 0 0 0 1, .resField),
     (cs 0x18 0 0 1 1 + 1, .resField), (cr 0x0F 0 0 0 1 1, .resField), (cj 0x00 1 0 0, .resField)] = true := by decide +kernel

/-- R88, R116. The V slot. -/
theorem test_decode_v_float : decodes .v
    [(0, .vnop), (vw 0x01 2 1 2 3 0 1 1 0, .vadd g3 2 1 2 3 1 true), (vw 0x02 1 1 2 3 0 2 0 0, .vsub g3 1 1 2 3 2 false), (vw 0x03 0 1 2 3 0 3 1 0, .vmul g3 0 1 2 3 3 true),
     (0x0848110DD80, .vfma g3 1 4 1 2 3 1 true), (vw 0x05 0 1 2 3 4 0 0 0, .vfms g3 0 1 2 3 4 0 false), (vw 0x06 2 31 30 29 28 3 1 0, .vfnma g3 2 31 30 29 28 3 true),
     (vw 0x07 0 1 2 3 0 0 0 0, .vmin g3 0 1 2 3), (vw 0x08 1 1 2 3 0 0 0 0, .vmax g3 1 1 2 3), (vw 0x09 2 1 2 0 0 0 0 0, .vabs g3 2 1 2), (vw 0x0A 0 1 2 0 0 0 0 0, .vneg g3 0 1 2),
     (vw 0x0B 1 7 2 3 0 0 0 0xF, .vcmp g3 1 7 2 3 7 true), (vw 0x0C 0 1 2 3 6 0 0 1, .vsel g3 1 2 3 6 true), (vw 0x0D 0 1 2 3 0 1 0 0, .vdiv g3 0 1 2 3 1 false),
     (vw 0x0E 1 1 2 0 0 1 1 0, .vsqrt g3 1 1 2 1 true), (vw 0x0F 2 1 2 0 0 2 0 0, .vrcp g3 2 1 2 2 false), (vw 0x10 0 1 2 0 0 3 0 0, .vrsq g3 0 1 2 3 false),
     (vw 0x11 0 1 2 0 0 0 1 0, .vexp2 g3 0 1 2 0 true), (vw 0x12 1 1 2 0 0 0 0 0, .vlog2 g3 1 1 2 0 false), (vw 0x13 6 1 2 0 3 1 1 0x18, .vcvt g3 6 1 2 3 1 true 0 3),
     (vw 0x13 0 1 2 0 0 0 0 0x0E, .vcvt g3 0 1 2 0 0 false 6 1), (vw 0x14 0 1 2 3 0 1 1 8, .vscl g3 0 1 2 3 1 true true 0), (vw 0x14 1 1 2 0 0 0 0 5, .vscl g3 1 1 2 0 0 false false 5),
     (vw 0x15 2 1 2 0 0 3 0 0, .vrint g3 2 1 2 3)] = true := by decide +kernel
theorem test_decode_v_integer : decodes .v
    [(vw 0x20 3 1 2 3 0 0 1 0, .viadd g3 3 1 2 3 true), (vw 0x21 4 1 2 3 0 0 0 0, .visub g3 4 1 2 3 false), (vw 0x22 5 1 2 3 0 0 1 0, .vimul g3 5 1 2 3 true),
     (vw 0x23 0 1 2 3 0 0 0 0, .vand g3 1 2 3), (vw 0x24 0 1 2 3 0 0 0 0, .vor g3 1 2 3), (vw 0x25 0 1 2 3 0 0 0 0, .vxor g3 1 2 3),
     (vw 0x26 3 1 2 0 0 0 0 0x7F, .vshl g3 3 1 2 0 true 63), (vw 0x27 5 1 2 3 0 0 0 0, .vshr g3 5 1 2 3 false 0), (vw 0x28 3 1 2 0 0 0 0 0x45, .vsra g3 3 1 2 0 true 5),
     (vw 0x29 4 1 2 3 0 0 0 0, .vimin g3 4 1 2 3), (vw 0x2A 5 1 2 3 0 0 0 0, .vimax g3 5 1 2 3), (vw 0x2B 5 6 2 3 0 0 0 0xD, .vicmp g3 5 6 2 3 5 true),
     (vw 0x30 0 1 2 0 0 0 0 0, .vmov g3 1 2), (vw 0x31 0 1 2 0 0 0 0 15, .vbcst g3 1 2 15), (vw 0x32 0 1 2 0 0 0 0 9, .vlane g3 1 2 9), (vw 0x33 0 1 2 3 0 0 0 0, .vget g3 1 2 3),
     (vw 0x34 3 1 0 0 0 0 0 127, .viota g3 1 127), (vw 0x35 0 1 2 3 4 0 0 0, .vshuf g3 1 2 3 4), (vw 0x36 0 1 2 0 0 0 0 7, .vxcl g3 1 2 7),
     (vw 0x37 0 1 2 0 0 2 1 0, .vreda g3 0 1 2 2 true), (vw 0x38 4 1 2 0 0 0 0 0, .vredx g3 4 1 2), (vw 0x39 6 1 2 3 0 0 0 3, .vpack g3 6 1 2 3 3),
     (vw 0x3A 5 1 2 0 0 0 0 5, .vunpk g3 5 1 2 1 true), (vw 0x3B 3 1 2 0 0 0 0 0, .vpcnt g3 1 2), (vw 0x3C 0 1 2 3 0 0 0 0xE, .vplog g3 1 2 3 0xE)] = true := by decide +kernel
theorem test_refuse_v : refuses .v
    [(1, .resField), (vw 0x16 0 0 0 0 0 0 0 0, .resOp), (vw 0x2C 0 0 0 0 0 0 0 0, .resOp), (vw 0x7F 0 0 0 0 0 0 0 0, .resOp), (vw 0x01 3 1 2 3 0 0 0 0, .badValue),
     (vw 0x01 0 1 2 3 1 0 0 0, .resField), (vw 0x07 0 1 2 3 0 1 0 0, .badValue), (vw 0x07 0 1 2 3 0 0 1 0, .badValue), (vw 0x0B 0 1 2 3 0 0 0 8, .badValue),
     (vw 0x0B 0 8 2 3 0 0 0 0, .resField), (vw 0x13 0 1 2 0 1 0 0 0, .resField), (vw 0x26 4 1 2 3 0 0 0 0, .badValue), (vw 0x26 3 1 2 3 0 0 0 0x40, .resField),
     (vw 0x39 5 1 2 3 0 0 0 2, .badValue), (vw 0x37 3 1 2 0 0 1 0 0, .badValue)] = true := by decide +kernel

/-- R89, R160. The M slot. -/
theorem test_decode_m : decodes .m
    [(0, .mnop), (0x081800, .mcall 3), (0x123800, .mpset 2 7), (0x03 * 2 ^ 19 + 3 * 2 ^ 17, .mfeed 3), (0x04 * 2 ^ 19 + 2 * 2 ^ 17 + 9 * 2 ^ 12 + 0xFFF, .moset 2 9 0xFFF),
     (0x05 * 2 ^ 19 + 7 * 2 ^ 14 + 200 * 2 ^ 6 + 31 * 2 ^ 1 + 1, .mdrain 7 200 31 true), (0x06 * 2 ^ 19 + 4 * 2 ^ 11 + 251 * 2 ^ 3, .mzero 4 251),
     (0x07 * 2 ^ 19 + 255 * 2 ^ 11 + 31 * 2 ^ 6, .mbook 255 31)] = true := by decide +kernel
theorem test_refuse_m : refuses .m [(1, .resField), (0x08 * 2 ^ 19, .resOp), (0x081801, .resField), (0x06 * 2 ^ 19 + 4 * 2 ^ 11 + 252 * 2 ^ 3, .badValue)] = true := by decide +kernel
/-- R168. The K slot. -/
theorem test_decode_k : decodes .k [(0, .knop), (0x262, .kld 1 4 2), (2 * 2 ^ 9 + 7 * 2 ^ 6 + 6 * 2 ^ 3 + 5, .kset 7 6 5), (3 * 2 ^ 9 + 1 * 2 ^ 6 + 2 * 2 ^ 3, .kmov 1 2)] = true := by
  decide +kernel
theorem test_refuse_k : refuses .k [(1, .resField), (4 * 2 ^ 9, .resOp), (3 * 2 ^ 9 + 1, .resField)] = true := by decide +kernel
/-- R142. The D slot. -/
theorem test_decode_d : decodes .d
    [(0, .dnop), (di 0x01 1 2 0x1FFF, .vldS 1 2 0x1FFF), (di 0x02 3 4 1, .vstS 3 4 1), (0x1BD2010, .vldG 15 9 0 0x10), (0x228C000, .vstG 10 6 0), (di 0x05 1 2 0x1000, .vldb 1 2 0x1000),
     (dl 0x06 5 6 31 255, .vgth 5 6 31 255), (di 0x07 5 6 30, .vsct 5 6 30), (di 0x08 4 0 (15 * 2 ^ 9 + 511), .hpop 4 15 511), (di 0x09 4 0 (1 * 2 ^ 9 + 2), .hpush 4 1 2),
     (0x5000200, .hadvr 1 0), (0x5800200, .hadvw 1 0), (0x6008202, .hset 4 1 2), (di 0x0D 31 7 3, .pref 31 7 3)] = true := by decide +kernel
theorem test_refuse_d : refuses .d [(1, .resField), (di 0x0E 0 0 0, .resOp), (dl 0x03 1 2 3 0, .badValue), (dl 0x06 1 2 3 0, .badValue), (di 0x07 1 2 0x20, .resField), (di 0x0C 0 4 13, .badValue),
    (di 0x0C 0 4 0x10, .resField), (di 0x0A 1 0 0, .resField), (di 0x08 4 1 0, .resField)] = true := by decide +kernel

/-- R90, R182, R257 to R267. The E slot: the modifier prefix, cards and trowel commands. -/
theorem test_decode_e_bank : decodes .e
    [(0, .enop), (0x01 * 2 ^ 26 + 3 * 2 ^ 23 + 4 * 2 ^ 20 + 2 * 2 ^ 18 + 7 * 2 ^ 15, .modp 3 4 2 7), (0x08800000, .cseq 4), (0x03 * 2 ^ 26 + 4 * 2 ^ 21 + 15 * 2 ^ 17, .job 4 15),
     (ew 0x08 1 2 (3 * 2 ^ 13 + 0x1FFF), .taddv 1 2 3 0x1FFF), (ew 0x09 1 2 (4 * 2 ^ 13 + 1), .tmaxv 1 2 4 1), (ew 0x0A 1 2 5, .tmulv 1 2 0 5), (ew 0x0B 1 2 6, .texpsv 1 2 0 6),
     (ew 0x0C 1 2 (127 * 2 ^ 6), .tscal 1 2 0 127), (0x34800000, .tfill 4 0 0 0), (0x38A00000, .tsumr 5 0 0 0), (ew 0x0F 1 2 (4 * 2 ^ 13 + 1 * 2 ^ 6), .tmaxr 1 2 4 1),
     (ew 0x10 1 2 (2 * 2 ^ 6), .texpn 1 2 0 2), (ew 0x11 1 2 (3 * 2 ^ 8 + 255), .tfaa 1 2 3 255), (ew 0x12 1 2 (3 * 2 ^ 8 + 1), .tfaab 1 2 3 1), (0x4CE60008, .tincw 7 6 0 8),
     (ew 0x14 1 2 (3 * 2 ^ 8 + 9), .tdecw 1 2 3 9), (ew 0x15 1 2 (31 * 2 ^ 8 + 9), .tcas 1 2 31 9), (ew 0x16 1 2 (3 * 2 ^ 8 + 9), .txchg 1 2 3 9), (0x5C00FFFF, .tfence false 0 0xFFFF),
     (0x17 * 2 ^ 26 + 2 ^ 25 + 2 * 2 ^ 16 + 1, .tfence true 2 1), (0x31 * 2 ^ 26 + 31 * 2 ^ 21 + 2 * 2 ^ 19 + 2 ^ 18 + 9 * 2 ^ 14, .bankmode 31 2 true 9)] = true := by decide +kernel
/-- R293, R309, R313, R330, R343. The E slot: regions, channels and messages. -/
theorem test_decode_e_region : decodes .e
    [(0x80240000, .sku 1 4 0 false 0), (ew 0x20 1 2 (2 * 2 ^ 14 + 2 ^ 13 + 5 * 2 ^ 9), .sku 1 2 2 true 5), (0x84043440, .skr 0 4 6 true 1), (0x888620FF, .wldRel 4 6 1 0 0xFF),
     (ew 0x22 1 2 (5 * 2 ^ 13 + 2 * 2 ^ 11 + 2 ^ 10 + 31), .wldAbs 1 2 5 2 31), (ew 0x23 1 2 (3 * 2 ^ 11 + 2 ^ 10 + 15 * 2 ^ 6), .stepc 1 2 3 true 15),
     (ew 0x24 1 2 (63 * 2 ^ 10 + 2 ^ 9), .lwm 1 2 63 true), (ew 0x25 1 2 (2 ^ 15 + 7 * 2 ^ 11), .stepq 1 2 true 7), (ew 0x26 1 2 (3 * 2 ^ 11), .coatw 1 2 3 false 0),
     (0xA0853480, .ttload 4 5 6 true 2), (0xA14F7000, .ttload 10 15 14 false 0), (0xA5906C80, .ttgo 12 16 13 true 2), (ew 0x2A 0 2 (3 * 2 ^ 11), .ttstop 2 3 false 0),
     (ew 0x2B 0 2 (3 * 2 ^ 11 + 2 ^ 10), .chpwr 2 3 true 0), (0xC08534C0, .send 4 5 6 true 3)] = true := by decide +kernel
theorem test_refuse_e : refuses .e
    [(1, .resField), (0x04 * 2 ^ 26, .resOp), (0x3F * 2 ^ 26, .resOp), (0x01 * 2 ^ 26 + 4 * 2 ^ 23, .badValue), (0x01 * 2 ^ 26 + 5 * 2 ^ 20, .badValue), (0x01 * 2 ^ 26 + 1, .resField),
     (ew 0x08 1 2 (1 * 2 ^ 13), .badValue), (ew 0x0A 1 2 (3 * 2 ^ 13), .badValue), (ew 0x11 1 2 (3 * 2 ^ 8), .badValue), (ew 0x11 1 2 (2 ^ 13 + 1), .resField), (0x17 * 2 ^ 26 + 3 * 2 ^ 16, .badValue),
     (ew 0x20 1 2 (3 * 2 ^ 14), .badValue), (ew 0x20 1 2 (1 * 2 ^ 9), .badValue), (ew 0x22 1 2 (6 * 2 ^ 13), .badValue), (ew 0x22 1 2 (3 * 2 ^ 11), .badValue), (ew 0x22 1 2 (2 ^ 10 + 2 ^ 5), .resField),
     (0x31 * 2 ^ 26 + 3 * 2 ^ 19, .badValue), (ew 0x30 1 2 (1 * 2 ^ 6), .badValue), (ew 0x2A 1 2 0, .resField), (0x02 * 2 ^ 26 + 2 ^ 17, .resField)] = true := by decide +kernel

/-- R83, R84, R86 to R91, R95. The bundle of the worked example: header fields, and one instruction a slot. -/
theorem test_decode_bundle :
    (match decodeBundle (0x800003FF * 2 ^ 224 + 0x04A5300 * 2 ^ 168 + 0x60E7000 * 2 ^ 140) with
      | .ok b => decide (b.a = .add .a 5 5 6 ∧ b.b = .addi .b 7 7 0 ∧ b.c = .nop ∧ b.v = .vnop ∧ b.m = .mnop ∧ b.k = .knop ∧ b.d = .dnop ∧ b.e = .enop)
      | .error _ => false) = true := by decide +kernel
/-- The host's reading of a table row: the M and E rows with their bits. -/
theorem test_decode_table_word : decodeTableWord 24 0x081800 = some (.mcall 3) ∧ decodeTableWord 32 0x08800000 = some (.cseq 4) ∧ decodeTableWord 24 1 = none := by decide +kernel

/-! ### Ill-formed terms -/

/-- R85 to R90 and the chapters: each check of an operand's value refuses a term. -/
theorem test_ill_formed_slots :
    [Instr.loop ⟨0, false⟩ 6 0, .lbrk ⟨0, false⟩ 7 0, .fence ⟨0, false⟩ 5, .acq ⟨0, false⟩ 1 6, .rel ⟨0, false⟩ 1 7, .cmp .a 0 0 0 6, .cmpi .b 0 0 7 0, .csrw ⟨0, false⟩ 0x010 1,
     .csrwLoopCount ⟨0, false⟩ false 6 1, .vadd g3 3 0 0 0 0 false, .vsub g3 3 0 0 0 0 false, .vmul g3 4 0 0 0 0 false, .vfma g3 3 0 0 0 0 0 false, .vfms g3 7 0 0 0 0 0 false,
     .vfnma g3 6 0 0 0 0 0 false, .vmin g3 3 0 0 0, .vmax g3 3 0 0 0, .vabs g3 3 0 0, .vneg g3 3 0 0, .vcmp g3 3 0 0 0 0 false, .vcmp g3 0 0 0 0 0 true, .vdiv g3 3 0 0 0 0 false,
     .vsqrt g3 3 0 0 0 false, .vrcp g3 3 0 0 0 false, .vrsq g3 3 0 0 0 false, .vexp2 g3 3 0 0 0 false, .vlog2 g3 3 0 0 0 false, .vcvt g3 0 0 0 1 0 false 0 0, .vcvt g3 0 0 0 0 0 false 1 2,
     .vscl g3 0 0 0 1 0 false false 0, .vscl g3 0 0 0 0 0 false true 1, .vscl g3 3 0 0 0 0 false false 0, .vrint g3 3 0 0 0, .viadd g3 2 0 0 0 false, .visub g3 6 0 0 0 false,
     .vimul g3 0 0 0 0 false, .vshl g3 3 0 0 1 true 0, .vshr g3 3 0 0 0 false 1, .vsra g3 4 0 0 0 false 0, .vimin g3 2 0 0 0, .vimax g3 2 0 0 0, .vicmp g3 3 0 0 0 6 false,
     .vicmp g3 3 0 0 0 0 true, .vicmp g3 2 0 0 0 0 false, .vreda g3 1 0 0 0 false, .vreda g3 3 0 0 1 false, .vredx g3 5 0 0, .vpack g3 4 0 0 0 0, .vpack g3 5 0 0 0 2, .vunpk g3 0 0 0 0 false,
     .vunpk g3 5 0 0 3 false, .mzero 255 1, .vldG 0 0 0 0, .vgth 0 0 0 0, .hset 0 0 13, .modp 4 0 0 0, .modp 0 5 0 0, .taddv 0 0 1 0, .tmaxv 0 0 2 0, .tmulv 0 0 3 0, .texpsv 0 0 4 0,
     .tscal 0 0 3 0, .tfill 0 0 3 0, .tsumr 0 0 5 0, .tmaxr 0 0 1 0, .texpn 0 0 3 0, .tfaa 0 0 0 0, .tfaab 0 0 0 0, .tincw 0 0 0 0, .tdecw 0 0 0 0, .tcas 0 0 0 0, .txchg 0 0 0 0,
     .tfence false 3 0, .sku 0 0 3 false 0, .sku 0 0 0 false 1, .skr 0 0 0 false 1, .wldRel 0 0 6 0 0, .wldRel 0 0 0 3 0, .wldAbs 0 0 7 0 0, .wldAbs 0 0 0 3 0, .stepc 0 0 0 false 1,
     .stepq 0 0 false 2, .coatw 0 0 0 false 3, .ttload 0 0 0 false 4, .ttgo 0 0 0 false 5, .ttstop 0 0 false 6, .chpwr 0 0 false 7, .send 0 0 0 false 8, .bankmode 0 3 false 0,
     .bankmode 0 0 false 9].all (fun i => !i.wf) = true := by decide +kernel
/-- R13 to R16, R255, R335: each part that the module does not have. -/
theorem test_ill_formed_events :
    [Instr.bundleIssue 104, .bundleIssue 512, .blockClear 0 4, .runLimit 127, .resultLanding 104 0, .landing 0 4, .lateDataReturn 105, .bundleRetire 0 5, .contextSaved 511 0, .killDrainComplete 0 4,
     .endDrainComplete 0 4, .messageDelivery 96 8, .messageDelivery 0 32, .dispatchRound 4, .bankHandover 0 32, .launchDecision 4, .matrixChunk 104, .matrixItemComplete 104, .cardStart 104,
     .copyComplete 104 0 0, .cardComplete 104 0, .trowelCommandStart 0 32, .trowelCommandPerform 96 8, .barrierArrival 0 32, .bankAccess 0 32, .bankmodeSwitchComplete 96 31, .skimAdmission 64 0,
     .skimAdmission 0 1024, .coatStart 64 0, .skimRowVisit 0 1024, .groupVisit 64 0, .coatComplete 0 1024, .commitFail 64, .waitTimeout 64 0, .regionRemoved 64, .timetableEntry 512, .dramAccess 512 0,
     .dramAccess 0 2, .spareCopyComplete 0 32 0, .nbVisit 512, .timetableStage 512, .tableReplacement 512, .defaultTableSwitch 512, .channelPowerDown 512, .channelWake 512, .alignmentFlit 22,
     .traceSample 104, .preemptRequest 0 4 0, .contextRestore 0 4 0 none, .contextRestore 0 0 4 none, .killRequest 104 0, .linkEnable 22, .lanesTrained 22, .trainingFail 22, .negotiationDone 22 [],
     .linkDegrade 22 4, .linkRestore 22, .linkDisable 22, .marginLow 4 0, .marginLow 0 12, .dieOvertemp 4, .droopFire 0 12, .firmwareReload 4 0, .firmwareReload 0 4, .marginRestored 4 0,
     .ageingIndicatorLow 4 0 0].all (fun i => !i.wf) = true := by decide +kernel

/-! ### Small states -/

/-- Context 0 of core 0 runs a bundle at line 0 of its kernel, and its task owns every bank. -/
def base : State :=
  (State.reset.withFetchWord 28 0).modCore 0 fun k => { k with banks := k.banks.map fun b => { b with owner := some 0 } }
/-- Scalar registers of the context. -/
def sets (s : State) (l : List (Fin 32 × Word64)) : State :=
  s.modCtx 0 0 fun x => x.modRegs fun r => { r with x := l.foldl (fun v p => v.set p.1 p.2) r.x }
/-- Other registers of the context. -/
def regs (s : State) (f : Regs → Regs) : State := s.modCtx 0 0 fun x => x.modRegs f
/-- The context itself. -/
def ctx (s : State) (f : Ctx → Ctx) : State := s.modCtx 0 0 f
/-- Core 0. -/
def core (s : State) (f : Core → Core) : State := s.modCore 0 f
/-- A bank of core 0. -/
def bank (s : State) (b : Nat) (f : Bank → Bank) : State := s.modBank 0 b f
/-- The state with a page of 2 MiB at a physical address mapped at 1 GiB by three tables (R274), with attributes, writable or not. -/
def mappedAt (s : State) (pa attr : Nat) (wr : Bool) : State :=
  let mem := Memory.write (Memory.write (Memory.write s.mem 0x10000 (leBytes 8 0x20003)) 0x20008 (leBytes 8 0x30003)) 0x30000
    (leBytes 8 (pa + 1 + (if wr then 4 else 0) + attr * 2 ^ 52))
  { s with mem := mem, dies := s.dies.set 0 { s.dies[0] with xlroot := 3 } }
/-- The same with device memory at 2 MiB. -/
def mapped (s : State) (attr : Nat) (wr : Bool) : State := mappedAt s 0x200000 attr wr

/-- What MayIssue asks outside a lockstep context, as a Bool. -/
def mayIssue (s : State) : Bool :=
  !s.overheated && decide ((s.core s.focus).issuer = some 0) && (s.ctx s.focus 0).late.isNone && !(s.slotView 0).beforeStart && !(s.ctx s.focus 0).lockstep
theorem mayIssue_of {s : State} (h : mayIssue s = true) : MayIssue s 0 := by
  simp only [mayIssue, Bool.and_eq_true, Bool.not_eq_true', decide_eq_true_eq, Option.isNone_iff_eq_none] at h
  exact ⟨h.1.1.1.1, h.1.1.1.2, h.1.1.2, h.1.2, .inl h.2⟩
theorem base_mayIssue : MayIssue base 0 := mayIssue_of (by decide +kernel)

/-- The results that an instruction's issue adds for scalar registers and predicates: cycles until it lands, register, value. -/
def results (i : Instr) (s : State) : List (Nat × Nat × Nat) :=
  match exec i s with
  | .next t => (t.ctx 0 0).pend.filterMap fun p => match p.kind with
      | .value (.x r v) => some (p.due, r.val, v.toNat)
      | .value (.p r v) => some (p.due, 100 + r.val, v.toNat)
      | _ => none
  | _ => []
/-- The same for one lane of a vector result (none outside the mask) and one of a vector predicate. -/
def laneResult (i : Instr) (s : State) (j : Fin 128) : Option (Nat × Nat) :=
  match exec i s with
  | .next t => (t.ctx 0 0).pend.findSome? fun p => match p.kind with
      | .value (.v _ m v) => if m[j] then some (p.due, v[j].toNat) else none
      | .value (.vp _ m v) => if m[j] then some (p.due, v[j].toNat) else none
      | _ => none
  | _ => none
/-- The cause, TRAPSLOT and TRAPINFO that an instruction leaves when its bundle traps. -/
def trapped (i : Instr) (s : State) : Nat × Nat × Nat :=
  match exec i s with
  | .next t => let r := (t.ctx 0 0).regs; (r.trapcause.toNat, r.trapslot.toNat, r.trapinfo.toNat)
  | _ => (0, 0, 0)
/-- The program counter after an instruction. -/
def pcAfter (i : Instr) (s : State) : Nat := match exec i s with | .next t => (t.ctx 0 0).regs.pc | _ => 0
/-- The status of the context after an instruction. -/
def statusAfter (i : Instr) (s : State) : Option CtxStatus := match exec i s with | .next t => some (t.ctx 0 0).status | _ => none

/-! ### Scalar slots (spec/06) -/

/-- R98: the wrap of ADD, and shift counts of 64 and above. -/
theorem test_scalar_alu :
    let s := sets base [(1, 0xFFFFFFFFFFFFFFFF), (2, 2), (3, 64), (4, 0x8000000000000000)]
    results (.add .a 5 1 2) s = [(1, 5, 1)] ∧ results (.sub .b 5 2 1) s = [(1, 5, 3)] ∧ results (.shl .a 5 2 3) s = [(1, 5, 0)] ∧ results (.shr .a 5 1 3) s = [(1, 5, 0)]
    ∧ results (.sra .a 5 4 3) s = [(1, 5, 0xFFFFFFFFFFFFFFFF)] ∧ results (.sra .a 5 2 3) s = [(1, 5, 0)] := by decide +kernel
/-- R98: products, and minimum and maximum by sign. -/
theorem test_scalar_products :
    let s := sets base [(1, 0xFFFFFFFFFFFFFFFF), (2, 2)]
    results (.mul .a 5 1 2) s = [(3, 5, 0xFFFFFFFFFFFFFFFE)] ∧ results (.mulh .a 5 1 2) s = [(3, 5, 0xFFFFFFFFFFFFFFFF)] ∧ results (.mulhn .a 5 1 2) s = [(3, 5, 1)]
    ∧ results (.min .a 5 1 2) s = [(1, 5, 0xFFFFFFFFFFFFFFFF)] ∧ results (.max .a 5 1 2) s = [(1, 5, 2)] ∧ results (.minn .a 5 1 2) s = [(1, 5, 2)]
    ∧ results (.maxn .a 5 1 2) s = [(1, 5, 0xFFFFFFFFFFFFFFFF)] := by decide +kernel
/-- R99: the three cases of a division. -/
theorem test_scalar_division :
    let s := sets base [(1, 7), (2, -2), (3, 0x8000000000000000), (4, -1)]
    results (.div .a 5 1 2) s = [(20, 5, (-3 : Word64).toNat)] ∧ results (.rem .b 5 1 2) s = [(20, 5, 1)] ∧ results (.div .a 5 1 0) s = [(20, 5, 0xFFFFFFFFFFFFFFFF)]
    ∧ results (.rem .a 5 1 0) s = [(20, 5, 7)] ∧ results (.div .a 5 3 4) s = [(20, 5, 0x8000000000000000)] ∧ results (.rem .a 5 3 4) s = [(20, 5, 0)] := by decide +kernel
/-- R100 to R105: the sign of an immediate, LUI, the unsigned comparison with one, and predicate logic on p0. -/
theorem test_scalar_immediates :
    let s := sets base [(1, 0xFFFFFFFFFFFFFFFF), (4, 1)]
    results (.addi .a 5 4 0xFFE) s = [(1, 5, 0xFFFFFFFFFFFFFFFF)] ∧ results (.lui .a 5 0x1FFFF) s = [(1, 5, 0xFFFFFFFFFFFFF000)] ∧ results (.srai .a 5 1 63) s = [(1, 5, 0xFFFFFFFFFFFFFFFF)]
    ∧ results (.cmpi .a 1 1 4 0x1FF) s = [(1, 101, 0)] ∧ results (.cmpi .a 1 4 4 0x1FF) s = [(1, 101, 1)] ∧ results (.plog .a 3 0 0 0) s = [(1, 103, 0)]
    ∧ results (.sel .a 5 1 4 0 true) s = [(1, 5, 1)] ∧ results (.clz .a 5 0) s = [(1, 5, 64)] ∧ results (.popc .a 5 1) s = [(1, 5, 64)] := by decide +kernel

theorem witness_scalarOperations : MayIssue base 0 := base_mayIssue
/-- A divisor of zero, the overflow, and a plain quotient. -/
theorem witness_scalarCountsAndDivision :
    let s := sets base [(1, 7), (2, -2), (3, 0x8000000000000000), (4, -1)]
    MayIssue s 0 ∧ s.xr 0 0 = 0 ∧ ((s.xr 0 3).toInt = -2 ^ 63 ∧ (s.xr 0 4).toInt = -1) ∧ (s.xr 0 2 ≠ 0 ∧ ¬ ((s.xr 0 1).toInt = -2 ^ 63 ∧ (s.xr 0 2).toInt = -1)) :=
  ⟨mayIssue_of (by decide +kernel), by decide +kernel⟩
theorem witness_scalarImmediates : MayIssue base 0 := base_mayIssue
theorem witness_scalarComparisons : MayIssue base 0 := base_mayIssue

/-! ### Vector slot (spec/07) -/

/-- A vector register with one 32-bit pattern in every lane. -/
def fill (s : State) (r : Fin 32) (x : Word32) : State := regs s fun q => { q with v := q.v.set r (Vector.replicate 128 x) }
/-- An all-true guard (vp0). -/
def all0 : Guard := ⟨0, false⟩

/-- R119: 1.0 + 2.0 in FP32 and in BF16 pairs; R50: a NaN operand of VMIN gives the canonical NaN. -/
theorem test_vector_float :
    let s := fill (fill base 1 0x3F803F80) 2 0x40004000
    let f := fill (fill base 1 0x3F800000) 2 0x40000000
    laneResult (.vadd all0 0 3 1 2 0 false) f 127 = some (4, 0x40400000) ∧ laneResult (.vadd all0 1 3 1 2 0 false) s 0 = some (4, 0x40404040)
    ∧ laneResult (.vfma all0 0 3 1 2 2 0 false) f 5 = some (4, 0x40800000) ∧ laneResult (.vmin all0 0 3 1 2) (fill f 2 0x7F800001) 3 = some (2, 0x7FC00000)
    ∧ laneResult (.vneg all0 0 3 1) f 9 = some (2, 0xBF800000) ∧ laneResult (.vadd ⟨1, false⟩ 0 3 1 2 0 false) f 0 = none := by decide +kernel
/-- R62, R119, R120, R124: 1 / 2, the square root of 4, 2 to the 1, log2 of 2, -0.25 to an integral value, and a scale of 2. -/
theorem test_vector_functions :
    let f := fill (fill base 1 0x3F800000) 2 0x40000000
    laneResult (.vdiv all0 0 3 1 2 0 false) f 0 = some (14, 0x3F000000) ∧ laneResult (.vsqrt all0 0 3 2 0 false) (fill f 2 0x40800000) 0 = some (14, 0x40000000)
    ∧ laneResult (.vexp2 all0 0 3 1 0 false) f 0 = some (8, 0x40000000) ∧ laneResult (.vlog2 all0 0 3 2 0 false) f 0 = some (8, 0x3F800000)
    ∧ laneResult (.vrint all0 0 3 1 0) (fill f 1 0xBE800000) 0 = some (4, 0x80000000) ∧ laneResult (.vscl all0 0 3 1 4 0 false true 0) (fill f 4 128) 0 = some (4, 0x40000000)
    ∧ laneResult (.vscl all0 0 3 1 4 0 false true 0) (fill f 4 255) 0 = some (4, 0x7FC00000) := by decide +kernel
/-- R121 to R128: an unordered comparison, a conversion that saturates, wrapped and saturated sums, and a shift by the width. -/
theorem test_vector_integers :
    let s := fill (fill base 1 0x7FFFFFFF) 2 1
    laneResult (.vcmp all0 0 1 1 2 7 false) s 4 = some (2, 1) ∧ laneResult (.viadd all0 3 3 1 2 true) s 0 = some (2, 0x7FFFFFFF)
    ∧ laneResult (.viadd all0 3 3 1 2 false) s 0 = some (2, 0x80000000) ∧ laneResult (.vshl all0 3 3 1 0 true 32) s 0 = some (2, 0)
    ∧ laneResult (.vsra all0 3 3 1 0 true 63) (fill s 1 0x80000000) 0 = some (2, 0xFFFFFFFF) ∧ laneResult (.vpcnt all0 3 1) s 0 = some (2, 31)
    ∧ laneResult (.vicmp all0 3 1 1 2 2 false) s 0 = some (2, 0) := by decide +kernel
/-- R129 to R132: VIOTA counts across clusters, VXCL moves by whole clusters, VPACK puts a quarter into its place. -/
theorem test_vector_movement :
    let s := regs base fun q => { q with v := q.v.set (1 : Fin 32) (Vector.ofFn fun j : Fin 128 => BitVec.ofNat 32 j.val) }
    laneResult (.viota all0 3 2) s 17 = some (2, 19) ∧ laneResult (.vxcl all0 3 1 1) s 16 = some (6, 0) ∧ laneResult (.vlane all0 3 1 3) s 14 = some (3, 1)
    ∧ laneResult (.vpack all0 6 3 1 2 1) (fill s 2 0x11223344) 5 = some (2, 0x11220544) ∧ laneResult (.vredx all0 3 3 1) s 20 = some (5, 31) := by decide +kernel

/-- A lockstep context whose cluster pairs do not differ may issue. -/
theorem lockstep_mayIssue (h : Config.upset ((ctx base fun x => { x with lockstep := true }).free + 8) = 0) : MayIssue (ctx base fun x => { x with lockstep := true }) 0 :=
  ⟨by decide +kernel, by decide +kernel, by decide +kernel, by decide +kernel, .inr h⟩
/-- Both kinds of context. -/
theorem witness_laneMask : (base.ctx base.focus 0).lockstep = false ∧ ((ctx base fun x => { x with lockstep := true }).ctx base.focus 0).lockstep = true := by decide +kernel
theorem base_worker : isWorker base.focus = true := by decide +kernel
theorem witness_vectorArithmetic : MayIssue base 0 ∧ isWorker base.focus = true := ⟨base_mayIssue, base_worker⟩
theorem witness_vectorFunctions : MayIssue base 0 ∧ isWorker base.focus = true ∧ (254 : Nat) ≠ 0xFF := ⟨base_mayIssue, base_worker, by decide⟩
theorem witness_vectorSelection : MayIssue base 0 ∧ isWorker base.focus = true := ⟨base_mayIssue, base_worker⟩
theorem witness_vectorIntegers : MayIssue base 0 ∧ isWorker base.focus = true := ⟨base_mayIssue, base_worker⟩
theorem witness_vectorMovement : MayIssue base 0 ∧ (base.ctx base.focus 0).lockstep = false := ⟨base_mayIssue, by decide +kernel⟩
theorem witness_vectorReductions : MayIssue base 0 ∧ isWorker base.focus = true := ⟨base_mayIssue, base_worker⟩
/-- A code of each format that is no NaN: the largest finite one. -/
theorem witness_formatsRoundTrip : decodeNum 0 0x7F7FFFFF ≠ .nan ∧ decodeNum 1 0x7F7F ≠ .nan ∧ decodeNum 2 0x7BFF ≠ .nan ∧ decodeNum 7 0x7E ≠ .nan ∧ decodeNum 6 0x7F ≠ .nan ∧ decodeNum 8 0x1F ≠ .nan := by
  decide +kernel

/-! ### Memory access (spec/06, 08) -/

/-- The bytes of a scratchpad of core 0 from address a. -/
def put (s : State) (a : Nat) (l : List Byte) : State := { s with mem := Memory.write s.mem (spadAddr 0 a) l }
/-- What a load's pending result becomes. -/
def loaded (i : Instr) (s : State) : List (Nat × Option Nat) :=
  match exec i s with
  | .next t => (t.ctx 0 0).pend.map fun p => (p.due, match p.dest? with | some (.x _ v) => some v.toNat | _ => none)
  | _ => []

/-- R107: a word of 0xFFFFFFFE, signed and unsigned, and the last byte of the scratchpad; R109: a misaligned word. -/
theorem test_scalar_loads :
    let s := put (put (sets base [(2, 0x40), (3, 0x1FFFFF)]) 0x40 [0xFE, 0xFF, 0xFF, 0xFF]) 0x1FFFFF [0x80]
    loaded (.ldsW 5 2 0) s = [(4, some 0xFFFFFFFFFFFFFFFE)] ∧ loaded (.ldsWn 5 2 0) s = [(4, some 0xFFFFFFFE)] ∧ loaded (.ldsB 5 3 0) s = [(4, some 0xFFFFFFFFFFFFFF80)]
    ∧ trapped (.ldsW 5 2 2) s = (5, 3, 0x42) ∧ loaded (.ldsHn 5 2 0xFFE) s = [(4, some 0)] := by decide +kernel
/-- R107, R111: a store is withheld for the bank: it is queued there, and memory changes when the bank performs it. -/
theorem test_scalar_store :
    let s := sets base [(1, 0x1122334455667788), (2, 0x10040)]
    (match exec (.stsH 1 2 0) s with
      | .next t => decide (t.mem = s.mem ∧ (t.bank 0 1).queue.map (fun i => i.work) = [.store [(0x10040, 0x88), (0x10041, 0x77)]])
      | _ => false) = true ∧ trapped (.stsD 1 2 4) s = (5, 3, 0x10044) := by decide +kernel
/-- R146: a bank that is not owned, and an address beyond every space. -/
theorem test_access_faults :
    let s := sets (bank base 3 fun b => { b with owner := none }) [(2, 0x30000), (3, 0x10000000000000)]
    trapped (.ldsD 5 2 0) s = (6, 3, 0x30000) ∧ trapped (.ldsD 5 3 0) s = (7, 3, 0x10000000000000) ∧ trapped (.vldS 5 2 0) s = (6, 6, 0x30000)
    ∧ trapped (.vldS 5 2 0x1FF9) s = (5, 6, 0x2FE40) := by decide +kernel

theorem ok_of {ε α : Type} (e : Except ε α) (p : α → Bool) (h : (match e with | .ok l => p l | .error _ => false) = true) : ∃ l, e = .ok l ∧ p l = true := by
  cases e with
  | ok l => exact ⟨l, rfl, h⟩
  | error _ => exact absurd h Bool.false_ne_true
theorem error_of {ε α : Type} (e : Except ε α) (h : (match e with | .ok _ => false | .error _ => true) = true) : ∃ t, e = .error t := by
  cases e with
  | ok _ => exact absurd h Bool.false_ne_true
  | error t => exact ⟨t, rfl⟩
theorem next_of (o : Host.Outcome State Fault Refusal) (h : (match o with | .next _ => true | _ => false) = true) : ∃ t, o = .next t := by
  cases o with
  | next t => exact ⟨t, rfl⟩
  | fault _ => exact absurd h Bool.false_ne_true
  | refused _ => exact absurd h Bool.false_ne_true
theorem witness_scalarLoads :
    let s := sets base [(2, 0x1FFFF8), (3, 0x1FFFF9), (4, 0x10000000000000), (5, 0xFFFFFC0200008)]
    MayIssue s 0 ∧ ((s.xr 0 2 + (0 : BitVec 12).signExtend 64).toNat % 8 = 0 ∧ (s.slotView 0).locate 6 (s.xr 0 2 + (0 : BitVec 12).signExtend 64).toNat false = .ok (.spad 0x1FFFF8))
    ∧ (s.xr 0 3 + (0 : BitVec 12).signExtend 64).toNat % 8 ≠ 0
    ∧ ((s.xr 0 4 + (0 : BitVec 12).signExtend 64).toNat % 8 = 0 ∧ (s.slotView 0).locate 6 (s.xr 0 4 + (0 : BitVec 12).signExtend 64).toNat false = .error ⟨7, 6⟩)
    ∧ (∃ w, (s.slotView 0).locate 6 (s.xr 0 5 + (0 : BitVec 12).signExtend 64).toNat false = .ok w ∧ w.far = true ∧ ∀ a, w ≠ .spad a)
    ∧ s.poisoned (spadAddr s.focus 0x1FFFF8) 8 = false
    ∧ (let b := { s with poison := [spadAddr 0 0x1FFFF8] }
      MayIssue b 0 ∧ b.poisoned (spadAddr b.focus 0x1FFFF8) 8 = true ∧ (b.slotView 0).renewed (0x1FFFF8 / 8 * 8) = false
        ∧ (b.slotView 0).locate 6 (b.xr 0 2 + (0 : BitVec 12).signExtend 64).toNat false = .ok (.spad 0x1FFFF8)) := by
  and_intros <;> first
    | decide +kernel | exact mayIssue_of (by decide +kernel) | exact ⟨.window 1 8, by decide +kernel, by decide +kernel, by intro a h; cases h⟩
theorem quiet_banks {s : State} (h : ∀ b : Fin 32, (s.core s.focus).banks[b].queue = []) : ∀ b, (s.bank s.focus b).queue = [] := fun b => h (bankNo b)
theorem witness_scratchpadLoadReadsMemory :
    let s := sets base [(2, 0x1FFFF8)]
    MayIssue s 0 ∧ ((s.ctx s.focus 0).inflight = [] ∧ (s.ctx s.focus 0).pend = [] ∧ (s.ctx s.focus 0).held = [] ∧ (s.core s.focus).cards = []) ∧ (∀ b, (s.bank s.focus b).queue = []) ∧ (s.slotView 0).scalarMods.ord = 0
    ∧ (s.xr 0 2 + (0 : BitVec 12).signExtend 64).toNat < 2 ^ 21 ∧ (s.core s.focus).usable 0 ((s.xr 0 2 + (0 : BitVec 12).signExtend 64).toNat / 65536) = true
    ∧ (s.xr 0 2 + (0 : BitVec 12).signExtend 64).toNat % 8 = 0 ∧ s.poisoned (spadAddr s.focus (s.xr 0 2 + (0 : BitVec 12).signExtend 64).toNat) 8 = false :=
  ⟨mayIssue_of (by decide +kernel), by decide +kernel, quiet_banks (by decide +kernel), by decide +kernel⟩
theorem witness_scalarStores :
    let s := sets base [(2, 0x1FFFF8), (3, 0x1FFFF9), (4, 0x10000000000000), (5, 0xFFFFFC0200008)]
    MayIssue s 0 ∧ ((s.xr 0 2 + (0 : BitVec 12).signExtend 64).toNat % 8 = 0 ∧ (s.core s.focus).usable 0 ((s.xr 0 2 + (0 : BitVec 12).signExtend 64).toNat / 65536) = true)
    ∧ (s.xr 0 3 + (0 : BitVec 12).signExtend 64).toNat % 8 ≠ 0 ∧ (s.slotView 0).locate 6 (s.xr 0 4 + (0 : BitVec 12).signExtend 64).toNat true = .error ⟨7, 6⟩
    ∧ ∃ w, (s.slotView 0).locate 6 (s.xr 0 5 + (0 : BitVec 12).signExtend 64).toNat true = .ok w ∧ w.far = true :=
  ⟨mayIssue_of (by decide +kernel), by decide +kernel, by decide +kernel, by decide +kernel, .window 1 8, by decide +kernel⟩
/-- Every link is UP. -/
def joined (s : State) : State := { s with links := Vector.replicate 22 { Link.reset with state := .up } }
theorem joined_dies (s : State) (b : Nat) : (joined s).diesJoined 0 b = true := by
  have h : ∀ c : Fin 4, (decide (0 % 4 = c.val) || ((joined base).link (dieLink (0 % 4) c.val)).flows) = true := by decide +kernel
  have h := h ⟨b % 4, Nat.mod_lt _ (by decide)⟩
  have e : (joined s).diesJoined 0 b = (decide (0 % 4 = b % 4) || ((joined base).link (dieLink (0 % 4) (b % 4))).flows) := rfl
  rw [e]; exact h
/-- Each clause of the places of an access: the last bank's last byte, a bank given up, the first address beyond every space, no translation, a page that refuses
every access, one that refuses writes, one that allows them; and for vectors the last place of a bank and the one after it. -/
theorem witness_accessPlaces :
    let s := bank (mapped base 0 true) 31 fun b => { b with owner := none }
    let r := mapped base 0 false
    let k := mapped base 4 true
    ((0x1EFFFF : Nat) < 2 ^ 21 ∧ (s.core s.focus).usable 0 (0x1EFFFF / 65536) = true) ∧ ((0x1FFFFF : Nat) < 2 ^ 21 ∧ (s.core s.focus).usable 0 (0x1FFFFF / 65536) = false)
    ∧ (2 ^ 52 : Nat) ≤ 2 ^ 52 ∧ ((2 ^ 21 : Nat) ≤ 2 ^ 21 ∧ (2 ^ 21 : Nat) < 2 ^ 52 - 2 ^ 30 ∧ (s.ctx s.focus 0).inflight = [] ∧ translate s 0 (2 ^ 21) = none)
    ∧ (∃ l, translate s 0 (2 ^ 30) = some l ∧ (l.skim = false ∧ l.step = false ∧ l.wr = true ∧ l.pa < 2 ^ 46) ∧ (joined s).diesJoined 0 (homeDie l.pa) = true)
    ∧ translate r 0 (2 ^ 30) = some ⟨0x200000, 0, false, 2 ^ 21⟩ ∧ (∃ l, translate k 0 (2 ^ 30) = some l ∧ l.skim = true)
    ∧ ((65024 : Nat) % 64 = 0 ∧ 65024 % 65536 ≤ 65024) ∧ ((65088 : Nat) % 64 = 0 ∧ 65088 % 65536 > 65024) ∧ (32 : Nat) % 64 ≠ 0
    ∧ (0x1FFE00 % 65536 ≤ 65024 ∧ (s.core s.focus).usable 0 (0x1FFE00 / 65536) = false) := by
  refine ⟨by decide +kernel, by decide +kernel, by decide, by decide +kernel, ⟨⟨0x200000, 0, true, 2 ^ 21⟩, by decide +kernel, by decide +kernel, joined_dies _ _⟩, by decide +kernel,
    ⟨⟨0x200000, 4, true, 2 ^ 21⟩, by decide +kernel⟩, ?_⟩
  decide +kernel
theorem witness_registerWrites : (31 : Fin 32) ≠ 0 ∧ (7 : Fin 8) ≠ 0 := by decide
/-- A page of another module at 1 GiB, every link UP, and a bundle of another context that holds 700 of the core's requests. -/
def crowded : State :=
  (joined (mappedAt (sets base [(7, 0x40000000)]) (2 ^ 46 + 0x200000) 0 true)).modCtx 0 1 fun x => { x with
    inflight := [{ bid := 0, addr := 0, next := 0, snap := Regs.reset, eff := [.globalStore 6 [] [] 0 0 700], conds := [], fault := none, takes := [] }] }
/-- A vector load or store from bank 0 and from another core, a busy landing slot, a misplaced vector, and a gather with too few requests free. -/
theorem witness_vectorLoadsStores :
    let s := sets base [(2, 0x1FE00), (3, 0xFFFFFC0200000), (4, 0x20)]
    let b := ctx s fun x => { x with pend := [{ due := 9, bid := 0, slot := .d, kind := .marker, ln := some 5, arrive := none, fault := none }] }
    let v := s.slotView 0
    (MayIssue s 0 ∧ isWorker s.focus = true)
    ∧ (∃ l, v.vectorPlaces true false 0x1FE00 512 (v.vectorParts v.clusters 0x1FE00) = .ok l ∧ decide (v.slotBusy 5 = false ∧ v.requestsFor l = 0) = true)
    ∧ (∃ l, v.vectorPlaces false false 0xFFFFFC0200000 512 (v.vectorParts v.clusters 0xFFFFFC0200000) = .ok l
        ∧ decide (v.slotBusy 5 = false ∧ v.requestsFor l = 0 ∧ anyFar l = true) = true)
    ∧ (∃ t, v.vectorPlaces true true 0x20 512 (v.vectorParts v.storeClusters 0x20) = .error t) ∧ (MayIssue b 0 ∧ (b.slotView 0).slotBusy 5 = true)
    ∧ (∃ l, v.lanePlaces true v.storeClusters 3 6 = .ok l ∧ decide (lanesFor l = 0) = true)
    ∧ (MayIssue crowded 0 ∧ ∃ l, (crowded.slotView 0).lanePlaces false (crowded.slotView 0).clusters 7 6 = .ok l
        ∧ decide (0 < lanesFor l ∧ 768 < crowded.requestsOut crowded.focus + lanesFor l) = true) :=
  ⟨⟨mayIssue_of (by decide +kernel), base_worker⟩, ok_of _ _ (by decide +kernel), ok_of _ _ (by decide +kernel), error_of _ (by decide +kernel),
    ⟨mayIssue_of (by decide +kernel), by decide +kernel⟩, ok_of _ _ (by decide +kernel), mayIssue_of (by decide +kernel), ok_of _ _ (by decide +kernel)⟩

/-- The hawks of the context. -/
def hawk (s : State) (y : Hawk) : State := ctx s fun x => { x with hawks := x.hawks.set (1 : Fin 16) y }
/-- R148 to R151: HSET at the end of the scratchpad, a full ring's wrap, and an advance past what is filled. -/
theorem test_hawks :
    let s := sets base [(2, 0x1FFC00), (3, 0x1FFE00)]
    let full := hawk s ⟨0, 4, 3, 3, 4⟩
    (match exec (.hset 2 1 1) s with | .next t => decide ((t.ctx 0 0).hawks[(1 : Fin 16)] = ⟨0x1FFC00, 2, 0, 0, 0⟩) | _ => false) = true
    ∧ trapped (.hset 3 1 1) s = (5, 6, 0x1FFE00) ∧ (match exec (.hadvr 1 1) full with | .next t => decide ((t.ctx 0 0).hawks[(1 : Fin 16)] = ⟨0, 4, 1, 3, 2⟩) | _ => false) = true
    ∧ statusAfter (.hadvw 1 0) full = some .blocked ∧ trapped (.hpop 4 1 4) full = (1, 6, 0x803) := by decide +kernel
theorem witness_hawksAndPrefetches :
    let s := sets (hawk base ⟨0, 4, 3, 1, 2⟩) [(2, 0x1FFE00), (3, 0x100)]
    let v := s.slotView 0
    (MayIssue s 0 ∧ isWorker s.focus = true) ∧ s.retiresAtOnce 0 {} = true ∧ ((s.xr 0 2).toNat % 512 = 0 ∧ (s.xr 0 2).toNat + 512 * 2 ^ 0 ≤ 2 ^ 21 ∧ v.ringHole (s.xr 0 2).toNat (2 ^ 0) = none)
    ∧ ((bank s 31 fun b => { b with owner := none }).slotView 0).ringHole (s.xr 0 2).toNat (2 ^ 0) = some 0x1FFE00
    ∧ (s.xr 0 3).toNat % 512 ≠ 0 ∧ 2 ^ 21 < (s.xr 0 2).toNat + 512 * 2 ^ 1
    ∧ (1 < ((s.ctx s.focus 0).hawk 1).filled ∧ ((s.ctx s.focus 0).hawk 1).filled ≤ ((s.ctx s.focus 0).hawk 1).cap) ∧ 1 < ((s.ctx s.focus 0).hawk 1).cap - ((s.ctx s.focus 0).hawk 1).filled
    ∧ ((s.ctx s.focus 0).hawk 1).cap ≤ 4 ∧ (2 < ((s.ctx s.focus 0).hawk 1).cap ∧ ((s.ctx s.focus 0).hawk 1).filled ≤ 2) ∧ ((s.ctx s.focus 0).hawk 1).cap - ((s.ctx s.focus 0).hawk 1).filled ≤ 2
    ∧ (∃ l, v.loadPlaces true (0 + (3 + 1) % 4 * 512) = .ok l ∧ true = true) ∧ (∃ l, v.storePlaces true (0 + (1 + 1) % 4 * 512) = .ok l ∧ true = true)
    ∧ ((regs s fun r => { r with memdef := 16 }).slotView 0).vectorMods.policy = 2 := by
  and_intros <;> first | decide +kernel | exact mayIssue_of (by decide +kernel) | exact ok_of _ (fun _ => true) (by decide +kernel)
theorem witness_issueWritesNoMemory : slotOf (.stsD 1 2 0) = some .b ∧ (.b : Slot) ≠ .e ∧ base.trace.size = 0 ∧ ∃ t, exec (.stsD 1 2 0) base = .next t :=
  ⟨by decide, by decide, by decide +kernel, next_of _ (by decide +kernel)⟩
/-- Nothing of the context is under way and no bank holds an item: no word gets new contents. -/
theorem renewed_nowhere {s : State} {c : Nat} (hq : ∀ b : Fin 32, ((s.core s.focus).banks[b]).queue = []) (hi : (s.ctx s.focus c).inflight = []) (x : Nat) :
    (s.slotView c).renewed x = false := by
  have hq' : ((s.slotView c).s.bank (s.slotView c).k (x / 65536)).queue = [] := hq _
  have hi' : (s.slotView c).ctx.inflight = [] := hi
  simp only [View.renewed, hq', hi', List.any_nil, Bool.or_self]

/-! ### Control slot (spec/05, 11, 12) -/

/-- A kernel of four lines that claims every bank, with a T level of trip count 4, a C level, and a T level of trip count 0. -/
def looping : State :=
  let kn : Kernel := { oneLineKernel 0 with code := List.replicate 4 (BitVec.ofNat 256 (bundleOfSlot .c 0)), claim := 2 ^ 32 - 1 }
  ctx { base with kernels := AMap.set base.kernels 1 kn } fun x => { x with task := some { handTask 1 with kinds := [.t, .c, .t], counts := [4, 2, 0], idx := [0, 1, 0] } }
/-- A guard that is false. -/
def off0 : Guard := ⟨0, true⟩

/-- R84, R221: a taken branch, CALL's link, a target past the kernel, and a BRX to an address that is no line. -/
theorem test_transfers :
    let s := sets looping [(3, 0x40), (4, 0x41)]
    pcAfter (.br all0 3) s = 96 ∧ results (.call all0 2) s = [(1, 31, 32)] ∧ trapped (.br all0 4) s = (1, 1, 0x103) ∧ trapped (.brx all0 4) s = (1, 1, 0x203) ∧ pcAfter (.brx all0 3) s = 64
    ∧ pcAfter (.br off0 3) s = 32 ∧ trapped (.call all0 0x3FFFF) s = (1, 1, 0x303) := by decide +kernel
/-- R222: LOOP at a T level of trip count 4 and of 0, at a C level, and LBRK. -/
theorem test_loops :
    let s := regs looping fun r => { r with lc := r.lc.set (0 : Fin 6) 9 }
    (match exec (.loop all0 0 2) s with | .next t => decide ((t.ctx 0 0).regs.loops[(0 : Fin 6)] = ⟨true, 1, 2⟩ ∧ (t.ctx 0 0).regs.lc[(0 : Fin 6)] = 3 ∧ (t.ctx 0 0).regs.li[(0 : Fin 6)] = 0) | _ => false) = true
    ∧ pcAfter (.loop all0 2 2) s = 96 ∧ trapped (.loop all0 1 2) s = (1, 1, 0x503) ∧ trapped (.loop all0 0 0) s = (1, 1, 0x503) ∧ pcAfter (.lbrk all0 0 3) s = 96 := by decide +kernel
/-- R81, R222: the end of a body with iterations left, and with none. -/
theorem test_loop_end :
    let r := { Regs.reset with loops := Regs.reset.loops.set (0 : Fin 6) ⟨true, 1, 2⟩, lc := Regs.reset.lc.set (0 : Fin 6) 1 }
    (advance r 64 96).pc = 32 ∧ (advance r 64 96).lc[(0 : Fin 6)] = 0 ∧ (advance r 64 96).li[(0 : Fin 6)] = 1 ∧ (advance { r with lc := Regs.reset.lc } 64 96).pc = 96
    ∧ (advance { r with lc := Regs.reset.lc } 64 96).loops[(0 : Fin 6)].active = false ∧ (advance r 64 65).pc = 65 := by decide +kernel
/-- R222: two levels end at one line; the inner one has no iteration left and the outer one goes on. -/
theorem test_nested_loop_end :
    let r := { Regs.reset with loops := (Regs.reset.loops.set (0 : Fin 6) ⟨true, 1, 2⟩).set (1 : Fin 6) ⟨true, 2, 2⟩, lc := Regs.reset.lc.set (0 : Fin 6) 5 }
    (advance r 64 96).pc = 32 ∧ (advance r 64 96).lc[(0 : Fin 6)] = 4 ∧ (advance r 64 96).loops[(1 : Fin 6)].active = false ∧ (advance r 64 96).loops[(0 : Fin 6)].active = true := by
  decide +kernel

/-- A control core whose context 0 issues. -/
def control : State :=
  let c := (base.core 0).modCtx 0 fun x => { x with priv := true, regs := { x.regs with x := x.regs.x.set (3 : Fin 32) 7 } }
  { base with cores := [(96, c)], focus := 96 }
/-- A step issues a line that holds a D-slot operation with a MODP of alias class 2. -/
def modified (i : Instr) : State :=
  let line := BitVec.ofNat 256 (modpLine i (.modp 0 0 1 2))
  ctx { base with kernels := AMap.set base.kernels 1 { oneLineKernel 0 with code := [line] }, agenda := [.bundleIssue 0] } fun x => { x with task := some (handTask 1) }
/-- R90, R95: a MODP by itself; R140: a load with MODP issues, and its pending result carries MODP's alias class. -/
theorem test_modp :
    trapped (.modp 0 0 1 2) base = (1, 7, 0x108)
    ∧ (match step (modified (.vldS 5 2 0)) with
      | .next t => (t.ctx 0 0).pend.map fun p => match p.kind with | .load _ (q :: _) => q.ac | _ => 0
      | _ => []) = [2] := by decide +kernel
/-- What the step of a line with MODP asks of a state, with the operation's checks made under MODP's fields. -/
def modpReady (s : State) (i : Instr) (trap : Option (Nat × Nat)) (blocks : Bool) : Prop :=
  let v : View := { (({ s with agenda := [] } : State).setCore 0 (s.core 0)).slotView 0 with modp := some ⟨0, 0, 1, 2⟩ }
  MayIssue s 0 ∧ isWorker s.focus = true ∧ coreExists s.focus = true ∧ s.agenda = [.bundleIssue s.focus] ∧ (s.core s.focus).breaksAt (s.regsOf 0).pc = false
    ∧ (s.ctx s.focus 0).task = some (handTask 1) ∧ (s.regsOf 0).pc % 32 = 0 ∧ i.wf = true ∧ slotOf i = some .d ∧ isDMemory (encode i) = true
    ∧ (Instr.modp 0 0 1 2).wf = true ∧ s.fetchLine (handTask 1) (s.regsOf 0).pc = some (modpLine i (.modp 0 0 1 2))
    ∧ ((slotSpec i).trap v).map (fun t => (t.cause, t.rank)) = trap ∧ (slotSpec i).block v = blocks
/-- A vector load that issues, one at a misplaced address, and one whose landing slot is busy. -/
theorem witness_modp :
    modpReady (modified (.vldS 5 2 0)) (.vldS 5 2 0) none false
    ∧ modpReady (sets (modified (.vldS 5 2 0)) [(2, 0x20)]) (.vldS 5 2 0) (some (5, 5)) false
    ∧ modpReady (ctx (modified (.vldG 5 2 7 9)) fun x => { x with pend := [{ due := 9, bid := 0, slot := .d, kind := .marker, ln := some 7, arrive := none, fault := none }] })
        (.vldG 5 2 7 9) none true := by
  and_intros <;> first | decide +kernel | exact mayIssue_of (by decide +kernel)
theorem witness_noOperations :
    (MayIssue base 0 ∧ (base.slotView 0).on all0 = true ∧ (base.slotView 0).on off0 = false)
    ∧ (MayIssue control 0 ∧ isWorker control.focus = false ∧ slotOf (.vadd g3 0 1 2 3 0 false) = some .v
        ∧ scalarSubset .v (Slot.v.opcode (encode (.vadd g3 0 1 2 3 0 false))) = false) :=
  ⟨⟨base_mayIssue, by decide +kernel⟩, mayIssue_of (by decide +kernel), by decide +kernel⟩
/-- R15: a vector addition is a reserved opcode on a control core, a no-operation is not. -/
theorem test_control_core_subset :
    (match exec (.vadd g3 0 1 2 3 0 false) control with | .next t => decide ((t.ctx 96 0).regs.trapcause = 1) | _ => false) = true
    ∧ (match exec .vnop control with | .next t => decide ((t.ctx 96 0).regs.trapcause = 0 ∧ (t.ctx 96 0).regs.pc = 32) | _ => false) = true := by decide +kernel
theorem witness_falsePredicate : MayIssue base 0 ∧ (base.regsOf 0).rp off0.p = off0.neg ∧ ((base.slotView 0).csrRead 0x000).isSome = true ∧ (base.slotView 0).csrRead 0x009 = none ∧ (0x060 : BitVec 10) ≠ 1
    ∧ 1 ≤ (1 : BitVec 15).toInt ∧ (0 : BitVec 15).toInt < 1 :=
  ⟨base_mayIssue, by decide +kernel⟩
/-- The last line of the kernel, the line after it, and addresses of each kind. -/
theorem witness_controlTransfer :
    let s := sets looping [(3, 0x60), (4, 0x80), (5, 0x41), (31, 0x60)]
    MayIssue s 0 ∧ (s.regsOf 0).rp all0.p ≠ all0.neg ∧ (s.slotView 0).nlines = 4 ∧ (s.regsOf 0).pc = 0 ∧ ((3 : BitVec 18).toInt = 3 ∧ (4 : BitVec 18).toInt = 4)
    ∧ ((s.xr 0 3).toNat % 32 = 0 ∧ (s.xr 0 3).toNat / 32 = 3) ∧ ((s.xr 0 4).toNat % 32 = 0 ∧ (s.xr 0 4).toNat / 32 = 4) ∧ (s.xr 0 5).toNat % 32 ≠ 0 ∧ (s.xr 0 31).toNat % 32 = 0 :=
  ⟨mayIssue_of (by decide +kernel), by decide +kernel⟩
/-- LOOP: the last line of the kernel with iterations and none, and the ways to be illegal; the move past a bundle: within a line, with no level, and at a body's end. -/
theorem witness_hardwareLoops :
    let v := looping.slotView 0
    let r : Regs := { Regs.reset with loops := Regs.reset.loops.set (3 : Fin 6) ⟨true, 1, 2⟩, lc := Regs.reset.lc.set (3 : Fin 6) 1 }
    let two : Regs := { r with loops := r.loops.set (4 : Fin 6) ⟨true, 2, 2⟩ }
    let ends (r : Regs) (j : Fin 6) : Bool := (r.loops[j]).active && decide ((r.loops[j]).last = 64 / 32)
    MayIssue looping 0 ∧ (looping.regsOf 0).rp all0.p ≠ all0.neg ∧ (v.levelT 0 = true ∧ v.tripCount 0 ≠ 0 ∧ v.nlines = 4 ∧ (3 : BitVec 15).toInt = 3)
    ∧ (v.levelT 2 = true ∧ v.tripCount 2 = 0 ∧ (2 : BitVec 15).toInt + 1 < v.nlines) ∧ v.levelT 1 = false ∧ (0 : BitVec 15).toInt < 1 ∧ (0x4000 : BitVec 15).toInt < 0
    ∧ ((65 : Nat) / 32 = 64 / 32 ∧ (96 : Nat) / 32 ≠ 64 / 32 ∧ (r.loops[(3 : Fin 6)].active = true ∧ r.loops[(3 : Fin 6)].last = 64 / 32) ∧ r.lc[(3 : Fin 6)] ≠ 0)
    ∧ (∀ j, 3 < j → ends r j = false) ∧ (∀ j, ends Regs.reset j = false)
    ∧ (ends two 3 = true ∧ two.lc[(3 : Fin 6)] ≠ 0 ∧ ends two 4 = true ∧ ∀ j : Fin 6, 3 < j → ends two j = true → two.lc[j] = 0) :=
  ⟨mayIssue_of (by decide +kernel), by decide +kernel⟩

/-- R206: SLEEP with no class armed, ARMH, RETT outside a handler, TRAP without and with a handler; R207: END. -/
theorem test_context_instructions :
    let armed := regs base fun r => { r with harm := r.harm.set (7 : Fin 8) 0x21 }
    let h := regs base fun r => { r with trapvec := 0x121 }
    trapped (.sleep all0) base = (1, 1, 0x1303) ∧ statusAfter (.sleep all0) armed = some .dormant ∧ trapped (.rett all0) base = (1, 1, 0x1703)
    ∧ trapped (.trap all0 7) h = (3, 1, 7) ∧ pcAfter (.trap all0 7) h = 0x120 ∧ statusAfter (.trap all0 7) base = some .trapped ∧ statusAfter (.endTask all0) base = some .blocked
    ∧ trapped (.armh all0 3 0) (sets base [(3, 0x21)]) = (1, 1, 0x1403) ∧ trapped (.frame all0 3 0) base = (11, 0, 0xFF) := by decide +kernel
/-- R198: what trap entry saves. -/
theorem test_trap_entry :
    (match exec (.trap all0 7) (regs base fun r => { r with trapvec := 0x121 }) with
      | .next t => let r := (t.ctx 0 0).regs; decide (r.trappc = 0 ∧ r.trapnpc = 32 ∧ r.hnd = true ∧ (t.ctx 0 0).status = .running ∧ 4 ≤ (t.ctx 0 0).issueAt)
      | _ => false) = true := by decide +kernel

theorem witness_contextInstructions :
    let armed := regs base fun r => { r with harm := r.harm.set (7 : Fin 8) 1 }
    let h := regs base fun r => { r with hnd := true, trappc := 0x40 }
    let d := regs base fun r => { r with detmode := true }
    let s := sets base [(3, 32), (4, 31), (5, 1)]
    (MayIssue armed 0 ∧ (∃ j : Fin 8, ((armed.regsOf 0).harm[j]).getLsbD 0 = true) ∧ armed.retiresAtOnce 0 {} = true ∧ ∀ b : Fin 32, ((armed.core armed.focus).banks[b]).fifo = [])
    ∧ (MayIssue s 0 ∧ (s.regsOf 0).rp all0.p ≠ all0.neg ∧ (∀ j : Fin 8, ((s.regsOf 0).harm[j]).getLsbD 0 = false) ∧ (s.xr 0 3).toNat % 32 = 0 ∧ (s.xr 0 4).toNat % 32 ≠ 0 ∧ s.sfc < (s.xr 0 5).toNat
        ∧ (s.xr 0 0).toNat ≤ s.sfc ∧ (s.regsOf 0).hnd = false)
    ∧ (MayIssue h 0 ∧ (h.regsOf 0).hnd = true) ∧ (MayIssue d 0 ∧ (d.regsOf 0).detmode = true)
    ∧ (base.retiresAtOnce 0 {} = true ∧ d.retiresAtOnce 0 {} = true ∧ (base.regsOf 0).detmode = false ∧ (base.ctx base.focus 0).status = .running ∧ ∀ j : Fin 4, j ≠ ctxNo 0 → ((base.core base.focus).ctxs[j]).status ≠ .ready) := by
  refine ⟨⟨mayIssue_of ?_, ?_⟩, ⟨mayIssue_of ?_, ?_⟩, ⟨mayIssue_of ?_, ?_⟩, ⟨mayIssue_of ?_, ?_⟩, ?_⟩ <;> decide +kernel
/-- A context with a handler, one without, and one with an earlier bundle in flight. -/
def waiting : Issued := { bid := 0, addr := 0, next := 32, snap := Regs.reset, eff := [], conds := [.cycle 9], fault := none, takes := [] }
theorem witness_trapEntry :
    let h := regs base fun r => { r with trapvec := 0x121 }
    let w := ctx base fun x => { x with inflight := [waiting] }
    ((h.ctx h.focus 0).inflight = [] ∧ (h.ctx h.focus 0).status ≠ .trapped ∧ ((h.regsOf 0).trapvec.getLsbD 0 = true ∧ (h.regsOf 0).hnd = false ∧ causeSoft ≠ causeVote ∧ causeSoft ≠ causeLockstep))
    ∧ (base.regsOf 0).trapvec.getLsbD 0 = false ∧ (w.ctx w.focus 0).inflight ≠ [] := by decide +kernel
theorem witness_trapsAndBreaks :
    let a := core base fun k => { k with armed := true }
    (MayIssue base 0 ∧ (base.regsOf 0).rp all0.p ≠ all0.neg ∧ (base.core base.focus).armed = false) ∧ (MayIssue a 0 ∧ (a.core a.focus).armed = true) := by
  refine ⟨⟨mayIssue_of ?_, ?_⟩, ⟨mayIssue_of ?_, ?_⟩⟩ <;> decide +kernel

/-- R208, R209: CTXID, the reset values of CLM and FRAMELEN, an unimplemented number, and a PRIV trap. -/
theorem test_control_registers :
    results (.csrr all0 0x000 5) base = [(1, 5, 0)] ∧ results (.csrr all0 0x011 5) base = [(1, 5, 0xFF)] ∧ results (.csrr all0 0x013 5) base = [(1, 5, 255)]
    ∧ results (.csrr all0 0x040 5) base = [(1, 5, 4)] ∧ trapped (.csrr all0 0x009 5) base = (1, 1, 0x1809) ∧ trapped (.csrwMslot all0 2 0) base = (2, 1, 0x042) ∧ trapped (.csrw all0 0x060 0) base = (1, 1, 0x1909)
    ∧ (match exec (.csrwMslot all0 2 3) (sets (ctx base fun x => { x with priv := true }) [(3, 7)]) with | .next t => decide ((t.core 0).mslot[(2 : Fin 16)] = 7) | _ => false) = true := by decide +kernel

theorem witness_controlRegisters :
    let l := ctx base fun x => { x with lockstep := true }
    let s := sets looping [(3, 0x7FFFFFFFFFE1), (4, 0xFF), (5, 0x383), (6, 0xFFFFFFFFFFFF)]
    (MayIssue s 0 ∧ (s.regsOf 0).rp all0.p ≠ all0.neg ∧ (s.ctx s.focus 0).lockstep = false ∧ (s.ctx s.focus 0).inflight = [])
    ∧ (l.ctx l.focus 0).lockstep = true ∧ (∃ t, (s.ctx s.focus 0).task = some t ∧ (t.started = true ∧ s.sfc ≥ (s.regsOf 0).origin.toNat ∧ (s.regsOf 0).framelen ≠ 0))
    ∧ s.focus % 128 < 96 ∧ (96 : Nat) ≤ 96 % 128 ∧ bits (s.xr 0 3).toNat 4 1 = 0 ∧ ((s.xr 0 5).toNat < 2 ^ 11 ∧ bits (s.xr 0 5).toNat 10 8 < 4 ∧ bits (s.xr 0 5).toNat 7 5 < 5)
    ∧ (s.xr 0 4).toNat < 2 ^ 8 ∧ (s.xr 0 6).toNat < 2 ^ 48 ∧ (s.slotView 0).levelT 0 = true :=
  ⟨⟨mayIssue_of (by decide +kernel), by decide +kernel⟩, by decide +kernel, ⟨_, rfl, by decide +kernel⟩, by decide +kernel⟩
/-- R175, R208: MCYIDLE is the cycles that no counter counts. -/
theorem test_idle_counter :
    results (.csrr all0 0x066 5) (core { base with clocks := 100 } fun k => { k with mcyc := #v[1, 2, 3, 4] }) = [(1, 5, 90)] := by decide +kernel
theorem witness_privilegedRegisters :
    let p := sets (ctx base fun x => { x with priv := true }) [(3, 7), (4, 1), (5, 8), (6, 2), (7, 0x100000000), (8, 0x800), (9, 0x100), (10, 0x400), (11, 0xA0)]
    (MayIssue p 0 ∧ (p.ctx p.focus 0).priv = true ∧ p.retiresAtOnce 0 {} = true ∧ (p.xr 0 3).toNat < 8 ∧ (p.xr 0 4).toNat < 2 ∧ 8 ≤ (p.xr 0 5).toNat ∧ 2 ≤ (p.xr 0 6).toNat ∧ 2 ^ 32 ≤ (p.xr 0 7).toNat
        ∧ 2 ^ 11 ≤ (p.xr 0 8).toNat ∧ 2 ^ 8 ≤ (p.xr 0 9).toNat ∧ 4 ≤ bits (p.xr 0 10).toNat 10 8 ∧ 5 ≤ bits (p.xr 0 11).toNat 7 5 ∧ ¬ 96 ≤ p.focus % 128)
    ∧ (MayIssue base 0 ∧ (base.ctx base.focus 0).priv = false ∧ (base.xr 0 0).toNat < 2) ∧ (MayIssue control 0 ∧ 96 ≤ control.focus % 128 ∧ (control.ctx control.focus 0).priv = true ∧ control.retiresAtOnce 0 {} = true ∧ (control.xr 0 3).toNat < 2 ^ 32) := by
  refine ⟨⟨mayIssue_of ?_, ?_⟩, ⟨mayIssue_of ?_, ?_⟩, ⟨mayIssue_of ?_, ?_⟩⟩ <;> decide +kernel

/-! ### Synchronisation (spec/15, 12, 10, 13) -/

/-- R249, R250: WAITS takes what it needs or blocks; SIGS saturates at 255. -/
theorem test_semaphores :
    let s := ctx base fun x => { x with sm := (x.sm.set (1 : Fin 16) 3).set (2 : Fin 16) 254 }
    (match exec (.waits all0 1 2) s with | .next t => decide ((t.ctx 0 0).sm[(1 : Fin 16)] = 0) | _ => false) = true ∧ statusAfter (.waits all0 1 3) s = some .blocked
    ∧ (match exec (.sigs all0 2 7) s with | .next t => decide ((t.ctx 0 0).sm[(2 : Fin 16)] = 255) | _ => false) = true := by decide +kernel
theorem witness_semaphores :
    let s := ctx base fun x => { x with sm := x.sm.set (1 : Fin 16) 8 }
    let w := ctx base fun x => { x with inflight := [{ waiting with conds := [], eff := [.sem 1 8] }] }
    let r := ctx base fun x => { x with raised := [(2, 255)] }
    (MayIssue s 0 ∧ (s.regsOf 0).rp all0.p ≠ all0.neg ∧ s.retiresAtOnce 0 {} = true ∧ (7 : Fin 8).val + 1 ≤ ((s.ctx s.focus 0).sm[(1 : Fin 16)]).toNat ∧ ((s.ctx s.focus 0).sm[(2 : Fin 16)]).toNat < (0 : Fin 8).val + 1)
    ∧ (coreExists 0 = true ∧ (w.ctx 0 0).inflight = [{ waiting with conds := [], eff := [.sem 1 8] }] ∧ (w.ctx 0 0).held = []) ∧ ((r.ctx 0 0).raised = [(2, 255)] ∧ (r.ctx 0 0).status ≠ .saved) :=
  ⟨⟨mayIssue_of (by decide +kernel), by decide +kernel⟩, by decide +kernel⟩

/-- R242: the arrival that completes a phase flips it and clears the count, one before it counts. -/
theorem test_arrival_word : arriveWord (2 ^ 32 * 3 + 2) = (2 ^ 63 + 2 ^ 32 * 3, false) ∧ arriveWord (2 ^ 32 * 3 + 1) = (2 ^ 32 * 3 + 2, false) := by decide +kernel
/-- A context with entry 1 bound, without and with W, before and after the flip of its phase; and an entry that no claim lets bind. -/
theorem witness_barriers :
    let b := regs looping fun r => { r with barAddr := r.barAddr.set (1 : Fin 16) (some 0x100) }
    let w := ctx b fun x => { x with bars := x.bars.set (1 : Fin 16) ⟨true, some false, 0⟩ }
    let f := ctx b fun x => { x with bars := x.bars.set (1 : Fin 16) ⟨true, some true, 0⟩ }
    (MayIssue b 0 ∧ (b.regsOf 0).rp all0.p ≠ all0.neg ∧ (b.slotView 0).bind 1 1 = .ok 0x100 ∧ ((b.ctx b.focus 0).bars[(1 : Fin 16)]).w = false ∧ (b.regsOf 0).barAddr[(1 : Fin 16)] = some 0x100)
    ∧ (MayIssue w 0 ∧ ((w.ctx w.focus 0).bars[(1 : Fin 16)]).w = true ∧ w.poisoned ((w.slotView 0).barVar 0x100) 8 = false ∧ (w.slotView 0).phaseFlipped 1 0x100 = false
        ∧ ({ w with poison := [spadAddr 0 0x100] }).poisoned ((w.slotView 0).barVar 0x100) 8 = true)
    ∧ (MayIssue f 0 ∧ ((f.ctx f.focus 0).bars[(1 : Fin 16)]).w = true ∧ f.poisoned ((f.slotView 0).barVar 0x100) 8 = false ∧ (f.slotView 0).phaseFlipped 1 0x100 = true) ∧ (∃ t, (base.slotView 0).bind 1 1 = .error t)
    ∧ bits (2 ^ 32 * 3 + 1) 31 0 + 1 < bits (2 ^ 32 * 3 + 1) 62 32 ∧ bits (2 ^ 32 * 3 + 2) 62 32 ≤ bits (2 ^ 32 * 3 + 2) 31 0 + 1 := by
  refine ⟨⟨mayIssue_of (by decide +kernel), by decide +kernel⟩, ⟨mayIssue_of (by decide +kernel), by decide +kernel⟩, ⟨mayIssue_of (by decide +kernel), by decide +kernel⟩,
    error_of _ (by decide +kernel), by decide +kernel⟩
/-- R252: the variable of an ACQ at the scratchpad's end, and misplaced ones. -/
theorem test_sync_variable :
    let s := sets base [(3, 0x1FFFFC), (4, 0x10000000000000)]
    trapped (.acq all0 3 0) s = (5, 1, 0x1FFFFC) ∧ trapped (.rel all0 4 0) s = (7, 1, 0x10000000000000) ∧ (base.slotView 0).syncVar 0x1FFFF8 = .ok (spadAddr 0 0x1FFFF8) := by decide +kernel
theorem witness_fencesAcquireRelease :
    let s := sets base [(3, 0x1FFFF8), (4, 0x1FFFFC), (5, 0x10000000000000)]
    MayIssue s 0 ∧ (s.regsOf 0).rp all0.p ≠ all0.neg ∧ (s.slotView 0).syncVar (s.xr 0 3).toNat = .ok (spadAddr 0 0x1FFFF8) ∧ ((s.xr 0 3).toNat % 8 = 0 ∧ (s.xr 0 3).toNat < 2 ^ 21)
    ∧ (s.xr 0 4).toNat % 8 ≠ 0 ∧ (2 ^ 52 ≤ (s.xr 0 5).toNat ∧ (s.xr 0 5).toNat % 8 = 0) ∧ ∃ t, (s.slotView 0).syncVar (s.xr 0 5).toNat = .error t := by
  and_intros <;> first | decide +kernel | exact mayIssue_of (by decide +kernel) | exact error_of _ (by decide +kernel)

/-- R218: a mask that is owned, one not yet owned, one beyond the claim; R223: a range past entry 511. -/
theorem test_banks_and_stencils :
    let s := sets (bank looping 5 fun b => { b with owner := none }) [(3, 0x1), (4, 0x20), (5, 0x100000000), (6, 511), (7, 510 + 2 * 65536)]
    pcAfter (.bankacq all0 3) s = 32 ∧ statusAfter (.bankacq all0 4) s = some .blocked ∧ trapped (.bankacq all0 5) s = (1, 1, 0xF03) ∧ pcAfter (.stenld all0 6 0) s = 32
    ∧ trapped (.stenld all0 7 0) s = (1, 1, 0x1A03) ∧ trapped (.stenld all0 6 3) s = (5, 1, 1)
    ∧ (match exec (.bankrel all0 3) s with | .next t => decide ((t.core 0).banks[(0 : Fin 32)].releasing = true ∧ (t.core 0).banks[(1 : Fin 32)].releasing = false) | _ => false) = true := by decide +kernel
theorem witness_banksAndStencils :
    let s := sets (bank looping 31 fun b => { b with owner := none }) [(3, 0x7FFFFFFF), (4, 0x80000000), (5, 0x100000000), (6, 510 + 1 * 65536), (7, 510 + 2 * 65536), (8, 0x20), (9, 0x21), (10, 0x1F0000), (11, 0x1FFFE0)]
    let v := s.slotView 0
    let q := { s with poison := [spadAddr 0 0x48] }
    MayIssue s 0 ∧ (s.regsOf 0).rp all0.p ≠ all0.neg ∧ s.retiresAtOnce 0 {} = true ∧ ((s.xr 0 3).toNat < 2 ^ 32 ∧ (s.xr 0 3).toNat &&& v.claim = (s.xr 0 3).toNat ∧ ∀ b : Fin 32, bitAt (s.xr 0 3).toNat b.val = true → (s.core s.focus).owns 0 b.val = true)
    ∧ ((s.xr 0 4).toNat < 2 ^ 32 ∧ (s.xr 0 4).toNat &&& v.claim = (s.xr 0 4).toNat ∧ bitAt (s.xr 0 4).toNat 31 = true ∧ (s.core s.focus).owns 0 31 = false) ∧ ¬ (s.xr 0 5).toNat < 2 ^ 32
    ∧ (bits (s.xr 0 6).toNat 8 0 + (bits (s.xr 0 6).toNat 24 16 + 1) = 512 ∧ bits (s.xr 0 6).toNat 15 9 = 0 ∧ bits (s.xr 0 6).toNat 63 25 = 0) ∧ ¬ bits (s.xr 0 7).toNat 8 0 + (bits (s.xr 0 7).toNat 24 16 + 1) ≤ 512
    ∧ ((s.xr 0 8).toNat % 32 = 0 ∧ (s.xr 0 8).toNat + 64 ≤ 2 ^ 21 ∧ v.unusable (s.xr 0 8).toNat 64 = none ∧ ∀ i, i < 2 → s.poisoned (spadAddr s.focus (0x20 + 32 * i)) 32 = false)
    ∧ (q.poisoned (spadAddr q.focus (0x20 + 32 * 1)) 32 = true ∧ (∀ j, j < 1 → q.poisoned (spadAddr q.focus (0x20 + 32 * j)) 32 = false) ∧ (q.ctx q.focus 0).inflight = [] ∧ (q.ctx q.focus 0).held = []
        ∧ ∀ b : Fin 32, (q.core q.focus).banks[b].queue = [])
    ∧ ((s.xr 0 11).toNat % 32 = 0 ∧ 2 ^ 21 < (s.xr 0 11).toNat + 64) ∧ (s.xr 0 9).toNat % 32 ≠ 0 ∧ ((s.xr 0 10).toNat % 32 = 0 ∧ v.unusable (s.xr 0 10).toNat 64 = some 0x1F0000) :=
  ⟨mayIssue_of (by decide +kernel), by decide +kernel⟩

/-- R230: a misaligned descriptor, and a handle beyond 32 bits; R190: a card that has failed. -/
theorem test_calls_and_cards :
    let s := put (sets base [(3, 0x40), (4, 0x100000000), (5, 0x100)]) 0x118 (leBytes 8 (3 * 2 ^ 56))
    trapped (.launch all0 5 3) s = (5, 1, 0x40) ∧ trapped (.cancel all0 5 4) s = (1, 1, 0x1203) ∧ pcAfter (.waitc all0 4 5) s = 32 ∧ statusAfter (.waitc all0 3 0) s = some .blocked
    ∧ trapped (.waitc all0 3 3) s = (5, 1, 0x40) := by decide +kernel
theorem witness_schedulerCallsAndCardWaits :
    let s := sets (bank base 31 fun b => { b with owner := none }) [(3, 0x1EFF80), (4, 0x40), (5, 0x10000000000000), (6, 0xFFFFFFFF), (7, 0x100000000), (8, 0x1EFF00), (9, 0x1FFF00), (10, 0x200000)]
    let v := s.slotView 0
    let q := { s with poison := [spadAddr 0 0x1EFFF8] }
    let done (a : Nat) (m : Word64) : Bool :=
      decide (BitVec.ofNat 64 (leValue (s.spadIssue s.focus 0 (a + 0x20) 8)) &&& m = m ∨ (bits (leValue (s.spadIssue s.focus 0 (a + 0x18) 8)) 63 56 ≠ 0 ∧ bits (leValue (s.spadIssue s.focus 0 (a + 0x18) 8)) 63 56 ≠ 0xFF))
    let bad (o : Nat) : State := { s with poison := [spadAddr 0 (0x1EFF00 + o)] }
    (s.poisoned (spadAddr s.focus 0x1EFF18) 8 = false ∧ s.poisoned (spadAddr s.focus 0x1EFF20) 8 = false
        ∧ (bad 0x18).poisoned (spadAddr s.focus 0x1EFF18) 8 = true ∧ (bad 0x20).poisoned (spadAddr s.focus 0x1EFF18) 8 = false
        ∧ (bad 0x20).poisoned (spadAddr s.focus 0x1EFF20) 8 = true)
    ∧ MayIssue s 0 ∧ (s.regsOf 0).rp all0.p ≠ all0.neg ∧ ((s.xr 0 3).toNat % 128 = 0 ∧ v.locate 6 (s.xr 0 3).toNat false = .ok (.spad 0x1EFF80) ∧ v.poisonedAt (.spad 0x1EFF80) 128 = false ∧ (q.slotView 0).poisonedAt (.spad 0x1EFF80) 128 = true) ∧ (s.xr 0 4).toNat % 128 ≠ 0
    ∧ ((s.xr 0 5).toNat % 128 = 0 ∧ v.locate 6 (s.xr 0 5).toNat false = .error ⟨7, 6⟩) ∧ (s.xr 0 6).toNat < 2 ^ 32 ∧ 2 ^ 32 ≤ (s.xr 0 7).toNat
    ∧ ((s.xr 0 8).toNat % 256 = 0 ∧ (s.xr 0 8).toNat < 2 ^ 21 ∧ (s.core s.focus).usable 0 ((s.xr 0 8).toNat / 65536) = true ∧ done (s.xr 0 8).toNat 0 = true ∧ done (s.xr 0 8).toNat 1 = false)
    ∧ ((s.xr 0 9).toNat % 256 = 0 ∧ (s.xr 0 9).toNat < 2 ^ 21 ∧ (s.core s.focus).usable 0 ((s.xr 0 9).toNat / 65536) = false) ∧ ((s.xr 0 10).toNat % 256 = 0 ∧ 2 ^ 21 ≤ (s.xr 0 10).toNat) :=
  ⟨by decide +kernel, mayIssue_of (by decide +kernel), by decide +kernel⟩

/-! ### Matrix and scale slots (spec/09) -/

/-- The worked example of spec/09: entry 3, a 64 x 64 x 256 BF16 GEMM in add mode that signals sm5, with its registers. -/
def example3 : BitVec 256 := BitVec.ofNat 256 (0x111F00F053801500 * 2 ^ 192)
def matrix : State :=
  regs (core base fun k => { k with book := [(3, example3)] }) fun r =>
    { r with mp := ((r.mp.set (1 : Fin 8) 0x100000).set (2 : Fin 8) (BitVec.ofNat 64 (0x4000 + 0x4000 * 2 ^ 21))) }
/-- An item of context 0 in the engine queue. -/
def queued (work : MatWork) (n : Nat) : MatItem :=
  { ctx := 0, bid := n, order := n, addr := 0, work := work, eligible := true, chunk := 0, charge := Vector.replicate 4 0, notify := { core := 0, ctx := 0, sem := none, arrive := none } }
/-- The context holds all 8 entries of its queue with MZERO items of tile 9. -/
def fullQueue (s : State) : State := core s fun k => { k with mq := (List.range 8).map fun n => queued (.zero 9 1) n }

/-- R161: the worked example's MCALL queues one item; an empty entry traps; SFC 64 is another context's slot. -/
theorem test_mcall :
    (match exec (.mcall 3) matrix with
      | .next t => decide ((t.core 0).mq.map (fun i => (i.ctx, i.eligible, i.notify.sem)) = [(0, true, some 5)]) | _ => false) = true
    ∧ trapped (.mcall 4) matrix = (1, 5, 0x103) ∧ statusAfter (.mcall 3) { matrix with sfc := 64 } = some .blocked
    ∧ trapped (.mcall 3) (regs matrix fun r => { r with mp := r.mp.set (0 : Fin 8) 32 }) = (5, 5, 32) := by decide +kernel
/-- R163, R165, R167, R168: MDRAIN waits for its tile; MBOOK refuses an invalid descriptor; KSET spreads a byte. -/
theorem test_matrix_registers :
    let s := put (sets base [(3, 0x100)]) 0x100 (List.replicate 31 0 ++ [0xF0])
    statusAfter (.mdrain 1 9 0 false) (fullQueue base) = some .blocked ∧ statusAfter (.mdrain 1 8 0 false) (fullQueue base) = some .running ∧ trapped (.mbook 3 3) s = (1, 5, 0x703)
    ∧ (match exec (.kset 2 1 2) matrix with
        | .next t => (t.ctx 0 0).pend.any (fun p => (match p.kind with | .value (.ks r v) => decide (r = 2 ∧ v[(127 : Fin 128)] = 0x10) | _ => false))
        | _ => false) = true := by decide +kernel
theorem witness_matrixRegisters :
    let s := put (put (sets (bank matrix 31 fun b => { b with owner := none }) [(3, 0x1EFFE0), (4, 0x1EFFE1), (5, 0x100)]) 0x1EFFE0 (leBytes 32 example3.toNat)) 0x100 (List.replicate 31 0 ++ [0xF0])
    let s := regs s fun r => { r with mp := (r.mp.set (3 : Fin 8) 0x1EFC00).set (4 : Fin 8) 0x1F0000 }
    let k (mp j : Fin 8) : Nat := bits ((s.regsOf 0).mp[mp]).toNat 20 0 + 128 * j.val
    let desc (a : Nat) : BitVec 256 := BitVec.ofNat 256 (leValue (s.spadIssue s.focus 0 a 32))
    let q := { s with poison := [spadAddr 0 0x1EFFF8] }
    MayIssue s 0 ∧ isWorker s.focus = true ∧ (k 3 7 % 128 = 0 ∧ k 3 7 < 2 ^ 21 ∧ (s.core s.focus).usable 0 (k 3 7 / 65536) = true)
    ∧ (s.poisoned (spadAddr s.focus (k 3 7)) 128 = false ∧ q.poisoned (spadAddr q.focus (k 3 7)) 128 = true
        ∧ s.poisoned (spadAddr s.focus (s.xr 0 3).toNat) 32 = false ∧ q.poisoned (spadAddr q.focus (q.xr 0 3).toNat) 32 = true) ∧ (k 4 0 % 128 = 0 ∧ k 4 0 < 2 ^ 21 ∧ (s.core s.focus).usable 0 (k 4 0 / 65536) = false)
    ∧ (0x41 : Nat) % 128 ≠ 0 ∧ (s.core s.focus).tileBusy 0 255 = false ∧ ((fullQueue s).core s.focus).tileBusy 0 9 = true
    ∧ ((s.xr 0 3).toNat % 32 = 0 ∧ (s.core s.focus).usable 0 ((s.xr 0 3).toNat / 65536) = true ∧ descValid (desc (s.xr 0 3).toNat) = true) ∧ (s.xr 0 4).toNat % 32 ≠ 0
    ∧ ((s.xr 0 5).toNat % 32 = 0 ∧ descValid (desc (s.xr 0 5).toNat) = false) ∧ ∀ x, (q.slotView 0).renewed x = false :=
  by and_intros <;> first | exact mayIssue_of (by decide +kernel) | decide +kernel | exact renewed_nowhere (by decide +kernel) (by decide +kernel)
/-- A stepped routine of the context that waits for its first step: the worked example with STEP = 1. -/
def stepped : State :=
  let d := BitVec.ofNat 256 (example3.toNat + 2 ^ 205)
  let r : Routine := { desc := d, a := 0, b := 0x100000, str := BitVec.ofNat 64 (0x4000 + 0x4000 * 2 ^ 21), acc := 0, xa := 0, xb := 0, sa := Vector.replicate 128 0, sb := Vector.replicate 128 0 }
  core matrix fun k => { k with mq := [queued (.routine r) 0] }
theorem witness_matrixQueue :
    let v := matrix.slotView 0
    let r := v.routine (v.book 3)
    let m := regs matrix fun r => { r with mp := r.mp.set (0 : Fin 8) 32 }
    let o := { matrix with sfc := 64 }
    let lost (s : State) : State := bank s 16 fun b => { b with owner := none }
    let l := (lost matrix).slotView 0
    let k := regs matrix fun r => { r with mp := r.mp.set (1 : Fin 8) 0 }
    let g := (k.slotView 0).routine ((k.slotView 0).book 3)
    (MayIssue (lost matrix) 0 ∧ l.mcallBlocked = false ∧ (l.routine (l.book 3)).misaligned = none ∧ (l.ownFault (l.routine (l.book 3)).rows (l.routine (l.book 3)).planes).isSome = true)
    ∧ (MayIssue k 0 ∧ (k.slotView 0).mcallBlocked = false ∧ g.misaligned = none ∧ (k.slotView 0).ownFault g.rows g.planes = none ∧ g.conflict.isSome = true)
    ∧ (MayIssue (lost stepped) 0 ∧ (((lost stepped).core (lost stepped).focus).needsStep 0).isSome = true ∧ (((lost stepped).slotView 0).mfeedTrap 0).isSome = true)
    ∧ (MayIssue matrix 0 ∧ isWorker matrix.focus = true ∧ v.mcallBlocked = false ∧ matrix.poisoned (bookWord matrix.focus 3) 8 = false
        ∧ ({ matrix with poison := [bookWord 0 3] } : State).poisoned (bookWord 0 3) 8 = true ∧ v.book 3 ≠ 0 ∧ r.misaligned = none ∧ v.ownFault r.rows r.planes = none ∧ r.conflict = none ∧ v.book 4 = 0)
    ∧ (MayIssue m 0 ∧ (m.slotView 0).mcallBlocked = false ∧ ((m.slotView 0).routine ((m.slotView 0).book 3)).misaligned = some 32) ∧ (MayIssue o 0 ∧ (o.slotView 0).mcallBlocked = true)
    ∧ (MayIssue (fullQueue base) 0 ∧ 8 ≤ ((fullQueue base).core 0).matrixEntries 0) ∧ ((matrix.core matrix.focus).matrixEntries 0 < 8 ∧ (matrix.core matrix.focus).needsStep 0 = none)
    ∧ (MayIssue stepped 0 ∧ ((stepped.core stepped.focus).needsStep 0).isSome = true ∧ (stepped.slotView 0).mfeedTrap 0 = none ∧ (stepped.core stepped.focus).matrixEntries 0 < 8) := by
  and_intros <;> first | exact mayIssue_of (by decide +kernel) | decide +kernel

/-! ### Engine slot (spec/10, 16, 18 to 21) -/

/-- 16 commands of the context wait at bank 0. -/
def fullBank (s : State) : State :=
  bank s 0 fun b => { b with queue := List.replicate 16 { core := 0, ctx := 0, work := .trowel (.range 0x0D 0 1 0) 0x400 0 none, issued := 0, notBefore := 0, cycle := 0, ends := none } }
/-- R261, R263, R266: a misaligned vector, a range over a bank's end, a full queue, an atomic on a misaligned word. -/
theorem test_trowel_commands :
    let s := sets base [(3, 0x20), (4, 0xFE00), (5, 0x202)]
    trapped (.taddv 1 3 0 0) s = (5, 7, 0x20) ∧ trapped (.tfill 0 4 0 1) s = (5, 7, 0xFE00) ∧ statusAfter (.tfill 0 4 0 0) (fullBank s) = some .blocked ∧ trapped (.tfaa 1 5 0 9) s = (5, 7, 0x202)
    ∧ statusAfter (.tfaa 1 3 0 9) (fullBank s) = some .blocked ∧ (match exec (.tfill 3 4 0 0) s with | .next t => decide ((t.bank 0 0).queue.length = 1) | _ => false) = true := by decide +kernel
theorem witness_trowelCommands :
    let s := sets base [(3, 0x1FFE00), (4, 0x1F0200), (5, 0xFE00), (6, 0x20)]
    let f := fullBank s
    let v := s.slotView 0
    (MayIssue s 0 ∧ v.trowelPlace (s.xr 0 3).toNat 64 512 = .ok (0, 0x1FFE00) ∧ v.rangeTrap 0x0E 1 (s.xr 0 3).toNat (s.xr 0 4).toNat = none ∧ s.queueHeld 0 31 < 16)
    ∧ (MayIssue f 0 ∧ (f.slotView 0).trowelPlace (f.xr 0 5).toNat 64 512 = .ok (0, 0xFE00) ∧ 16 ≤ f.queueHeld 0 0) ∧ (∃ t, v.trowelPlace (s.xr 0 6).toNat 64 512 = .error t)
    ∧ ((v.rangeTrap 0x0E 1 (s.xr 0 3).toNat 0x201).map fun t => t.rank) = some 5 ∧ ((v.rangeTrap 0x10 1 (s.xr 0 3).toNat 0x1FFC40).map fun t => t.rank) = some 1 ∧ isWorker s.focus = true ∧ (v.rangeTrap 0x0D 2 (s.xr 0 5).toNat 0).isSome = true
    ∧ ((0 : Nat) < 65536 ∧ (0x1F0000 : Nat) % 64 = 0 ∧ 0x1F0000 % 65536 + 65536 ≤ 65536 ∧ (0x1F0000 : Nat) < 2 ^ 21) := by
  refine ⟨⟨mayIssue_of ?_, ?_⟩, ⟨mayIssue_of ?_, ?_⟩, error_of _ ?_, ?_⟩ <;> decide +kernel
theorem witness_atomics :
    let s := sets base [(3, 0x1FFFFC), (4, 0x202), (5, 0x400)]
    let f := fullBank s
    let b := ctx s fun x => { x with pend := [{ due := 9, bid := 0, slot := .d, kind := .marker, ln := some 5, arrive := none, fault := none }] }
    (MayIssue s 0 ∧ (s.ctx s.focus 0).inflight = [] ∧ (s.ctx s.focus 0).pend = [] ∧ (s.ctx s.focus 0).held = [] ∧ (s.slotView 0).trowelPlace (s.xr 0 3).toNat 4 4 = .ok (s.focus, 0x1FFFFC) ∧ (s.slotView 0).slotBusy 31 = false ∧ s.queueHeld 0 31 < 16)
    ∧ (∃ t, (s.slotView 0).trowelPlace (s.xr 0 4).toNat 4 4 = .error t) ∧ (MayIssue f 0 ∧ (f.slotView 0).trowelPlace (f.xr 0 5).toNat 4 4 = .ok (0, 0x400) ∧ 16 ≤ f.queueHeld 0 0)
    ∧ (MayIssue b 0 ∧ (b.slotView 0).slotBusy 5 = true) := by
  refine ⟨⟨mayIssue_of ?_, ?_⟩, error_of _ ?_, ⟨mayIssue_of ?_, ?_⟩, ⟨mayIssue_of ?_, ?_⟩⟩ <;> decide +kernel

/-- An accepted card of the core, with an id. -/
def card (id : Nat) (raw : List Byte) : Card :=
  { id := id, ctx := 0, addr := 0x100, queue := none, raw := raw, deps := [], failedDep := none, drawn := 0, notify := { core := 0, ctx := 0, sem := none, arrive := none }, started := false, next := 0,
    copies := [], barred := [], okCount := 0, fault := none, stopped := false, silent := false, chunkDone := 0 }
/-- R182, R183: a card in a bank given up, a misaligned one, and a sequencer with 16 cards. -/
theorem test_cards :
    let s := sets (bank base 1 fun b => { b with owner := none }) [(3, 0x10000), (4, 0x80), (5, 0x200)]
    trapped (.cseq 3) s = (6, 7, 0x10000) ∧ trapped (.job 4 0) s = (5, 7, 0x80) ∧ statusAfter (.cseq 5) (core s fun k => { k with cards := (List.range 16).map fun n => card n [] }) = some .blocked
    ∧ (match exec (.cseq 5) s with | .next t => decide ((t.core 0).cards.map (fun d => d.addr) = [0x200]) | _ => false) = true := by decide +kernel
theorem witness_copyCards :
    let s := sets (bank base 31 fun b => { b with owner := none }) [(3, 0x1EFF00), (4, 0x80), (5, 0x1FFF00)]
    let f := core s fun k => { k with cards := (List.range 16).map fun n => card n [] }
    let n := { s with dies := s.dies.set 0 { s.dies[0] with fpUsed := 1025 } }
    (MayIssue s 0 ∧ ((s.xr 0 3).toNat % 256 = 0 ∧ (s.xr 0 3).toNat < 2 ^ 21 ∧ (s.core s.focus).usable 0 ((s.xr 0 3).toNat / 65536) = true ∧ (s.core s.focus).cardsHeld < 16
        ∧ isWorker s.focus = true ∧ (s.die 0).fpUsed + ((s.slotView 0).entries (some 15) (s.xr 0 3).toNat).2 ≤ 1024))
    ∧ (s.xr 0 4).toNat % 256 ≠ 0 ∧ ((s.xr 0 5).toNat % 256 = 0 ∧ (s.xr 0 5).toNat < 2 ^ 21 ∧ (s.core s.focus).usable 0 ((s.xr 0 5).toNat / 65536) = false)
    ∧ (MayIssue f 0 ∧ 16 ≤ (f.core f.focus).cardsHeld) ∧ (MayIssue n 0 ∧ ¬ (n.die 0).fpUsed + ((n.slotView 0).entries (some 15) (n.xr 0 3).toNat).2 ≤ 1024) := by
  refine ⟨⟨mayIssue_of ?_, ?_⟩, ?_, ?_, ⟨mayIssue_of ?_, ?_⟩, ⟨mayIssue_of ?_, ?_⟩⟩ <;> decide +kernel

/-- A slice of a region with nothing in it, and a region of one slice over the mapped page; with STEP, the rows of groups. -/
def slice : Slice := { pc := 0, done := 0, busy := false, row := 0, transit := [], queue := [], reserved := 0, seqs := [], nextOrder := 0, undo := [], ringPos := 0 }
def region (step : Bool) : Region :=
  { state := .active, step := step, dord := false, base := 2 ^ 30, len := 2 ^ 21, pinnedBefore := [false], slices := [slice], coatw := [], lastError := none, told := [],
    params := ⟨7, 0x3F800000, 0, 3, 0, 2, 4, 5, 1⟩, head := 7, counted := [], readyCoat := none, commit := none, readers := [], drainFrom := none, destroyTags := [] }
def regional (step : Bool) : State := { mapped base (if step then 13 else 5) true with regions := [(0, region step)] }
/-- R293, R294, R309, R313: a misaligned row, an untranslated one, a WLD to a page that is no STEP page, and a reserved bit of a step. -/
theorem test_region_commands :
    let s := sets (regional false) [(3, 0x40000100), (4, 0x80000000), (5, 0x40000000), (6, 0x1000000000000), (7, 0x200)]
    trapped (.sku 1 3 0 false 0) s = (5, 7, 0x40000100) ∧ trapped (.sku 1 4 0 false 0) s = (7, 7, 0x80000000) ∧ trapped (.wldRel 5 7 0 0 0) s = (8, 7, 0x40000000)
    ∧ trapped (.stepc 5 6 0 false 0) s = (1, 7, 0x2303) ∧ statusAfter (.sku 1 5 0 false 0) s = some .running := by decide +kernel
theorem witness_regionCommands :
    let r : List (Fin 32 × Word64) := [(3, 0x400FE000), (4, 0x200), (5, 0x400), (6, 7), (7, 0x40000001)]
    let s := sets (regional false) r
    let t := sets (regional true) r
    let f := { s with regions := [(0, { region false with slices := [{ slice with reserved := 4096 }] })] }
    let cmd : SkimCmd :=
      { core := 0, ctx := 1, bid := 0, notify := { core := 0, ctx := 1, sem := none, arrive := none }, off := 0, op := .skr 0 0, seq := 0, retiredAt := 0, coat := none, order := 0, silent := false }
    let w := core s fun k => k.modCtx 1 fun x => { x with inflight := [{ waiting with eff := List.replicate 32 (.coatw 0 { target := 0, reply := 0, cmd := cmd }) }] }
    let a := (s.xr 0 3).toNat
    (MayIssue s 0 ∧ (s.slotView 0).skuTrap a 0 = none ∧ (s.slotView 0).skrTrap a (s.xr 0 4).toNat (s.xr 0 5).toNat = none ∧ (s.slotView 0).coatwTrap a (s.xr 0 5).toNat = none
        ∧ s.regionAt a = some (0, region false) ∧ (s.slotView 0).skimBlocks a false true = false ∧ (s.slotView 0).awaiting < 32 ∧ AMap.get? s.regions 0 = some (region false)
        ∧ (region false).slices[(region false).sliceOf (a - (region false).base)]? = some slice)
    ∧ (MayIssue t 0 ∧ (t.slotView 0).wldTrap a (t.xr 0 4).toNat 1 = none ∧ (t.slotView 0).stepcTrap 3 6 5 = none ∧ (t.slotView 0).lwmTrap 3 6 false = none
        ∧ firstOf [aligned7 0x200 32, (t.slotView 0).pageTrap a Leaf.step, (t.slotView 0).ownedSpan 0x200 32] = none ∧ (t.slotView 0).skimBlocks a true true = false)
    ∧ (MayIssue f 0 ∧ (f.slotView 0).skuTrap a 0 = none ∧ (f.slotView 0).skimBlocks a false false = true) ∧ (MayIssue w 0 ∧ (w.slotView 0).skimBlocks a false true = true ∧ 32 ≤ (w.slotView 0).awaiting)
    ∧ ((s.slotView 0).skuTrap (s.xr 0 7).toNat 0).isSome = true ∧ ((s.slotView 0).skrTrap a 1 0).isSome = true ∧ ((s.slotView 0).coatwTrap a 1).isSome = true ∧ ((s.slotView 0).wldTrap a 0 0).isSome = true
    ∧ ((s.slotView 0).stepcTrap 3 6 5).isSome = true ∧ ((t.slotView 0).lwmTrap 3 6 true).isSome = true := by
  refine ⟨⟨mayIssue_of ?_, ?_⟩, ⟨mayIssue_of ?_, ?_⟩, ⟨mayIssue_of ?_, ?_⟩, ⟨mayIssue_of ?_, ?_⟩, ?_⟩ <;> decide +kernel

/-- R330, R343, R257: reserved control bits, a message of 16 KiB over a bank's end, a bank that is not owned. -/
theorem test_channel_commands :
    let s := sets (bank base 2 fun b => { b with owner := none }) [(3, 0x200), (4, 0x400), (5, 0x800000), (6, 0xFF), (7, 0xFFC0)]
    trapped (.ttload 3 6 4 false 0) s = (0, 0, 0) ∧ trapped (.ttgo 3 5 4 false 0) s = (1, 7, 0x2903) ∧ trapped (.send 7 6 4 false 0) s = (6, 7, 0xFFC0) ∧ trapped (.bankmode 2 2 false 0) s = (6, 7, 0x20000)
    ∧ trapped (.chpwr 5 4 false 0) s = (1, 7, 0x2B03) ∧ trapped (.ttstop 5 4 false 0) s = (1, 7, 0x2A03) := by decide +kernel
theorem witness_channelCommands :
    let s := sets (bank base 2 fun b => { b with owner := none }) [(3, 0x200), (4, 0x400), (5, 511), (6, 0x101FF), (7, 0x3FF01FF), (8, 0x401)]
    let v := s.slotView 0
    let n (i : Fin 32) : Nat := (s.xr 0 i).toNat
    MayIssue s 0 ∧ (v.ttloadTrap (n 3) (n 7) (n 4) = none ∧ v.ttgoTrap (n 3) (n 6) (n 4) = none ∧ v.chpwrTrap (n 5) (n 4) = none ∧ v.sendTrap (n 3) 0x10FF (n 4) = none
      ∧ firstOf [if 512 ≤ n 5 then some ⟨causeIllegal, 7, Reason.badValue.code, 1⟩ else none, if n 4 % 8 = 0 then none else some ⟨causeMisaligned, 7, n 4, 5⟩,
          if 2 ^ 21 ≤ n 4 then some ⟨causeXlate, 7, n 4, 5⟩ else none, v.ownedSpan (n 4) 8] = none ∧ bankModeTrap (s.core s.focus) 0 31 = none)
    ∧ ((v.ttloadTrap (n 3) (n 7) (n 8)).isSome = true ∧ (v.ttgoTrap (n 3) 0 (n 4)).isSome = true ∧ (v.chpwrTrap (n 5) (n 8)).isSome = true ∧ (v.sendTrap (n 8) 0 (n 4)).isSome = true
      ∧ (v.ownedSpan 0x20000 8).isSome = true ∧ (bankModeTrap (s.core s.focus) 0 2).isSome = true)
    ∧ ((0x1FFFF8 : Nat) < 2 ^ 21 ∧ 0x1FFFF8 % 65536 + 8 ≤ 65536 ∧ (s.core s.focus).usable 0 (0x1FFFF8 / 65536) = true) :=
  ⟨mayIssue_of (by decide +kernel), by decide +kernel⟩

/-! ### Time (spec/02, 11) -/

/-- A load of x5 that is due: its two bytes are back, or not before SFC 9. -/
def dueLoad (readyAt : Nat) : Pend :=
  { due := 0, bid := 0, slot := .c, kind := .load (.scalar 5 2 true) [⟨0, 2, 0x40, none, some [0xFE, 0xFF], some readyAt, 0, none⟩], ln := none, arrive := none, fault := none }
/-- A computed value for x6 that is due. -/
def dueValue (slot : Slot) (v : Word64) : Pend := { due := 0, bid := 0, slot := slot, kind := .value (.x 6 v), ln := none, arrive := none, fault := none }
/-- The values of two registers of context 0 of core 0 after a step, and whether the core is frozen. -/
def landed (i : Instr) (s : State) : Nat × Nat × Bool :=
  match exec i s with | .next t => (((t.regsOf 0).rx 5).toNat, ((t.regsOf 0).rx 6).toNat, (t.core 0).frozen) | _ => (0, 0, true)

/-- R32, R34: of two results for one register that land together the one of the later slot stands; R35: late data freeze the core, and everything due lands
at their return. -/
theorem test_landings :
    let two := ctx base fun x => { x with pend := [dueValue .b 2, dueValue .a 1] }
    let late := ctx base fun x => { x with pend := [dueLoad 9, dueValue .a 1] }
    let ice := core { late with sfc := 9 } fun k => { k with frozen := true }
    landed (.resultLanding 0 0) two = (0, 2, false) ∧ landed (.landing 0 0) (ctx base fun x => { x with pend := [dueLoad 0, dueValue .a 1] }) = (0xFFFFFFFFFFFFFFFE, 1, false)
    ∧ landed (.landing 0 0) late = (0, 0, true) ∧ landed (.lateDataReturn 0) ice = (0xFFFFFFFFFFFFFFFE, 1, false) := by decide +kernel
theorem witness_landings :
    let v := ctx base fun x => { x with pend := [dueValue .a 1] }
    let b := ctx base fun x => { x with pend := [dueLoad 0] }
    let w := ctx base fun x => { x with pend := [dueLoad 9] }
    let d := regs w fun r => { r with detmode := true }
    let ice (s : State) : State := core s fun k => { k with frozen := true }
    let due (s : State) : List Pend := (s.ctx 0 0).pend.filter fun p => p.isDue (s.ctx 0 0).cycle
    let sk (s : State) : State := core s fun k => { k with skipped := true }
    let asked : Pend := { dueLoad 0 with kind := .load (.scalar 5 2 false) [⟨0, 2, 0, none, none, none, 0, none⟩] }
    let q := { ctx base (fun x => { x with pend := [asked] }) with agenda := [.landing 0 0] }
    let first (s : State) : Option Pend := (s.ctx 0 0).pend.find? fun p => p.isDue (s.ctx 0 0).cycle && p.isLoad && !p.back s.sfc
    let wait (s : State) : Bool := (due s).any fun p => p.isLoad && !p.back s.sfc
    (coreExists 0 = true ∧ (v.core 0).frozen = false ∧ (due v).any Pend.isLoad = false ∧ ∀ p ∈ due v, p.arrive = none ∧ p.fault = none)
    ∧ (v.ctx 0 0).lockstep = false ∧ ((sk w).core 0).skipped = true ∧ (b.core 0).skipped = false ∧ (w.core 0).skipped = false ∧ (d.core 0).skipped = false ∧ ((ice b).core 0).skipped = false
    ∧ (∀ p ∈ due v, p.isStencil = false) ∧ ((b.core 0).frozen = false ∧ (due b).any Pend.isLoad = true ∧ wait b = false) ∧ ((w.core 0).frozen = false ∧ wait w = true ∧ (w.ctx 0 0).regs.detmode = false)
    ∧ ((d.core 0).frozen = false ∧ wait d = true ∧ (d.ctx 0 0).regs.detmode = true ∧ (d.ctx 0 0).late = none)
    ∧ (((ice b).core 0).frozen = true ∧ ∀ n, n < 4 → (((ice b).core 0).ctx n).lateData b.sfc = false) ∧ (((ice w).core 0).frozen = true ∧ ∃ n, n < 4 ∧ (((ice w).core 0).ctx n).lateData w.sfc = true)
    ∧ ∃ bs : List Byte, bs.length = 2 ∧ (dueLoad 0).fault = none ∧ { dueLoad 0 with kind := .load (.scalar 5 2 true) [⟨0, 2, 0, none, some bs, some 0, 0, none⟩] }.kind = .load (.scalar 5 2 true) [⟨0, 2, 0, none, some bs, some 0, 0, none⟩]
    ∧ ((due q).find? fun p => p.isLoad && !p.back q.sfc) = some asked ∧ asked.answer = true ∧ q.agenda.contains (.landing 0 0) = true ∧ (q.core 0).skipped = false
    ∧ ((ice q).core 0).frozen = true ∧ (q.core 0).frozen = false ∧ (first w).any Pend.answer = false ∧ (first d).any Pend.answer = false ∧ ∀ p ∈ due v, p.withoutRaces 0 = p :=
  by and_intros <;> first | decide +kernel | exact ⟨[0xFE, 0xFF], by decide +kernel⟩

/-- Context 1 of core 0 in a status. -/
def other (s : State) (st : CtxStatus) : State := core s fun k => k.modCtx 1 fun x => { x with status := st }
/-- R196: a bundle whose cycle has come retires; R29: the run limit passes the port after 1024 cycles; R371: an armed breakpoint pre-empts. -/
theorem test_retire_and_port :
    let w := ctx base fun x => { x with inflight := [waiting], cycle := 9 }
    let full := core (other base .ready) fun k => { k with heldFor := 1024 }
    (match exec (.bundleRetire 0 0) w with | .next t => decide ((t.ctx 0 0).inflight = [] ∧ (t.ctx 0 0).retired = (w.ctx 0 0).retired + 1) | _ => false) = true
    ∧ (match exec (.runLimit 0) full with | .next t => decide ((t.core 0).port = some 1 ∧ (t.ctx 0 0).status = .ready) | _ => false) = true
    ∧ (match exec (.blockClear 0 1) (other base .blocked) with | .next t => decide ((t.ctx 0 1).status = .ready) | _ => false) = true := by decide +kernel
/-- The stencil entry holds ADDI x1, x2, 0 with its A slot to be patched (PATCH = 2). -/
theorem patched_entry : ∃ b bd, patchBundle (AMap.getD ((regs base (fun r => { r with sten := [(5, BitVec.ofNat 256 (bundleOfSlot .a (encode (.addi .a 1 2 0)) + 2 ^ 233))] })).ctx 0 0).regs.sten 5 0).toNat 3 = .ok b
    ∧ decodeBundle b = .ok bd := by
  obtain ⟨b, h, p⟩ := ok_of (patchBundle (AMap.getD ((regs base (fun r => { r with sten := [(5, BitVec.ofNat 256 (bundleOfSlot .a (encode (.addi .a 1 2 0)) + 2 ^ 233))] })).ctx 0 0).regs.sten 5 0).toNat 3)
    (fun b => match decodeBundle b with | .ok _ => true | .error _ => false) (by decide +kernel)
  match e : decodeBundle b with
  | .ok bd => exact ⟨b, bd, h, e⟩
  | .error _ => simp [e] at p
/-- A value whose test holds is there. -/
theorem some_of {α : Type} (o : Option α) (f : α → Bool) (h : (match o with | some a => f a | none => false) = true) : ∃ a, o = some a ∧ f a = true := by
  cases o with
  | none => simp at h
  | some a => exact ⟨a, rfl, h⟩
/-- In a cycle that the core skips, its context stands at a bundle with stamp 3 in deterministic mode. -/
def stampedSkip : State :=
  core (regs { State.reset.placeWord 28 0 with kernels := [(1, oneLineKernel (2 ^ 255 + 3 * 2 ^ 224))] } fun r => { r with detmode := true, origin := 0, framelen := 64 }) fun k => { k with frozen := true, skipped := true }
theorem witness_retireAndPort :
    let w := ctx base fun x => { x with inflight := [waiting] }
    let f := ctx base fun x => { x with inflight := [{ waiting with fault := some ⟨5, 3, 0x41, 5⟩ }] }
    let r := other base .ready
    let full := core r fun k => { k with heldFor := 1024 }
    let idle := core (ctx base fun x => { x with status := .ready }) fun k => { k with port := none }
    let brk := core base fun k => { k with armed := true, breaks := k.breaks.set (0 : Fin 4) (some 0) }
    let st := { regs base (fun r => { r with sten := [(5, BitVec.ofNat 256 (bundleOfSlot .a (encode (.addi .a 1 2 0)) + 2 ^ 233))] }) with focus := 0 }
    let late := stampedSkip
    (late.repeats 0 = false ∧ (late.core 0).skipped = true ∧ (late.core 0).frozen = true ∧ ({ late.core 0 with frozen := false, skipped := false, cycle := (late.core 0).cycle + 1 } : Core).claimPort.retest.issuer = some 0)
    ∧ (∃ v uses, ({ late with focus := 0 } : State).bundleAt 0 0 = some (v, uses) ∧ v.stamped = true ∧ v.beforeStart = false ∧ ∀ t, v.ctx.task = some t → t.started = true)
    ∧ base.repeats 97 = true ∧ (base.core 0).skipped = false ∧ (base.repeats 0 = false) ∧ (base.core 0).placing 1 = false
    ∧ coreExists 0 = true ∧ (base.ctx 0 0).inflight = [] ∧ (f.ctx 0 0).inflight = [{ waiting with fault := some ⟨5, 3, 0x41, 5⟩ }]
    ∧ ((w.ctx 0 0).inflight = [waiting] ∧ waiting.fault = none ∧ waiting.eff = [] ∧ waiting.conds = [.cycle 9] ∧ (w.ctx 0 0).held = [] ∧ ∀ p ∈ (w.ctx 0 0).pend, p.unbound = [])
    ∧ (((other base .blocked).ctx 0 1).status = .blocked ∧ ((other base .blocked).ctx 0 1).ending = false ∧ ((other base .blocked).core 0).port ≠ some (ctxNo 1) ∧ ((other base .blocked).core 0).frozen = false
        ∧ ((other base .blocked).ctx 0 1).preempt = none ∧ ((other base .blocked).ctx 0 1).killing = false)
    ∧ ((r.core 0).port = some (ctxNo 0) ∧ (r.ctx 0 0).status = .running ∧ (r.ctx 0 0).regs.detmode = false ∧ (r.core 0).frozen = false ∧ (r.core 0).nextReady 0 = some 1 ∧ (r.core 0).portAt ≤ (r.core 0).cycle + 2 ∧ (r.core 0).heldFor < 1024)
    ∧ ((full.core 0).port = some (ctxNo 0) ∧ (full.ctx 0 0).status = .running ∧ (full.ctx 0 0).regs.detmode = false ∧ (full.core 0).frozen = false ∧ (full.core 0).nextReady 0 = some 1 ∧ (full.core 0).portAt ≤ (full.core 0).cycle + 2 ∧ 1024 ≤ (full.core 0).heldFor)
    ∧ ((core base fun k => { k with frozen := true }).core 0).frozen = true ∧ ((core base fun k => { k with halted := true }).core 0).halted = true
    ∧ (isWorker 0 = true ∧ (idle.core 0).frozen = false ∧ (idle.core 0).halted = false ∧ idle.overheated = false ∧ (idle.core 0).port = none ∧ (idle.ctx 0 0).status = .ready ∧ ∀ n, n < 0 → (idle.ctx 0 n).status ≠ .ready)
    ∧ (brk.overheated = false ∧ (brk.core 0).issuer = some 0 ∧ (brk.core 0).breaksAt (brk.ctx 0 0).regs.pc = true)
    ∧ (st.focus = 0 ∧ st.overheated = false ∧ (st.core 0).issuer = some 0 ∧ st.codeLine 0 < 2 ^ 255 ∧ st.poisoned (stenWord 0 0 5) 8 = false
        ∧ ({ st with poison := [stenWord 0 0 5] } : State).poisoned (stenWord 0 0 5) 8 = true ∧ ∃ b bd, patchBundle (AMap.getD (st.ctx 0 0).regs.sten 5 0).toNat 3 = .ok b ∧ decodeBundle b = .ok bd) := by
  and_intros <;> first
    | decide +kernel | exact fun n h => absurd h (Nat.not_lt_zero n) | exact patched_entry
    | (obtain ⟨p, h, q⟩ := some_of (State.bundleAt { stampedSkip with focus := 0 } 0 0) (fun p => p.1.stamped && !p.1.beforeStart && p.1.ctx.task.all fun t => t.started) (by decide +kernel)
       simp only [Bool.and_eq_true, Bool.not_eq_true'] at q
       exact ⟨p.1, p.2, h, q.1.1, q.1.2, fun t e => by simpa [e] using q.2⟩)
/-- The error of a patch of an empty stencil entry. -/
theorem witness_retireAndPort_patch : patchBundle 0 0 = .error .notFull := by decide +kernel

/-- A code line for context 0, with nothing else on the agenda. -/
def atLine (w : Nat) : State := { State.reset.placeWord 28 0 with kernels := [(1, oneLineKernel w)] }
theorem witness_stepRunsDecoded :
    let nop := 2 ^ 255 + 255 * 2 ^ 224
    let bad := nop + (2 ^ Slot.a.width - 1) * 2 ^ Slot.a.low
    let word := 2 ^ 251 + 5 * 128
    let ok (s : State) : Bool := decide (s.agenda = [.bundleIssue 0] ∧ s.overheated = false ∧ (s.core 0).issuer = some 0 ∧ (s.core 0).breaksAt (s.ctx 0 0).regs.pc = false
      ∧ (s.ctx 0 0).task = some (handTask 1))
    coreExists 0 = true ∧ isWorker 0 = true ∧ State.reset.agenda = []
    ∧ (ok (atLine nop) ∧ (atLine nop).fetchLine (handTask 1) 0 = some nop ∧ decodeLine nop 0 = .ok (.full nop) ∧ ∃ bd, decodeBundle nop = .ok bd)
    ∧ (ok (atLine bad) ∧ (atLine bad).fetchLine (handTask 1) 0 = some bad ∧ decodeLine bad 0 = .ok (.full bad) ∧ ∃ e, decodeBundle bad = .error e)
    ∧ (ok (atLine word) ∧ (atLine word).fetchLine (handTask 1) 0 = some word ∧ decodeLine word 0 = .ok (.word (.stencilWord 5 0))) ∧ (∃ r, decodeLine nop 2 = .error r)
    ∧ ((Instr.addi .a 1 2 3).wf = true ∧ slotOf (.addi .a 1 2 3) = some .a ∧ Instr.addi .a 1 2 3 ≠ nopOf .a ∧ modpOf (.addi .a 1 2 3) = none
        ∧ ok (atLine (bundleOfSlot .a (encode (.addi .a 1 2 3)))) ∧ (atLine (bundleOfSlot .a (encode (.addi .a 1 2 3)))).fetchLine (handTask 1) 0 = some (bundleOfSlot .a (encode (.addi .a 1 2 3))))
    ∧ (atLine nop).fetchLine (handTask 1) 32 = none := by
  refine ⟨by decide +kernel, by decide +kernel, rfl, ⟨by decide +kernel, by decide +kernel, by decide +kernel, ?_⟩, ⟨by decide +kernel, by decide +kernel, by decide +kernel, error_of _ (by decide +kernel)⟩,
    by decide +kernel, error_of _ (by decide +kernel), by decide +kernel, by decide +kernel⟩
  obtain ⟨bd, h, -⟩ := ok_of (decodeBundle (2 ^ 255 + 255 * 2 ^ 224)) (fun _ => true) (by decide +kernel)
  exact ⟨bd, h⟩

/-- R201: a pre-empted context issues no further bundle; R205: a message wakes the DORMANT context that has armed its class. -/
theorem test_context_moves :
    let m := bank (regs (ctx base fun x => { x with status := .dormant }) fun r => { r with harm := r.harm.set (3 : Fin 8) 0x41 }) 2
      fun b => { b with mode := .fifo, fifo := [{ cls := 3, len := 64, addr := 0x40, slots := 1, taker := none }] }
    (match exec (.preemptRequest 0 0 0x10000) base with | .next t => decide ((t.ctx 0 0).preempt = some 0x10000 ∧ (t.core 0).issuer = none) | _ => false) = true
    ∧ (match exec (.messageDelivery 0 2) m with
        | .next t => decide ((t.ctx 0 0).status = .ready ∧ (t.ctx 0 0).regs.pc = 0x40 ∧ (t.ctx 0 0).regs.msginfo = BitVec.ofNat 64 (3 * 2 ^ 37 + 64 * 2 ^ 21 + 0x20040))
        | _ => false) = true
    ∧ (match exec (.killRequest 0 0) base with | .next t => decide ((t.ctx 0 0).status = .killed) | _ => false) = true := by decide +kernel
theorem witness_contextMoves :
    let at_ : Pend := { due := 3, bid := 0, slot := .e, kind := .load (.atomic 5) [⟨0, 8, 0x40, none, none, none, 0, none⟩], ln := some 2, arrive := none, fault := none }
    let p := ctx base fun x => { x with preempt := some 0x10000, inflight := [{ waiting with conds := [.landed] }], pend := [at_] }
    let q := ctx p fun x => { x with inflight := [waiting] }
    let sv := core (ctx base fun x => { x with status := .saved, before := .dormant }) fun k => { k with port := none }
    let k := ctx base fun x => { x with status := .killed }
    let busy := core k fun q => { q with cards := [card 1 []] }
    let e := ctx base fun x => { x with status := .blocked, ending := true }
    let m := bank (regs (ctx base fun x => { x with status := .dormant }) fun r => { r with harm := r.harm.set (3 : Fin 8) 0x41 }) 2
      fun b => { b with mode := .fifo, fifo := [{ cls := 3, len := 64, addr := 0x40, slots := 1, taker := none }] }
    let precise := ctx p fun x => { x with stopped := true }
    coreExists 0 = true ∧ (p.ctx 0 0).stopped = false ∧ ((precise.ctx 0 0).preempt ≠ none ∧ (precise.ctx 0 0).stopped = true ∧ (precise.ctx 0 0).pend ≠ [])
    ∧ ((p.ctx 0 0).preempt = some 0x10000 ∧ (p.core 0).frozen = false ∧ (p.ctx 0 0).status.preemptible = true ∧ (∀ i ∈ (p.ctx 0 0).inflight, (p.ctx 0 0).onlyAtomic i = true) ∧ (p.ctx 0 0).inflight ≠ []
        ∧ (p.ctx 0 0).held = [] ∧ (∀ d ∈ (p.ctx 0 0).pend, d.drained p.sfc = true) ∧ (p.core 0).port = some (ctxNo 0))
    ∧ ((q.ctx 0 0).preempt ≠ none ∧ ∃ i ∈ (q.ctx 0 0).inflight, (q.ctx 0 0).onlyAtomic i = false)
    ∧ ((sv.ctx 0 0).status = .saved ∧ (sv.ctx 0 1).status = .free ∧ sv.owes 0 0 = false ∧ sv.writesQueued 0 0 = false ∧ ∀ d ∈ (sv.ctx 0 0).pend, d.back sv.sfc = true)
    ∧ ((base.ctx 0 0).status ≠ .free ∧ (base.ctx 0 0).status ≠ .killed) ∧ (base.ctx 0 1).status = .free ∧ ((busy.ctx 0 0).status = .killed ∧ busy.owes 0 0 = true)
    ∧ ((k.ctx 0 0).status = .killed ∧ k.owes 0 0 = false ∧ (k.writeBack 0 0 (fun _ => true)).fenced 0 0 4 = true ∧ (k.ctx 0 0).task = some (handTask 1))
    ∧ ((e.ctx 0 0).status = .blocked ∧ (e.ctx 0 0).ending = true ∧ (e.ctx 0 0).inflight = [] ∧ (e.ctx 0 0).pend = [] ∧ (e.ctx 0 0).held = [] ∧ e.owes 0 0 = false ∧ (e.ctx 0 0).task = some (handTask 1)
        ∧ (e.writeBack 0 0 (fun _ => true)).fenced 0 0 4 = true)
    ∧ (((m.core 0).bank 2).fifo = [{ cls := 3, len := 64, addr := 0x40, slots := 1, taker := none }] ∧ (m.core 0).sleeperFor 3 = some 0) ∧ (∀ x ∈ ((base.core 0).bank 2).fifo, x.taker = none → (base.core 0).sleeperFor x.cls = none) := by
  decide +kernel
/-- A write of the context that still stands at a bank when it has ended. -/
theorem witness_contextMoves_fence :
    let it : BankItem := { core := 0, ctx := 0, work := .store [(0x40, 1)], issued := 0, notBefore := 0, cycle := 0, ends := none }
    let e := { ctx base (fun x => { x with status := .blocked, ending := true }) with
      chans := [(0, { Channel.reset with q0 := [{ core := 0, ctx := 0, bid := 0, slot := .d, off := 0, addr := 0, len := 8, bytes := some [1], policy := 0, prefetch := false }] })] }
    let k := ctx e fun x => { x with status := .killed, ending := false }
    it.core = 0 ∧ (e.ctx 0 0).inflight = [] ∧ e.owes 0 0 = false ∧ (e.writeBack 0 0 (fun _ => true)).fenced 0 0 4 = false
    ∧ (k.ctx 0 0).status = .killed ∧ k.owes 0 0 = false ∧ (k.writeBack 0 0 (fun _ => true)).fenced 0 0 4 = false := by decide +kernel

/-! ### Launches, tasks and banks (spec/12, 13, 14) -/

/-- A launch in flight with two tasks, of a one-line kernel with one C level and the claim of bank 3. -/
def launch (handle dispatched : Nat) (det : Bool) : Launch :=
  { handle := handle, die := 0, queue := 5, seq := 1, kernel := 2, desc := List.replicate 128 0, counts := [2], tasks := 2, dispatched := dispatched, ended := 0, gone := 0, cancelled := none,
    parent := none, pool := 0, freeReserve := 0, footprints := [], fpOn := false, res := 0, resFree := [], deps := [], failedDep := false, deterministic := det, priv := false, lockstep := false, cwaddr := 0,
    group := if det then .bound else .running, start := none, lastPlaced := 0, killTags := [] }
/-- Its kernel. -/
def kernel2 : Kernel := { oneLineKernel (2 ^ 255 + 255 * 2 ^ 224) with levels := [⟨.c, false, 0, 2⟩], claim := 8 }
/-- The launch is the head of its queue. -/
def launching (l : Launch) : State :=
  let q : Vector LaunchQueue 16 := State.reset.dies[0].queues.set 5 ⟨.active, false⟩
  { State.reset with kernels := [(2, kernel2)], launches := [l], dies := State.reset.dies.set 0 { State.reset.dies[0] with queues := q }, recovery := false }

/-- R236, R237: the second of two tasks goes to context 0 of the first core that may take it, with loop index 1; R232: a CANCEL of an unknown handle
answers 3, of one with every task dispatched 2, of one with some dispatched 1. -/
theorem test_launches :
    let s := launching (launch 9 1 false)
    (match s.dispatchTask (launch 9 1 false) with
      | some t => decide ((t.ctx 0 0).status = .ready ∧ (t.ctx 0 0).regs.li[(0 : Fin 6)] = 1 ∧ (t.ctx 0 0).regs.lc[(0 : Fin 6)] = 0 ∧ (t.bank 0 3).owner = some 1) | none => false) = true
    ∧ (s.cancelLaunch 8).1 = 3 ∧ ((launching (launch 9 2 false)).cancelLaunch 9).1 = 2 ∧ (s.cancelLaunch 9).1 = 1 ∧ ((launching (launch 9 0 false)).cancelLaunch 9).1 = 0 := by decide +kernel
/-- The first launch waits for 1,000 footprint entries, of which its die lacks one. -/
def greedy : Launch := { launch 8 0 false with queue := 3, res := 1000 }
/-- Two heads, of queues 3 and 5. -/
def twoHeads : State :=
  let s := launching (launch 9 1 false)
  { s with launches := [greedy, launch 9 1 false], dies := s.dies.set 0 { s.dies[0] with fpUsed := 25, queues := s.dies[0].queues.set (3 : Fin 16) ⟨.active, false⟩ } }
theorem witness_launches_round :
    let s := launching (launch 9 1 false)
    let p := core (ctx base fun x => { x with task := some { handTask 1 with started := false } }) fun k =>
      { k with banks := k.banks.set (0 : Fin 32) { k.banks[(0 : Fin 32)] with queue := [{ core := 0, ctx := schedParty, work := .store [], issued := 0, notBefore := 0, cycle := 0, ends := none }] } }
    (∀ l ∈ (State.reset.turnGroups 0).heads 0, (State.reset.turnGroups 0).dispatchTask l = none)
    ∧ (s.turnGroups 0).placing 0 = false ∧ (twoHeads.turnGroups 0).placing 0 = false ∧ (p.turnGroups 0).placing 0 = true
    ∧ (∃ u, (s.turnGroups 0).heads 0 = [] ++ launch 9 1 false :: [] ∧ (s.turnGroups 0).dispatchTask (launch 9 1 false) = some u)
    ∧ ∃ u, (twoHeads.turnGroups 0).heads 0 = [greedy] ++ launch 9 1 false :: [] ∧ (∀ x ∈ [greedy], (twoHeads.turnGroups 0).dispatchTask x = none)
      ∧ (twoHeads.turnGroups 0).dispatchTask (launch 9 1 false) = some u :=
  by
  have h : ((launching (launch 9 1 false)).turnGroups 0 |>.dispatchTask (launch 9 1 false)).isSome = true := by decide +kernel
  have g : ((twoHeads.turnGroups 0).dispatchTask (launch 9 1 false)).isSome = true := by decide +kernel
  obtain ⟨u, e⟩ := Option.isSome_iff_exists.mp h
  obtain ⟨w, f⟩ := Option.isSome_iff_exists.mp g
  exact ⟨by decide +kernel, by decide +kernel, by decide +kernel, by decide +kernel, ⟨u, by decide +kernel, e⟩, w, by decide +kernel, by decide +kernel, f⟩
theorem witness_launches :
    let l := launch 9 1 false
    let s := launching l
    let d := launching (launch 9 2 true)
    let e := launching { launch 9 2 false with ended := 2 }
    let kinds := kernel2.levels.map fun x => x.kind
    let idx := taskIndices kinds l.counts l.dispatched
    let reached (s : State) : Bool := s.cores.all fun e => s.diesJoined 0 (e.1 / 128) || e.2.ctxs.all fun x => !x.task.any fun t => decide (t.launch = 9)
    (reached d = true ∧ reached (d.modCtx 128 0 fun x => { x with task := some { handTask 1 with launch := 9 } }) = false)
    ∧ (AMap.get? s.kernels l.kernel = some kernel2 ∧ s.reserveOk l kernel2 = true ∧ s.placeFor l kernel2 ((l.die + indexOver kinds l.counts idx LevelKind.isD) % 4) (indexOver kinds l.counts idx LevelKind.isC) = some (0, 0)
        ∧ kinds[0]? = some .c ∧ l.counts[0]? = some 2 ∧ idx[0]? = some 1 ∧ LevelKind.c.spatial = true ∧ bitAt kernel2.claim 3 = true ∧ (s.core 0).banks[(3 : Fin 32)].owner = none)
    ∧ (d.launch? 9 = some (launch 9 2 true) ∧ (launch 9 2 true).deterministic = true ∧ (launch 9 2 true).group = .bound ∧ (launch 9 2 true).start = none)
    ∧ (s.launch? 9 = some l ∧ s.launchDone l = false) ∧ (e.launch? 9 = some { launch 9 2 false with ended := 2 } ∧ e.launchDone { launch 9 2 false with ended := 2 } = true)
    ∧ (l.dispatched ≠ l.tasks ∧ l.dispatched ≠ 0 ∧ (launch 9 2 false).dispatched = (launch 9 2 false).tasks ∧ (launch 9 0 false).dispatched ≠ (launch 9 0 false).tasks ∧ (launch 9 0 false).dispatched = 0)
    ∧ s.launch? 8 = none := by decide +kernel
/-- Banks whose owner has no work there, has a store queued there, and does not give them up. -/
theorem witness_launches_banks :
    let r := bank base 31 fun b => { b with releasing := true }
    let it : BankItem := { core := 0, ctx := 0, work := .store [(0x1F0000, 1)], issued := 0, notBefore := 0, cycle := 0, ends := none }
    let w := bank r 31 fun b => { b with queue := [it] }
    let fill := bank r 31 fun b => { b with passing := true, pledge := some 5, queue := [{ it with ctx := schedParty }] }
    let pass := bank r 31 fun b => { b with passing := true, pledge := some 5 }
    ((fill.bank 0 31).passing = true ∧ ¬ ∀ i ∈ (fill.bank 0 31).queue, i.ctx ≠ schedParty) ∧ ((pass.bank 0 31).passing = true ∧ (pass.bank 0 31).queue = [])
    ∧ (base.bank 0 31).passing = false ∧ (w.bank 0 31).passing = false ∧ (r.bank 0 31).passing = false ∧ (r.bank 0 31).queue = []
    ∧ coreExists 0 = true ∧ (base.bank 0 31).releasing = false ∧ ((w.bank 0 31).owner.bind (w.core 0).ctxOf = some 0 ∧ (w.core 0).bankQuiet 0 0 31 = false)
    ∧ ((r.bank 0 31).releasing = true ∧ (r.bank 0 31).owner.bind (r.core 0).ctxOf = some 0 ∧ (r.core 0).bankQuiet 0 0 31 = true ∧ (r.bank 0 31).pledge = none) := by decide +kernel
/-- Requests of context 0: none, a CANCEL and a LAUNCH of a task of a launch in flight. -/
theorem witness_launches_requests :
    let req (c : Option Nat) : SchedReq := { core := 0, ctx := 0, bid := 0, seq := 0, readyAt := 0, cancel := c, desc := List.replicate 128 0 }
    let s := { ctx base (fun x => { x with inflight := [waiting] }) with launches := [launch 0 1 false] }
    let on (r : SchedReq) : State := { s with sched := [r] }
    let orphan : State := { on (req none) with launches := [] }
    let b : State := { ctx s (fun x => { x with inflight := [{ waiting with eff := [.bankMode 31 0 { core := 0, ctx := 0, sem := none, arrive := none } 0] }] }) with sched := [req none] }
    let b := bank b 31 fun y => { y with owner := none }
    let read (t : State) : State := t.sched.foldl (fun s r => if r.core / 128 = 0 ∧ r.readyAt ≤ s.sfc then (s.fetchSectors r.sectors).2 else s) t
    let ready (t : State) (r : SchedReq) : Bool := decide (r.core / 128 = 0) && (read t).requestReady r && ((read t).fetchSectors r.sectors).1
    (∀ r ∈ (read s).sched, ready s r = false) ∧ ((read (on (req (some 9)))).sched.find? (ready (on (req (some 9)))) = some (req (some 9)))
    ∧ ((read b).sched.find? (ready b) = some (req none) ∧ ((read b).requestTrap (req none)).1.isSome = true)
    ∧ ((read (on (req (some 9)))).requestTrap (req (some 9))).1 = none ∧ ((read (on (req none))).requestTrap (req none)).1 = none
    ∧ ((read (on (req none))).sched.find? (ready (on (req none))) = some (req none)
      ∧ (((read (on (req none))).requestTrap (req none)).2.ctx 0 0).task.bind (fun t => ((read (on (req none))).requestTrap (req none)).2.launch? t.launch) = some (launch 0 1 false))
    ∧ ((read orphan).sched.find? (ready orphan) = some (req none) ∧ ((read orphan).requestTrap (req none)).1 = none
      ∧ (((read orphan).requestTrap (req none)).2.ctx 0 0).task.bind (fun t => ((read orphan).requestTrap (req none)).2.launch? t.launch) = none) := by decide +kernel

/-- A module that takes commands. -/
def ready (s : State) : State := { s with stage := .ready, recovery := false }
/-- A header of a command with tag 77 for queue 5 of die 0. -/
def hdr : HostHdr := ⟨77, 0, 5, 1, 0⟩
/-- The last report of a step. -/
def answered (i : Instr) (s : State) : Option Report := match exec i s with | .next t => t.out.getLast? | _ => none
/-- An image of R210: version 1, entry 0, one line at byte 160, nothing else. -/
def image : List Byte := leBytes 8 1 ++ leBytes 8 160 ++ leBytes 8 1 ++ leBytes 8 160 ++ List.replicate 32 0 ++ leBytes 8 160 ++ List.replicate 56 0 ++ leBytes 8 160 ++ List.replicate 24 0
  ++ leBytes 32 (2 ^ 255 + 255 * 2 ^ 224)

/-- R225, R234: the queue commands answer OK with the queue's state; a reserved header bit, and a module that is not READY, answer ATTR. -/
theorem test_host_queues :
    let s := ready State.reset
    (match exec (.qpause hdr) s with | .next t => decide (((t.die 0).queue 5).state = .paused) | _ => false) = true ∧ answered (.qstat hdr) s = some ⟨.response, 77, stOk, [0, 0, 4096]⟩
    ∧ (answered (.qpause { hdr with reserved := 1 }) s).map (fun r => r.status) = some stAttr ∧ (answered (.qpause hdr) State.reset).map (fun r => r.status) = some stAttr
    ∧ (answered (.hostCancel hdr 4) s).map (fun r => r.status) = some 3 := by decide +kernel
theorem witness_hostQueues :
    let s := ready (launching (launch 9 1 false))
    let w := { ready State.reset with kernels := [(2, kernel2)] }
    (badHeader { hdr with ver := 2 } = true ∧ State.reset.takesCommands = false) ∧ (badHeader hdr = false ∧ s.takesCommands = true) ∧ imgRefusal image = 0 ∧ imgRefusal [] ≠ 0
    ∧ AMap.get? s.kernels 3 = none ∧ (AMap.get? s.kernels 2 = some kernel2 ∧ kernel2.state = .loaded) ∧ (List.replicate 128 (0 : BitVec 8)).length = 128 ∧ ([] : List (BitVec 8)).length ≠ 128
    ∧ s.launch? 8 = none ∧ s.launch? 9 = some (launch 9 1 false) ∧ ((s.die 0).queue 5).state ≠ .idle ∧ ((w.die 0).queue 5).state = .idle := by decide +kernel

/-! ### Engines and banks (spec/09, 10, 15, 16, 17) -/

/-- A card that copies 64 bytes from 0x1000 to 0x2000 (R176), started, with copies in flight. -/
def copyRaw : List Byte :=
  leBytes 8 (1 + 64 * 1024) ++ leBytes 8 0x1000 ++ leBytes 8 0x2000 ++ List.replicate 16 0 ++ (List.replicate 6 (leBytes 4 1 ++ List.replicate 8 0)).flatten ++ List.replicate 144 0
def started (copies : List (Nat × Nat)) : Card := { card 1 copyRaw with started := true, next := 1, copies := copies }
/-- R180, R188, R189: a card of zeros fails its check at offset 0; a good one starts its one copy; the copy moves its bytes; the card's completion. -/
theorem test_cards_run :
    let s := put (core base fun k => { k with cards := [card 1 copyRaw] }) 0x1000 [1, 2, 3]
    let z := core base fun k => { k with cards := [card 1 (List.replicate 256 0)] }
    let c := put (core base fun k => { k with cards := [started [(0, 4)]] }) 0x1000 [1, 2, 3]
    let e := core base fun k => { k with cards := [started []] }
    (match exec (.cardStart 0) z with | .next t => decide ((t.core 0).cards.map (fun d => d.fault) = [some (0, stAttr, 0)]) | _ => false) = true
    ∧ (match exec (.cardStart 0) s with | .next t => decide ((t.core 0).cards.map (fun d => (d.next, d.copies.length)) = [(1, 1)]) | _ => false) = true
    ∧ (match exec (.copyComplete 0 1 0) c with | .next t => decide (t.spadRead 0 0x2000 3 = [1, 2, 3]) | _ => false) = true
    ∧ (match exec (.cardComplete 0 1) e with | .next t => decide ((t.core 0).cards = [] ∧ leValue (t.spadRead 0 0x118 8) = statusWord stOk 0 0) | _ => false) = true := by decide +kernel

/-- The worked example's item, in the engine since SFC 0; and a finished item that raises sm5. -/
def running (sfc ends : Nat) : State :=
  let r := (matrix.slotView 0).routine example3
  { core matrix (fun k => { k with mq := [queued (.routine r) 0], mrun := some ⟨0, ends, ends, .computing, none⟩ }) with sfc := sfc }
def ended : MatDone := { item := { queued (.zero 9 1) 0 with notify := { core := 0, ctx := 0, sem := some 5, arrive := none } }, due := 8 }
theorem witness_engineSteps_matrix :
    let s := core (running 9 9) fun k => { k with mrun := none }
    let r := (matrix.slotView 0).routine example3
    let d := { core base (fun k => { k with mdone := [ended] }) with sfc := 9 }
    let z := { core base (fun k => { k with mq := [queued (.zero 9 1) 0], mrun := some ⟨0, 8, 8, .drain, none⟩ }) with sfc := 9 }
    let two := core s fun k => { k with mslot := Vector.replicate 16 0, mq := [queued (.zero 9 1) 0, { queued (.zero 9 1) 1 with ctx := 1 }] }
    let none' := core s fun k => { k with mq := [] }
    let own (t : State) : BitVec 3 := (t.core 0).mslot[t.sfc / 64 % 16]?.getD 0
    (((own two).toNat < 4 ∨ (two.core 0).candidate ((own two).toNat % 4) = none) ∧ (two.core 0).candidate 0 = some (queued (.zero 9 1) 0)
      ∧ ∀ c', c' < 4 → c' ≠ 0 → ∀ j, (two.core 0).candidate c' = some j → (queued (.zero 9 1) 0).order < j.order)
    ∧ (((own none').toNat < 4 ∨ (none'.core 0).candidate ((own none').toNat % 4) = none) ∧ ∀ c, c < 4 → (none'.core 0).candidate c = none)
    ∧ coreExists 0 = true ∧ ((s.core 0).mslot[s.sfc / 64 % 16]? = some (BitVec.ofNat 3 (4 + 0)) ∧ (s.core 0).candidate 0 = some (queued (.routine r) 0)) ∧ (s.core 0).mrun = none
    ∧ ((running 9 9).core 0).mrun = some ⟨0, 9, 9, .computing, none⟩ ∧ 9 ≤ (⟨0, 9, 9, .computing, none⟩ : MatRun).ends
    ∧ (((running 10 9).core 0).mrun = some ⟨0, 9, 9, .computing, none⟩ ∧ (9 : Nat) < (running 10 9).sfc ∧ ((running 10 9).core 0).mq.find? (fun j => j.order = 0) = some (queued (.routine r) 0)
        ∧ (queued (.routine r) 0).chunked = some r ∧ dStepped r.desc = false ∧ dM r.desc ≤ 64 ∧ dN r.desc ≤ 64)
    ∧ ((base.core 0).mdone = [] ∧ (base.core 0).mrun = none)
    ∧ ((d.core 0).mdone = [ended] ∧ ended.due ≤ d.sfc ∧ (d.core 0).mrun = none ∧ ended.item.charge = Vector.replicate 4 0 ∧ ended.item.ctx < 4
        ∧ ended.item.notify = { core := 0, ctx := ended.item.ctx, sem := some 5, arrive := none })
    ∧ ((z.core 0).mdone = [] ∧ (z.core 0).mrun = some ⟨0, 8, 8, .drain, none⟩ ∧ 8 ≤ z.sfc ∧ (z.core 0).mq.find? (fun j => j.order = 0) = some (queued (.zero 9 1) 0)
        ∧ (queued (.zero 9 1) 0).work = .zero 9 1 ∧ (queued (.zero 9 1) 0).notify.sem = none ∧ (queued (.zero 9 1) 0).notify.arrive = none ∧ AMap.sortedFrom 0 (z.core 0).acc = true) := by decide +kernel
theorem witness_engineSteps_cards :
    let s := core base fun k => { k with cards := [card 1 copyRaw] }
    let z := core base fun k => { k with cards := [card 1 []] }
    let f := core base fun k => { k with cards := [{ started [(0, 4)] with barred := [0] }] }
    let e := core base fun k => { k with cards := [started []] }
    let q := bank e 0 fun b => { b with queue := [{ core := 0, ctx := 0, work := .store [(0x118, 1)], issued := 0, notBefore := 0, cycle := 0, ends := none }] }
    (base.core 0).cards.find? Card.ready = none
    ∧ ((s.core 0).cards.find? Card.ready = some (card 1 copyRaw)
        ∧ cardOffence copyRaw (((s.core 0).ctx 0).hawks[fin16 (cardHawk copyRaw)]).cap = none)
    ∧ ((z.core 0).cards.find? Card.ready = some (card 1 []) ∧ cardOffence [] (((z.core 0).ctx 0).hawks[fin16 (cardHawk [])]).cap = some 0)
    ∧ (∀ d ∈ (base.core 0).cards.find? (fun d => d.id = 1), (d.copies.any fun p => p.1 = 0) = false)
    ∧ ((f.core 0).cards.find? (fun d => d.id = 1) = some { started [(0, 4)] with barred := [0] } ∧ ({ started [(0, 4)] with barred := [0] } : Card).barred.contains 0 = true)
    ∧ ((e.core 0).cards.find? (fun d => d.id = 1) = some (started []) ∧ (started []).outcome = some (stOk, 0) ∧ e.mem.wf = true ∧ (started []).addr % 256 = 0 ∧ (started []).addr < 2 ^ 21
        ∧ cardHen (started []).raw = false ∧ (e.bank 0 ((started []).addr / 65536)).queue = [] ∧ (q.bank 0 ((started []).addr / 65536)).queue ≠ []
        ∧ (e.ctx 0 (started []).ctx).status ≠ .saved ∧ (e.ctx (started []).notify.core (started []).notify.ctx).status ≠ .saved) := by decide +kernel
/-- A card whose one copy is under way: it finishes, waits behind a trowel command of its bank, meets an uncorrectable error, and lacks its bank. -/
def copying : State := core base fun k => { k with cards := [started [(0, 4)]] }
def piecesOf : List CopyPiece × List CopyPiece := ([((0x1000, 64), .spad 0x1000)], [((0x2000, 64), .spad 0x2000)])
def sfcAt (n : Nat) : State := { copying with sfc := n }
theorem witness_engineSteps_copies :
    let d := started [(0, 4)]
    let p := piecesOf
    let opened (s : State) : Bool × State := s.copyOpen 0 d 0 p.1 p.2
    let w := bank copying 0 fun b => { b with queue := [{ core := 0, ctx := 0, work := .trowel (.range 0x0D 0 1 0) 0x1000 0 none, issued := 0, notBefore := 0, cycle := 0, ends := none }] }
    let x := { copying with poison := [spadAddr 0 0x1000] }
    let lost := bank copying 0 fun b => { b with owner := none }
    let half := copying.setRun 0 1 0 { data := [(0, List.replicate 64 7)] }
    let src : CopyPiece := ((0x1000, 64), .spad 0x1000)
    let dst : CopyPiece := ((0x2000, 64), .spad 0x2000)
    ((copying.core 0).cards.find? (fun d => d.id = 1) = some d ∧ (d.copies.any fun p => p.1 = 0) = true ∧ d.barred.contains 0 = false ∧ d.outcome = none ∧ cardBmen d.raw = false
      ∧ copying.copyPieces 0 d 0 = .ok p ∧ (opened copying).1 = true ∧ ((opened copying).2.cardRun 0 1 0).bad = none)
    ∧ (w.copyPieces 0 d 0 = .ok p ∧ (opened w).1 = false) ∧ (x.copyPieces 0 d 0 = .ok p ∧ (opened x).1 = true ∧ ((opened x).2.cardRun 0 1 0).bad = some stEcc)
    ∧ (∃ e, lost.copyPieces 0 d 0 = .error e) ∧ (4 ≤ (sfcAt 4).sfc ∧ (sfcAt 4).pieceWaits 0 d 4 src.2 = false ∧ ((sfcAt 4).cardRun 0 1 0).bad = none ∧ ((sfcAt 4).cardRun 0 1 0).did 0 = false
      ∧ (sfcAt 4).poisoned (spadAddr 0 0x1000) 64 = false ∧ x.poisoned (spadAddr 0 0x1000) 64 = true ∧ (x.cardRun 0 1 0).did 0 = false)
    ∧ (copying.pieceWaits 0 d 0 dst.2 = false ∧ (copying.cardRun 0 1 0).readAll 1 = false ∧ (half.cardRun 0 1 0).readAll 1 = true ∧ (half.cardRun 0 1 0).did 1 = false ∧ (half.cardRun 0 1 0).bad = none) := by
  and_intros <;> first | decide +kernel | exact error_of _ (by decide +kernel)

/-- An item of context 0 at a bank. -/
def item (w : BankWork) (ends : Option Nat) : BankItem := { core := 0, ctx := 0, work := w, issued := 0, notBefore := 0, cycle := 0, ends := ends }
/-- Bank 0 of core 0 with one item, at an SFC value. -/
def atBank (w : BankWork) (ends : Option Nat) (sfc : Nat) : State := { bank base 0 (fun b => { b with queue := [item w ends] }) with sfc := sfc }
/-- R263: a fill of 128 words ends 8 cycles after its start and then writes them; R266: TFAA adds; R242: an arrival. -/
theorem test_bank_steps :
    let op : TrowelOp := .range 0x0D 0 1 7
    (match exec (.trowelCommandStart 0 0) (atBank (.trowel op 0x400 0 none) none 20) with | .next t => decide ((t.bank 0 0).queue.map (fun i => i.ends) = [some 27]) | _ => false) = true
    ∧ (op.perform base 0 0x400).1.bankWord 0 0x5FC = 7 ∧ ((TrowelOp.atomic 0x11 5 0).perform (put base 0x40 [1]) 0 0x40).1.bankWord 0 0x40 = 6
    ∧ (match exec (.barrierArrival 0 0) (put (atBank (.arrival 0x40 1) none 20) 0x40 (leBytes 8 (2 * 2 ^ 32 + 1))) with
        | .next t => decide (leValue (t.spadRead 0 0x40 8) = 2 ^ 63 + 2 * 2 ^ 32) | _ => false) = true := by decide +kernel
theorem witness_bankSteps :
    let st := atBank (.store [(0x40, 1), (0x41, 2)]) none 20
    let due := core st fun k => { k with cycle := 2 }
    let ld := atBank (.load 0 .b 0 0x40 8) none 20
    let tr := atBank (.trowel (.range 0x0D 0 1 7) 0x400 0 none)
    let held := ctx ld fun x => { x with pend := [{ dueLoad 0 with kind := .load (.atomic 5) [⟨0, 8, 0x400, none, none, none, 0, none⟩] }] }
    let one (w : BankWork) (e : Option Nat) (s : State) : Bool := decide ((s.bank 0 0).queue = [item w e])
    coreExists 0 = true ∧ base.mem.wf = true ∧ (base.bank 0 0).queue = []
    ∧ (ld.ripe (item (.load 0 .b 0 0x40 8) none) 0 = true ∧ (held.ripe (item (.load 1 .b 0 0x40 8) none) 1 = false))
    ∧ (one (.store [(0x40, 1), (0x41, 2)]) none st = true ∧ (item (.store [(0x40, 1), (0x41, 2)]) none).storeDue 0 (st.core 0) = false)
    ∧ (one (.store [(0x40, 1), (0x41, 2)]) none due = true ∧ (item (.store [(0x40, 1), (0x41, 2)]) none).storeDue 0 (due.core 0) = true)
    ∧ (one (.load 0 .b 0 0x40 8) none ld = true ∧ (item (.load 0 .b 0 0x40 8) none).core = 0)
    ∧ (one (.arrival 0x40 1) none (atBank (.arrival 0x40 1) none 20) = true ∧ (item (.arrival 0x40 1) none).notBefore ≤ 20 ∧ (20 : Nat) < { item (.arrival 0x40 1) none with notBefore := 21 }.notBefore)
    ∧ (one (.trowel (.range 0x0D 0 1 7) 0x400 0 none) none (tr none 20) = true ∧ (item (.trowel (.range 0x0D 0 1 7) 0x400 0 none) none).notBefore < 20)
    ∧ (one (.trowel (.range 0x0D 0 1 7) 0x400 0 none) (some 27) (tr (some 27) 20) = true ∧ (20 : Nat) < 27 ∧ (27 : Nat) ≤ 27)
    ∧ (one (.orWord 0x40 1) none (atBank (.orWord 0x40 1) none 20) = true) ∧ (TrowelOp.range 0x0D 0 1 7).badWord (tr (some 27) 27) (item (.trowel (.range 0x0D 0 1 7) 0x400 0 none) (some 27)) 0 0x400 0 = none
    ∧ ((TrowelOp.atomic 0x11 5 0).badWord { tr (some 27) 27 with poison := [spadAddr 0 0x400] } (item (.trowel (.atomic 0x11 5 0) 0x400 0 none) (some 27)) 0 0x400 0).isSome = true
    ∧ ((0x1FFE00 : Nat) + 512 ≤ 2 ^ 21 ∧ 0x1F0000 + 512 * 128 ≤ (2 : Nat) ^ 21) := by decide +kernel
/-- Bank 0 of core 0 as a page of 64 KiB for the host, with SYSATOM or not; banks on the way into CACHE and out of it. -/
theorem witness_bankSteps_host :
    let y := mapped base 16 true
    let n := mapped base 5 true
    let a (s : State) : Option Leaf := hostLeaf s 0x40000008
    (∃ l, a y = some l ∧ l.sysatom = true ∧ (0x40000008 : Nat) % 8 = 0 ∧ l.wr = true ∧ (y.bank (bits l.pa 29 21) (bits l.pa 20 16)).mode.plain = true ∧ y.queueHeld (bits l.pa 29 21) (bits l.pa 20 16) < 16) ∧ (∃ l, a n = some l ∧ l.sysatom = false) ∧ hostLeaf y 0 = none
    ∧ ((bank base 0 fun b => { b with mode := .toCache }).bank 0 0).mode = .toCache ∧ ((bank base 0 fun b => { b with mode := .toCache }).bank 0 0).notify = none
    ∧ ((bank base 0 fun b => { b with mode := .fromCache }).bank 0 0).mode = .fromCache ∧ (base.bank 0 0).mode.plain = true :=
  ⟨⟨_, rfl, by decide +kernel⟩, ⟨_, rfl, by decide +kernel⟩, by decide +kernel⟩

/-! ### Regions and channels (spec/17 to 20) -/

/-- A skim command of context 0 for offset 0 of its region. -/
def skim (op : SkimOp) (coat : Option Nat) : SkimCmd :=
  { core := 0, ctx := 0, bid := 0, notify := { core := 0, ctx := 0, sem := none, arrive := none }, off := 0, op := op, seq := 0, retiredAt := 0, coat := coat, order := 0, silent := false }
/-- An update of cluster 0 that adds 5 to each word. -/
def add5 : SkimOp := .sku 0 1 (Vector.replicate 128 5)
/-- The region over the mapped page with one slice in a CUR window of 144 ticks. -/
def swept (step : Bool) (f : Region → Region) : State :=
  { regional step with regions := [(0, f (region step))], chans := [(0, { Channel.reset with power := .active, running := true, table := [0x2090000000000000], ends := 144 })] }
/-- Its slice. -/
def oneSlice (f : Slice → Slice) (g : Region) : Region := { g with slices := [f slice] }

/-- R288: a command admitted in a coat is for the coat after it; R289, R290: the cursor's visit of a row adds to the enabled cluster's words; R291: the last unit
ends the coat. -/
theorem test_regions :
    let a := swept false (oneSlice fun x => { x with busy := true, transit := [skim add5 none] })
    let v := swept false (oneSlice fun x => { x with busy := true, queue := [skim add5 (some 1)] })
    let e := swept false (oneSlice fun x => { x with busy := true, row := 1024 })
    (match exec (.skimAdmission 0 0) a with | .next t => decide (t.regions.flatMap (fun p => p.2.slices.flatMap fun x => x.queue.map fun q => q.coat) = [some 2]) | _ => false) = true
    ∧ (let t := v.serveUpdate 0 (oneSlice (fun x => { x with busy := true }) (region false)) { slice with busy := true } 1 (skim add5 (some 1))
       Memory.value t.mem 0x200000 4 = 5 ∧ Memory.value t.mem 0x20003C 4 = 5 ∧ Memory.value t.mem 0x200040 4 = 0)
    ∧ (match exec (.coatComplete 0 0) e with | .next t => decide (t.regions.flatMap (fun p => p.2.slices.map fun x => (x.done, x.busy)) = [(1, false)]) | _ => false) = true := by decide +kernel
/-- R305: with eta = 1 and mu = 0 a commit takes the gradient 1.0 from a master of 3.0, keeps its negative as the change and itself as the momentum. -/
theorem test_commit : commitWord 0 0x3F800000 0x40400000 0x40A00000 0x3F800000 = (0x3F800000, 0xBF800000, 0x40000000) := by decide +kernel

/-- The hypotheses on the slice: it stands at a region's index. -/
def at0 (s : State) (g : Region) (sl : Slice) : Bool := decide (s.sliceAt 0 0 = some (g, sl))
theorem witness_regions_slices :
    let b (f : Slice → Slice) : Region := oneSlice (fun x => f { x with busy := true }) (region false)
    let st (f : Slice → Slice) : Region := oneSlice (fun x => f { x with busy := true }) (region true)
    let s (g : Region) : State := swept g.step fun _ => g
    let add := skim add5 (some 1)
    let q : SkimCmd := skim add5 none
    let two : Region := { region false with slices := [{ slice with done := 1 }, slice] }
    let cm : Region := { st id with commit := some 1 }
    State.reset.sliceAt 0 0 = none ∧ (at0 (s (region false)) (region false) slice = true ∧ (region false).nextAdmitted slice.transit [] = none)
    ∧ ({ s (region false) with links := (s (region false)).links.map fun l => { l with state := .down } } : State).diesJoined (skim add5 none).core 1 = false
    ∧ ((oneSlice (fun x => { x with transit := [q] }) (region false)).nextAdmitted [q] [] = some q ∧ (s (region false)).diesJoined (q.core / 128) (slice.pc / 256) = true)
    ∧ ((s two).sliceAt 0 1 = some (two, slice) ∧ slice.busy = false ∧ (∀ x ∈ two.slices, slice.done ≤ x.done ∧ (s two).diesJoined (x.pc / 256) (slice.pc / 256) = true) ∧ (s two).curOpen slice 1 = true
        ∧ ∃ x ∈ two.slices, x.done ≠ slice.done ∨ x.busy = true)
    ∧ (at0 (s (b id)) (b id) { slice with busy := true } = true ∧ slice.row < (b id).unitsIn 0 ∧ slice.workFor (b id) slice.row 1 = [] ∧ (b id).commit ≠ some 1 ∧ (b id).step = false ∧ (st id).step = true
        ∧ slice.row < (st id).unitsIn 0 ∧ slice.workFor (st id) slice.row 1 = [] ∧ (st id).commit ≠ some 1)
    ∧ (let g := b fun x => { x with queue := [add] }
       let sl : Slice := { slice with busy := true, queue := [add] }
       at0 (s g) g sl = true ∧ sl.row < g.unitsIn 0 ∧ sl.workFor g sl.row 1 = [add])
    ∧ (at0 (s cm) cm { slice with busy := true } = true ∧ slice.row < cm.unitsIn 0 ∧ slice.workFor cm slice.row 1 = [])
    ∧ (b fun x => { x with row := 1024 }).unitsIn 0 ≤ 1024 ∧ ({ cm with slices := [{ slice with busy := true, row := 256 }] } : Region).unitsIn 0 ≤ 256
    ∧ ({ two with slices := [{ slice with busy := true, row := 512 }, slice] } : Region).slices[1]? = some slice ∧ slice.done < 1
    ∧ (let w := skim (.wld 0x40 0 0 7) (some 1)
       at0 (s (st fun x => { x with queue := [w], done := 3 })) (st fun x => { x with queue := [w], done := 3 }) { slice with busy := true, queue := [w], done := 3 } = true ∧ 1 + (st id).params.wlim ≤ 7) := by
  decide +kernel
/-- Reading rows without an error leaves all but the draws and the count of the channel's transfers. -/
theorem openRow_sound (s : State) (a : Nat) (h : ∀ n, Config.dramError n = 0) :
    s.openRow a = { s with free := s.free + 2, chans := (s.countTransfer (chanOfPc (homePc a))).chans } := by
  simp [State.openRow, State.dramRead, State.countTransfer, State.modChan, h]
/-- The visit of a row with an update, and of a group of the commit coat, sound and with an uncorrectable error. -/
theorem witness_regions_visits (h : ∀ n, Config.dramError n = 0) :
    let g := oneSlice (fun x => { x with busy := true, queue := [skim add5 (some 1)] }) (region false)
    let sl : Slice := { slice with busy := true, queue := [skim add5 (some 1)] }
    let s := swept false fun _ => g
    let cm : Region := { oneSlice (fun x => { x with busy := true }) (region true) with commit := some 1 }
    let z := swept true fun _ => cm
    let p := { z with poison := [0x200800] }
    let rows (s : State) : State := [0, 1, 2, 3].foldl (fun t j => t.openRow (0x200000 + 2048 * j)) s
    (s.curOpen sl 27 = true ∧ s.regionHome g sl (g.unitOff 0 sl.row) = some 0x200000 ∧ (s.openRow 0x200000).regionHome g sl 0 = some 0x200000
      ∧ (s.openRow 0x200000).poisoned (0x200000 / 2048 * 2048) 2048 = false ∧ s.mem.wf = true ∧ (s.ctx 0 0).status ≠ .saved)
    ∧ (z.curOpen slice 27 = true ∧ z.regionHome cm slice (cm.unitOff 0 0) = some 0x200000 ∧ (rows z).regionHome cm slice (cm.unitOff 0 0) = some 0x200000
      ∧ (∀ j, j < 4 → (rows z).poisoned (0x200000 + 2048 * j) 2048 = false) ∧ z.mem.wf = true)
    ∧ ((rows p).regionHome cm slice (cm.unitOff 0 0) = some 0x200000 ∧ ∃ j, j < 4 ∧ (rows p).poisoned (0x200000 + 2048 * j) 2048 = true) := by
  simp only [List.foldl_cons, List.foldl_nil, openRow_sound _ _ h]
  exact ⟨by decide +kernel, by decide +kernel, by decide +kernel, 1, by decide +kernel⟩
/-- One slice is every slice: none other is behind. -/
theorem witness_regions_last : ∀ x j, [slice][j]? = some x → j ≠ 0 → 1 ≤ x.done := by
  intro x j h n
  cases j with
  | zero => exact absurd rfl n
  | succ j => simp at h
theorem witness_regions :
    let on (g : Region) : State := { State.reset with regions := [(0, g)] }
    let late : Region := { oneSlice (fun x => { x with done := 7 }) (region true) with readyCoat := some 2 }
    let gone (d : Nat) : Region := { oneSlice (fun x => { x with done := d }) (region false) with state := .draining, drainFrom := some 3, destroyTags := [77] }
    ((AMap.get? (on (region true)).regions 0 = some (region true) ∧ (region true).readyCoat = none) ∧ (AMap.get? (on late).regions 0 = some late ∧ late.readyCoat = some 2 ∧ late.commit = none
        ∧ { slice with done := 7 } ∈ late.slices ∧ 2 + late.params.dlim ≤ ({ slice with done := 7 } : Slice).done))
    ∧ (region true).state ≠ .draining
    ∧ (AMap.get? (on (gone 3)).regions 0 = some (gone 3) ∧ (gone 3).state = .draining ∧ (∀ sl ∈ (gone 3).slices, sl.queue = [] ∧ sl.transit = [] ∧ sl.reserved = 0) ∧ (gone 3).drainFrom = some 3 ∧ (gone 3).coatDone ≤ 3)
    ∧ ((gone 4).state = .draining ∧ (∀ sl ∈ (gone 4).slices, sl.queue = [] ∧ sl.transit = [] ∧ sl.reserved = 0) ∧ (gone 4).drainFrom = some 3 ∧ 3 < (gone 4).coatDone
        ∧ AMap.sortedFrom 0 (on (gone 4)).regions = true) ∧ AMap.get? State.reset.regions 0 = none := by decide +kernel

/-- A channel that runs the default table. -/
def running0 : Channel := { Channel.reset with power := .active, running := true }
/-- Channel 0, running, changed, at a tick. -/
def chan0 (tick : Nat) (f : Channel → Channel) : State := { base with sfc := 4 * tick, chans := [(0, f running0)] }
/-- An ordinary access of 8 bytes at 0x40. -/
def access (bytes : Option (List Byte)) : DramReq :=
  { core := 0, ctx := 0, bid := 0, slot := .d, off := 0, addr := 0x40, len := 8, bytes := bytes, policy := 0, prefetch := false }
/-- A channel command with its reply word at 0x100. -/
def chcmd (op : ChanOp) : ChanCmd :=
  { core := 0, ctx := 0, notify := { core := 0, ctx := 0, sem := none, arrive := none }, reply := 0x100, op := op, silent := false, taken := false }
/-- R318, R320: entry 1 of the default table follows entry 0 after 144 ticks, for 48; R331: the default table, put
into a scratchpad, is staged, and a table of kind 15 is refused by rule 1. -/
theorem test_channels :
    let l (w : Word64) : State := put (chan0 5 fun c => { c with cmds := [chcmd (.load 0x200 4)] }) 0x200 ([w, 0x3030000000000000, 0x1020000000000000, 0x4020000000000000].flatMap fun x => leBytes 8 x.toNat)
    (match exec (.timetableEntry 0) (chan0 144 id) with | .next t => decide (((t.chan 0).idx, (t.chan 0).start, (t.chan 0).ends) = (1, 144, 192)) | _ => false) = true
    ∧ (match exec (.timetableStage 0) (l 0x1090000000000000) with | .next t => decide ((t.chan 0).staged = some defaultTable ∧ leValue (t.spadRead 0 0x100 8) = 0) | _ => false) = true
    ∧ (match exec (.timetableStage 0) (l 0xF090000000000000) with | .next t => decide ((t.chan 0).staged = none ∧ leValue (t.spadRead 0 0x100 8) = stRejected * 2 ^ 56 + 2 ^ 16) | _ => false) = true := by
  decide +kernel

/-- A pass whose window page is at frame 0. -/
def pass0 : Pass := { cwaddr := 0, frames := [(0, 0)], since := 0, count := [], done := [], laps := 0, redo := [] }
theorem witness_channels_entries :
    let n := chan0 150 fun c => { c with visit := some 150, pass := some pass0, table := [0x5020000000000000 + 3 * 2 ^ 42] }
    let o := nbOf ((n.chan 0).table[(n.chan 0).visitOp]?.getD 0)
    let e := chan0 144 id
    let w := chan0 5 fun c => { c with q0 := [access (some [7])], q1 := [access none] }
    (State.reset.chan 0).advances = false ∧ ((e.chan 0).advances = true ∧ (e.chan 0).ends ≤ e.tick ∧ (e.chan 0).refreshRound = none ∧ (e.chan 0).starting = none ∧ (e.chan 0).stopping = false ∧ (e.chan 0).visit = none)
    ∧ ((e.chan 0).openFor 1 e.tick = false ∧ takeFirst e.llcServes [] (e.chan 0).q0 = none) ∧ ((w.chan 0).openFor 1 w.tick = true ∧ (access none).due ≤ w.sfc ∧ (w.chan 0).q0 = [access (some [7])] ∧ (w.chan 0).q1 = [access none])
    ∧ AMap.get? (e.chan 0).spareCopy 0 = none ∧ (w.chan 0).openFor 1 w.tick = true ∧ ((AMap.get? (({ Channel.reset with spareCopy := [(0, 9)] } : Channel)).spareCopy 0).isSome = true ∧ AMap.getD (e.chan 0).spares 0 0 < 8)
    ∧ ((e.chan 0).visit = none ∧ (e.chan 0).pass = none) ∧ ((n.chan 0).visit = some 150 ∧ 150 ≤ n.tick ∧ (n.chan 0).pass = some pass0 ∧ pass0.redo = [] ∧ (0 : Nat) < (n.chan 0).table.length ∧ o.op = 3 ∧ o.dup = false ∧ o.all = false
        ∧ ∀ i, i < 16 → n.poisoned (pass0.column o.pc o.row o.bank (16 * o.cg + i)) 32 = false) := by decide +kernel
/-- A write of a whole sector. -/
def sector : DramReq := { access (some (List.replicate 64 7)) with len := 64 }
/-- Outside a WIN entry the last-level cache takes a write of policy 00. -/
theorem witness_channels_cached :
    let x := chan0 144 fun c => { c with q0 := [sector], ends := 144 }
    (x.chan 0).openFor 1 x.tick = false ∧ takeFirst x.llcServes [] (x.chan 0).q0 = some (sector, []) := by
  intro x
  have q : (x.chan 0).q0 = [sector] := by decide +kernel
  have n : x.nearArmed 0x40 = false := by decide +kernel
  have serves : x.llcServes sector = true := by simp [State.llcServes, sector, access, n]
  exact ⟨by decide +kernel, by rw [q, takeFirst, serves]; rfl⟩
theorem witness_channels_commands :
    let l := put (chan0 5 fun c => { c with cmds := [chcmd (.load 0x200 4)] }) 0x200 (defaultTable.flatMap fun x => leBytes 8 x.toNat)
    let b := chan0 5 fun c => { c with cmds := [chcmd (.load 0x200 4)] }
    let x : Starting := { table := defaultTable, due := 0, pass := none, placed := false }
    let st := chan0 150 fun c => { c with starting := some x }
    let sp := chan0 400 fun c => { c with stopping := true, idx := 3, ends := 256 }
    let q := chan0 5 fun c => { c with cmds := [chcmd .stop] }
    let p (n : Nat) : State := chan0 5 fun c => { c with cmds := [chcmd (.power n)] }
    let table (s : State) : List Word64 := (valuesAt (s.engineSpad 0 0 0x200 (8 * 4)) 4).map (BitVec.ofNat 64)
    (base.chan 0).cmds = [] ∧ ((l.chan 0).cmds = [chcmd (.load 0x200 4)] ∧ (chcmd (.load 0x200 4)).taken = false ∧ l.diesJoined (0 / 128) (0 / 128) = true ∧ (l.chan 0).pass = none
        ∧ (chcmd (.load 0x200 4)).silent = false ∧ l.mem.wf = true ∧ (chcmd (.load 0x200 4)).reply % 8 = 0 ∧ (chcmd (.load 0x200 4)).reply < 2 ^ 21 ∧ (l.bank 0 0).queue = [] ∧ l.poisoned (spadAddr 0 0x200) 32 = false ∧ tableFault (table l) (l.skimOn 0) = none
        ∧ ∃ f, tableFault (table b) (b.skimOn 0) = some f)
    ∧ ((base.chan 0).starting = none ∧ (st.chan 0).starting = some x ∧ x.placed = false ∧ (st.chan 0).advances = true ∧ max x.due (st.chan 0).ends ≤ st.tick ∧ (st.chan 0).visit = none
        ∧ (chan0 150 fun c => { c with starting := some { x with placed := true } }).chan 0 = { running0 with starting := some { x with placed := true } })
    ∧ ((sp.chan 0).stopping = true ∧ (sp.chan 0).advances = true ∧ (sp.chan 0).ends ≤ sp.tick ∧ (sp.chan 0).nextIdx = lapEntry (sp.chan 0).table ∧ (sp.chan 0).cmds = [] ∧ (sp.chan 0).pass = none)
    ∧ ((q.chan 0).stopping = false ∧ (q.chan 0).starting = none ∧ (q.chan 0).visit = none ∧ (q.chan 0).pass = none ∧ (q.chan 0).cmds = [chcmd .stop] ∧ (chcmd .stop).op = .stop ∧ q.skimOn 0 = false)
    ∧ (∀ n, n = 1 ∨ n = 2 → ((p n).chan 0).cmds = [chcmd (.power n)] ∧ (p n).skimOn 0 = false ∧ ((p n).chan 0).visit = none ∧ ((p n).chan 0).refreshRound = none ∧ ((p n).chan 0).power = .active
        ∧ ((p n).chan 0).pass = none) :=
  by and_intros <;> first
    | decide +kernel | exact Option.isSome_iff_exists.mp (by decide +kernel) | exact fun n h => by rcases h with rfl | rfl <;> decide +kernel
theorem witness_channels_power :
    let low (f : Channel → Channel) : State := chan0 5 fun c => f { c with power := .selfRefresh }
    let acc := low fun c => { c with q0 := [access none] }
    let wake (n : Nat) : State := chan0 5 fun c => { c with power := .waking, wakeAt := n }
    let lapEnd : State := chan0 5 fun c => { c with power := .waking, wakeAt := 5, stopping := true, idx := 3 }
    let job := low fun c => { c with wanted := true }
    ((chan0 5 id).chan 0).power = .active ∧ ((chan0 5 id).chan 0).cmds = [] ∧ ((job.chan 0).power = .selfRefresh ∧ (job.chan 0).wanted = true ∧ job.overheated = false)
    ∧ ({ low id with air := 46 } : State).overheated = true ∧ ((low id).chan 0).wanted = false ∧ ((wake 5).chan 0).stopping = false ∧ ((wake 5).chan 0).starting = none
    ∧ ((lapEnd.chan 0).power = .waking ∧ (lapEnd.chan 0).cmds = [] ∧ (lapEnd.chan 0).wakeAt ≤ lapEnd.tick ∧ (lapEnd.chan 0).stopping = true ∧ (lapEnd.chan 0).nextIdx = lapEntry (lapEnd.chan 0).table) ∧ (((low id).chan 0).power = .selfRefresh ∧ ((low id).chan 0).cmds = [] ∧ ((low id).chan 0).q0 = [] ∧ ((low id).chan 0).q1 = [])
    ∧ (acc.overheated = false ∧ (acc.chan 0).power = .selfRefresh ∧ (acc.chan 0).cmds = [] ∧ (acc.chan 0).q0 ≠ [])
    ∧ (((wake 9).chan 0).power = .waking ∧ ((wake 9).chan 0).cmds = [] ∧ (wake 9).tick < ((wake 9).chan 0).wakeAt) ∧ (((wake 5).chan 0).power = .waking ∧ ((wake 5).chan 0).wakeAt ≤ (wake 5).tick) := by
  decide +kernel

/-! ### Links, messages and the host (spec/21 to 24) -/

/-- Link 7 (a device link) of the reset machine in a state. -/
def linked (st : LinkState) (f : Link → Link) : State := State.reset.modLink 7 fun l => f { l with state := st }
/-- A flit with sequence number n and a good CRC, or not. -/
def flit (n : Nat) (ok : Bool) : Flit := { type := .idle, credits := 3, seq := n, ackSeq := 0, payload := [], crcOk := ok }
/-- R335: a DOWN link trains; R338: 6 lanes of 8 run as 4; R336: the seventeenth failure of one flit takes the link DOWN. -/
theorem test_links :
    (match exec (.linkEnable 7) State.reset with | .next t => decide ((t.link 7).state = .training) | _ => false) = true
    ∧ (match exec (.linkDegrade 7 6) (linked .up id) with | .next t => decide (((t.link 7).state, (t.link 7).lanes) = (.degraded, 4)) | _ => false) = true
    ∧ (match exec (.flitReceive 7 (flit 0 false)) (linked .up fun l => { l with replays := 16 }) with | .next t => decide ((t.link 7).state = .down) | _ => false) = true
    ∧ (match exec (.flitReceive 7 (flit 0 true)) (linked .up id) with | .next t => decide (((t.link 7).rxSeq, (t.link 7).credits) = (1, 3)) | _ => false) = true := by decide +kernel
theorem witness_linksAndMessages_links :
    let peer : List (Nat × Nat) := List.replicate 7 (1, 1)
    let n := linked .negotiating id
    let u := linked .up id
    ((n.link 7).state = .negotiating ∧ peer.length = 7 ∧ ∀ p ∈ peer, p.1 ≤ 1 ∧ 1 ≤ p.2) ∧ ([] : List (Nat × Nat)).length ≠ 7 ∧ (State.reset.link 7).state ≠ .negotiating
    ∧ ((State.reset.link 7).flows = false ∧ (State.reset.link 7).state ≠ .failed) ∧ (u.link 7).flows = true ∧ ((linked .failed id).link 7).state = .failed
    ∧ ((flit 0 false).crcOk = false ∧ (u.link 7).replays < 16 ∧ 16 ≤ ((linked .up fun l => { l with replays := 16 }).link 7).replays) ∧ ((flit 5 true).crcOk = true ∧ (flit 5 true).seq ≠ (u.link 7).rxSeq)
    ∧ ((flit 0 true).crcOk = true ∧ (flit 0 true).seq = (u.link 7).rxSeq ∧ (flit 0 true).type = .idle ∧ (u.link 7).asksReplay (flit 0 true) = false)
    ∧ (let a : Flit := { flit 0 true with type := .ack, ackSeq := 3 }
       let x (n : Nat) : Link := (linked .up fun l => { l with acked := 3, txReplays := n, txSeq := 5, reqs := [⟨{ core := 0, ctx := 0, bid := 0, slot := .d, off := 0, addr := 0, len := 1, bytes := some [7], policy := 0, prefetch := false }, 4⟩] }).link 7
       a.crcOk = true ∧ a.seq = (x 15).rxSeq ∧ (x 15).flows = true ∧ (x 15).asksReplay a = true ∧ (x 15).txReplays < 16 ∧ (x 16).asksReplay a = true ∧ 16 ≤ (x 16).txReplays) ∧ (UeMode.rudi = .rudi ∨ UeMode.rudi = .uud) := by decide +kernel

/-- A message of 64 bytes for bank 1 of core 0, and that bank in FIFO mode with slots in use. -/
def message : Message :=
  { id := 4, notify := { core := 0, ctx := 0, sem := none, arrive := none }, bytes := List.replicate 64 9, cls := 3, core := 0, bank := 1, remote := none, reply := 0x100, readyAt := 0, silent := false }
def sending (mode : BankMode) (used sfc : Nat) : State :=
  { bank base 1 (fun b => { b with mode := mode, fifoNext := used % 1024, fifo := if used = 0 then [] else [{ cls := 0, len := 64 * used, addr := 0, slots := used, taker := some 1 }] }) with messages := [message], sfc := sfc }
/-- R344: a message that fits takes the next slots, and its reply word is 0. -/
theorem test_send :
    (match exec (.sendDelivery 4) (sending .fifo 1023 0) with
      | .next t => decide ((t.bank 0 1).fifo.map (fun m => (m.addr, m.slots)) = [(0, 1023), (64 * 1023, 1)] ∧ (t.bank 0 1).fifoNext = 0 ∧ t.messages = []) | _ => false) = true := by decide +kernel
theorem witness_linksAndMessages :
    let with_ (f : Message → Message) (s : State) : State := { s with messages := [f message] }
    let ok (f : Message → Message) (s : State) : Bool := decide (s.messages.find? (fun m => m.id = 4) = some (f message) ∧ s.mem.wf = true ∧ (f message).reply % 8 = 0
      ∧ (f message).reply < 2 ^ 21 ∧ (f message).silent = false ∧ (f message).core < 512 ∧ (f message).bank < 32 ∧ (f message).notify.core < 512 ∧ 64 ≤ (f message).bytes.length
      ∧ (s.bank (f message).notify.core ((f message).reply / 65536)).queue = [] ∧ (s.ctx (f message).notify.core (f message).notify.ctx).status ≠ .saved)
    let n := message.bytes.length / 64
    let took (b : Bank) : Nat := if 1024 < b.fifoNext + n then 1024 - b.fifoNext + n else n
    let w := { sending .fifo 0 0 with messages := [{ message with id := 3 }, message] }
    let busy (s : State) : State := bank s 1 fun b => { b with queue := [{ core := 0, ctx := 0, work := .store [(0x10000, 1)], issued := 0, notBefore := 0, cycle := 0, ends := none }] }
    let far (m : Message) : Message := { m with remote := some 1 }
    let apart (m : Message) : Message := { m with core := 128 }
    let late (m : Message) : Message := { m with rel := some { core := 0, ctx := 0, scope := 4, entry := 0, time := 0, sectors := [1] } }
    let put (m : Message) : Message := { m with placed := some 64 }
    let up (s : State) : State := s.modLink 7 fun l => { l with state := .up }
    State.reset.messages.find? (fun m => m.id = 4) = none
    ∧ (ok id (sending .scratch 0 0) = true ∧ message.placed = none ∧ message.remote = none ∧ message.rel = none ∧ (sending .scratch 0 0).sendJoined message = true ∧ (sending .scratch 0 0).sendBehind message = false
        ∧ ((sending .scratch 0 0).bank 0 1).mode ≠ .fifo)
    ∧ (ok id w = true ∧ w.sendJoined message = true ∧ w.sendBehind message = true)
    ∧ (ok apart (with_ apart (sending .fifo 0 0)) = true ∧ (apart message).placed = none ∧ (sending .fifo 0 0).sendJoined (apart message) = false)
    ∧ (let s := { with_ late (sending .fifo 0 0) with chans := [(0, { Channel.reset with q0 := [{ access (some [1]) with addr := 64 }] })] }
       ok late s = true ∧ (late message).rel.any (fun r => !s.released r) = true)
    ∧ (ok far (with_ far (up (sending .fifo 0 0))) = true ∧ (far message).placed = none ∧ (far message).remote = some 1 ∧ (with_ far (up (sending .fifo 0 0))).sendJoined (far message) = true ∧ (with_ far (up (sending .fifo 0 0))).sendBehind (far message) = false)
    ∧ (let s := sending .fifo 1023 0
       ok id s = true ∧ s.sendBehind message = false ∧ (s.bank 0 1).mode = .fifo ∧ (s.bank 0 1).fifoUsed + took (s.bank 0 1) ≤ 1024 ∧ (s.bank 0 1).queue = [] ∧ ∀ x ∈ (s.bank 0 1).fifo, x.addr = 64 * 1023 → x.taker ≠ some 5)
    ∧ (let s := busy (sending .fifo 1023 0)
       ok id s = true ∧ s.sendJoined message = true ∧ s.sendBehind message = false ∧ (s.bank 0 1).mode = .fifo ∧ (s.bank 0 1).fifoUsed + took (s.bank 0 1) ≤ 1024 ∧ (s.bank 0 1).queue ≠ [])
    ∧ (let s := with_ put (sending .fifo 0 0)
       ok put s = true ∧ (put message).placed = some 64 ∧ (s.bank 0 1).awaits (put message) 64 = false)
    ∧ (let s := sending .fifo 1024 (2 ^ 20)
       ok id s = true ∧ s.sendBehind message = false ∧ (s.bank 0 1).mode = .fifo ∧ 1024 < (s.bank 0 1).fifoUsed + took (s.bank 0 1) ∧ message.readyAt + 2 ^ 20 ≤ s.sfc)
    ∧ (sending .fifo 1024 0).sfc < message.readyAt + 2 ^ 20 ∧ (far message).remote.isSome = true := by decide +kernel

/-- A READY module with one page of 2 MiB at 1 GiB in a state. -/
def paged (st : PageState) : State := { ready State.reset with pages := [(2 ^ 30, { state := st, frame := 2 ^ 21, small := false, attr := 0, wr := true })] }
/-- R279: a host write goes to the page's place; R281: an overlapping PMAP answers the first page's index; R280: PSTAT. -/
theorem test_host_pages :
    (match exec (.hostWrite 5 0x40000010 [7, 8]) (mappedAt (ready State.reset) (2 ^ 47) 0 true) with
      | .next t => decide (Memory.get t.mem (spadAddr 0 0x11) = 8 ∧ t.out = [⟨.response, 5, stOk, []⟩]) | _ => false) = true
    ∧ answered (.hostWrite 5 0x40000010 [7]) (mapped (ready State.reset) 0 false) = some ⟨.response, 5, stAttr, []⟩ ∧ answered (.pmap hdr (2 ^ 30 - 2 ^ 21) (2 ^ 22) 128) (paged .mapped) = some ⟨.response, 77, stAttr, [1]⟩
    ∧ answered (.pstat hdr (2 ^ 30)) (paged .pinned) = some ⟨.response, 77, stOk, [2, 2 ^ 21, 128]⟩ := by decide +kernel
theorem witness_hostPages_transfers :
    let w := mapped (ready State.reset) 0 true
    let r := mapped (ready State.reset) 0 false
    (∃ l, hostLeaf w 0x4000FFF8 = some l ∧ l.allows false = true ∧ l.remote = false ∧ l.allows true = true) ∧ (∃ l, hostLeaf r 0x4000FFF8 = some l ∧ l.allows true = false)
    ∧ hostLeaf State.reset 0x4000FFF8 = none ∧ (0 : Nat) < 8 ∧ 0x4000FFF8 % 65536 + 8 ≤ 65536 ∧ (badHeader hdr = false ∧ w.takesCommands = true) :=
  ⟨⟨_, rfl, by decide +kernel⟩, ⟨_, rfl, by decide +kernel⟩, by decide +kernel⟩
/-- A machine whose page at 1 GiB lies in a bank, and one in which a store has reached that bank first. -/
def banked : State := mappedAt (ready State.reset) (2 ^ 47) 0 true
def bankBusy : State :=
  banked.modBank 0 0 fun b => { b with queue := [{ core := 0, ctx := 0, work := .store [(0, 1)], issued := 0, notBefore := 0, cycle := 0, ends := none }] }
theorem witness_hostPages_banks :
    (hostBanksQuiet (mapped (ready State.reset) 0 true) true [(0x40000000, 8)] = true ∧ hostBanksQuiet (mapped (ready State.reset) 0 true) false [(0x40000000, 8)] = true)
    ∧ (hostBanksQuiet banked true [(0x40000000, 8)] = true ∧ hostBanksQuiet banked false [(0x40000000, 8)] = true)
    ∧ (hostBanksQuiet bankBusy true [(0x40000000, 8)] = false ∧ hostBanksQuiet bankBusy false [(0x40000000, 8)] = false)
    ∧ ∃ l, hostLeaf bankBusy 0x40000000 = some l ∧ l.allows true = true ∧ l.allows false = true ∧ l.remote = false :=
  ⟨by decide +kernel, by decide +kernel, by decide +kernel, _, rfl, by decide +kernel⟩
/-- R258: a host write waits behind what has reached its bank. -/
theorem test_host_write_waits :
    (match exec (.hostWrite 5 0x40000010 [7, 8]) bankBusy with
      | .next t => decide (Memory.get t.mem (spadAddr 0 0x11) = 0 ∧ t.out = [] ∧ t.hostJobs = [.write 5 0x40000010 [7, 8] []]) | _ => false) = true := by decide +kernel
/-- A transfer waits: the channels of a reset machine are in no WIN entry, and its last-level caches are empty; of an armed pass's storage too. -/
def armed : State := { mapped (ready State.reset) 0 true with chans := [(0, { Channel.reset with pass := some { pass0 with frames := [(0, 0x200000)] } })] }
theorem witness_hostPages_waits :
    let w := mapped (ready State.reset) 0 true
    (hostSectors w false [(0x40000000, 8)] = [0x200000] ∧ (w.fetchSectors [0x200000]).1 = false) ∧ (hostSectors armed true [(0x40000000, 8)] = [0x200000] ∧ armed.homeOpen [0x200000] = false)
    ∧ (∃ l, hostLeaf armed 0x40000000 = some l ∧ l.allows true = true ∧ l.remote = false) ∧ (w.homeOpen [0x200000] = true)
    ∧ (hostSectors banked false [(0x40000000, 8)] = [] ∧ (w.fetchSectors []).1 = true) := by
  have closed : ∀ ch : Nat, (armed.chan ch).openFor 1 armed.tick = false := by
    intro ch
    simp only [State.chan, armed, AMap.getD, AMap.get?]
    split <;> simp [Channel.openFor, Channel.advances, Channel.reset]
  have asked : ∀ c ch n : Nat, (((mapped (ready State.reset) 0 true).modChan c fun x => { x with wanted := true }).chan ch).openFor 1 n = false := by
    intro c ch n
    simp only [State.chan, State.modChan, mapped, mappedAt, ready, State.reset, AMap.getD, AMap.get?, AMap.set]
    split <;> simp_all [Channel.openFor, Channel.advances, Channel.reset]
  refine ⟨⟨by decide +kernel, ?_⟩, ⟨by decide +kernel, ?_⟩, ⟨_, rfl, by decide +kernel⟩, by decide +kernel, by decide +kernel⟩
  · have d : ∀ i : Fin 4, ((mapped (ready State.reset) 0 true).dies[i]).llc = [] := by decide +kernel
    have cache : (mapped (ready State.reset) 0 true).llcHit 0x200000 = false := (congrArg (fun l => List.contains l (0x200000 / 64)) (d (dieIx _))).trans rfl
    have win : (mapped (ready State.reset) 0 true).winOpen 0x200000 = false := by simp [State.winOpen, State.chan, mapped, mappedAt, ready, State.reset, AMap.getD, AMap.get?, Channel.openFor, Channel.advances, Channel.reset]
    have late (c : Nat) : ((mapped (ready State.reset) 0 true).modChan c fun x => { x with wanted := true }).llcHit 0x200000 = false := cache
    have shut (c : Nat) : ((mapped (ready State.reset) 0 true).modChan c fun x => { x with wanted := true }).winOpen 0x200000 = false := asked c _ _
    simp only [State.fetchSectors, List.foldl_cons, List.foldl_nil, List.all_cons, List.all_nil, win, cache, Bool.and_false, Bool.false_eq_true, if_false]
    split <;> simp [win, cache, late, shut]
  · have near : armed.nearArmed 0x200000 = true := by decide +kernel
    simp [State.homeOpen, State.winOpen, near, closed]
theorem witness_hostPages_pmap :
    let s := paged .mapped
    let full := { ready State.reset with retired := [(0, 2 ^ 50)] }
    let bad (s : State) (va : Nat) : Nat → Bool := fun i => !s.pageFree (va + 2 ^ 21 * i) (2 ^ 21)
    (badHeader hdr = false ∧ s.takesCommands = true ∧ bitAt 128 8 = false ∧ 128 % 2 ^ 7 = 0 ∧ 128 < 2 ^ 9) ∧ ((2 ^ 21 + 1) % 2 ^ 21 ≠ 0 ∧ badAttr 0 false = false ∧ badAttr 4 false = true) ∧ (2 ^ 30 % 2 ^ 21 = 0 ∧ firstPage (2 ^ 21 / 2 ^ 21) (bad s (2 ^ 30)) = some 0)
    ∧ ((2 ^ 30 + 2 ^ 21) % 2 ^ 21 = 0 ∧ firstPage (2 ^ 21 / 2 ^ 21) (bad s (2 ^ 30 + 2 ^ 21)) = none ∧ ∃ t, s.mapPages (2 ^ 30 + 2 ^ 21) 0 true false (2 ^ 21 / 2 ^ 21) = some t)
    ∧ (firstPage (2 ^ 21 / 2 ^ 21) (bad full (2 ^ 30)) = none ∧ full.mapPages (2 ^ 30) 0 true false (2 ^ 21 / 2 ^ 21) = none) :=
  ⟨by decide +kernel, by decide +kernel, by decide +kernel, ⟨by decide +kernel, by decide +kernel, Option.isSome_iff_exists.mp (by decide +kernel)⟩, by decide +kernel⟩
theorem witness_hostPages_pages :
    let one (st : PageState) : Bool := decide (AMap.get? (paged st).pages (2 ^ 30) = some { state := st, frame := 2 ^ 21, small := false, attr := 0, wr := true } ∧ (paged st).takesCommands = true)
    let g := { paged .pinned with regions := [(0, region false)] }
    one .mapped = true ∧ one .pinned = true ∧ one .retiring = true ∧ one .retired = true ∧ (2 : Nat) ^ 21 = ({ state := .mapped, frame := 2 ^ 21, small := false, attr := 0, wr := true } : Page).size
    ∧ (paged .pinned).inRegion (2 ^ 30) = false ∧ g.inRegion (2 ^ 30) = true ∧ AMap.sortedFrom 0 (paged .mapped).pages = true
    ∧ ((paged .mapped).aligned (2 ^ 30) = true ∧ (paged .mapped).aligned (2 ^ 30 + 1) = false ∧ (State.reset.aligned (2 ^ 30) = true))
    ∧ State.reset.pages.find? (fun e => decide (e.1 ≤ 2 ^ 30 ∧ 2 ^ 30 < e.1 + e.2.size)) = none
    ∧ (paged .mapped).pages.find? (fun e => decide (e.1 ≤ 2 ^ 30 ∧ 2 ^ 30 < e.1 + e.2.size)) = some (2 ^ 30, { state := .mapped, frame := 2 ^ 21, small := false, attr := 0, wr := true }) := by decide +kernel
theorem witness_hostPages_regions :
    let c := { paged .mapped with chans := [(0, { Channel.reset with table := [0x2090000000000000] })] }
    let g := { c with regions := [(0, region false)] }
    let p : Page := { state := .mapped, frame := 2 ^ 21, small := false, attr := 0, wr := true }
    (badHeader hdr = false ∧ c.takesCommands = true ∧ g.takesCommands = true) ∧ ((AMap.get? g.regions (0 % 64)).isSome = true ∧ bitAt 0 8 = false)
    ∧ (AMap.get? c.regions (0 % 64) = none ∧ (0 : Nat) < 2 ^ 10 ∧ bits 0 7 6 = 0 ∧ 2 ^ 30 % 2 ^ 21 = 0 ∧ c.rangePages (2 ^ 30) (2 ^ 21) = [(2 ^ 30, some p)] ∧ p.regionable = true ∧ maskPcs [1] = [0]
        ∧ (∀ pc ∈ maskPcs [1], c.noCursor pc = false ∧ ∀ e ∈ c.regions, ∀ sl ∈ e.2.slices, sl.pc ≠ pc)) ∧ AMap.get? c.regions 0 = none ∧ AMap.get? g.regions 0 = some (region false) := by decide +kernel
/-- A stored link: a full one with nothing in it. -/
def stored : CkLink := { id := 8, base := 0, point := 0, pieces := [], pages := [], regions := [], waits := [], complete := true }
/-- A module whose flash holds n bytes. -/
def brimming (n : Nat) : State := { ready State.reset with ckLinks := [{ stored with pieces := [(0, List.replicate n 0)] }] }
theorem brimming_used (n : Nat) : (brimming n).flashUsed = n := by
  simp only [State.flashUsed, CkLink.size, brimming, stored, List.foldl_cons, List.foldl_nil, List.length_replicate, Nat.zero_add, Nat.add_zero]
theorem witness_hostPages_full : ∃ n, 2 ^ 40 < (brimming n).flashUsed + stored.size :=
  ⟨2 ^ 40 + 1, by rw [brimming_used]; exact Nat.lt_add_right _ (Nat.lt_succ_self _)⟩
/-- A module with two 64 KiB CKPT pages of which a link holds the first, written since in one of two states. -/
def twoPieces (t : AMap Nat) : State :=
  let page (n : Nat) : Page := { state := .pinned, frame := 2 ^ 21 + 65536 * n, small := true, attr := 65, wr := true }
  { ready State.reset with pages := [(2 ^ 30, page 0), (2 ^ 30 + 65536, page 1)], ckLinks := [{ stored with pieces := [(2 ^ 30, [])] }], touched := t }
theorem witness_hostPages_pieces :
    let l : CkLink := { stored with pieces := [(2 ^ 30, [])] }
    let w := twoPieces [(32, 1)]
    let c := twoPieces []
    let p (s : State) (n : Nat) : Nat × Nat × List Byte := (2 ^ 30 + 65536 * n, 2 ^ 21 + 65536 * n, Memory.read s.mem (2 ^ 21 + 65536 * n) 65536)
    (w.chainOf 8 = some [l] ∧ [l].getLast? = some l ∧ AMap.get? w.touched ((p w 0).2.1 / 65536) = some 1 ∧ l.event < 1)
    ∧ (c.chainOf 8 = some [l] ∧ (AMap.get? c.touched ((p c 0).2.1 / 65536)).all (fun t => decide (t ≤ l.event)) = true)
    ∧ w.ckPieces = [p w 0, p w 1] ∧ c.ckPieces = [p c 0, p c 1] ∧ c.newPieces [l] = [((p c 1).1, (p c 1).2.2)] := by
  and_intros <;> first | rfl | decide +kernel
theorem witness_hostPages_checkpoints :
    let s := { ready State.reset with ckLinks := [stored] }
    (badHeader hdr = false ∧ s.takesCommands = true) ∧ (s.ckLink? 8).isSome = true ∧ (s.ckLink? 9 = none ∧ (9 : Nat) ≠ 0 ∧ 9 < 2 ^ 32 ∧ s.regions = []
        ∧ s.flashUsed + stored.size ≤ 2 ^ 40)
    ∧ (∀ l ∈ s.ckLinks, l.base ≠ 8) ∧ (s.ckLink? 8 = some stored ∧ stored.base = 0 ∧ stored.complete = true ∧ stored.regions = [] ∧ s.mapMissing stored.pages = some s)
    ∧ ∀ d, ∀ q ∈ (s.die d).queues, q.state = .idle :=
  by and_intros <;> first
    | decide +kernel | rfl | exact fun d => (by decide +kernel : ∀ i : Fin 4, ∀ q ∈ ((ready State.reset).dies[i]).queues, q.state = .idle) (dieIx d)

/-- R234, R381: PLIM from 400 W; R368: the interval of HASHCFG; R369: a ring that is not aligned. -/
theorem test_host_modes :
    let s := ready State.reset
    answered (.plim hdr 399) s = some ⟨.response, 77, stAttr, []⟩ ∧ (match exec (.plim hdr 400) s with | .next t => decide (t.plimit = 400) | _ => false) = true
    ∧ (match exec (.hashcfg hdr (2 ^ 24 + 9)) s with | .next t => decide (t.hashOn = true ∧ t.hashEvery = 10) | _ => false) = true ∧ answered (.trcfg hdr 8 65536 0 0) s = some ⟨.response, 77, stAttr, []⟩ := by
  decide +kernel
/-- The module in the dwell, its firmware verified. -/
def cold : State := { State.reset with recovery := false }
/-- Hash trees of boundary 5, formed and not. -/
def tree (formed : Bool) : HashTree := { boundary := 5, levels := [[[1, 2]]], formed := formed }
theorem witness_hostModes :
    let s := ready State.reset
    let t (f : Bool) : State := { s with trees := [tree f] }
    (badHeader hdr = false ∧ s.takesCommands = true ∧ s.recovery = false ∧ badHeader { hdr with ver := 2 } = true ∧ State.reset.takesCommands = false) ∧ (3 : Fin 4).val = 3 ∧ (4 : Nat) ≤ 4
    ∧ ((2 : Nat) ^ 25 - 1 < 2 ^ 25 ∧ (2 : Nat) ^ 25 ≤ 2 ^ 25) ∧ s.trees.find? (fun t => t.boundary = 5) = none ∧ ((t false).trees.find? (fun t => t.boundary = 5) = some (tree false) ∧ (tree false).formed = false)
    ∧ ((t true).trees.find? (fun t => t.boundary = 5) = some (tree true) ∧ (tree true).formed = true ∧ (tree true).levels.getLast? = some ([1, 2] :: []))
    ∧ ((4096 : Nat) % 4096 = 0 ∧ (∃ i, i < 15 ∧ (65536 : Nat) = 2 ^ (16 + i)) ∧ (1024 : Nat) ≤ 1024 ∧ (8 : Nat) % 4096 ≠ 0) ∧ ((103 : Nat) < 104 ∧ (104 : Nat) ≤ 104 ∧ (400 : Nat) ≤ 400 ∧ (65535 : Nat) < 2 ^ 16 ∧ (399 : Nat) < 400)
    ∧ ({ s with recovery := true }.recovery = true ∧ s.stage = .ready ∧ cold.recovery = false ∧ cold.stage ≠ .ready) ∧ (List.replicate 32 (0 : BitVec 8)).length = 32 ∧ ([] : List (BitVec 8)).length ≠ 32 :=
  by decide +kernel

/-- R378, R379: bring-up's training follows the dwell; a first low margin raises the voltage, and the next skips; R381: an overheated die. -/
theorem test_module :
    (match exec (.dwellEnd true) cold with | .next t => decide (t.stage = .train ∧ (t.link 0).state = .training) | _ => false) = true
    ∧ (match exec (.marginLow 1 2) State.reset with | .next t => decide (((t.die 1).domains[domIx 2]).raised = true ∧ ((t.die 1).domains[domIx 2]).skipping = false) | _ => false) = true
    ∧ (match exec (.scrub (0 * 2 ^ 20 + 2 ^ 60 + 64 * 2 + 5) (some true)) base with | .next t => decide (((t.core 0).accRow 0 2)[(4 : Fin 64)] = 0x7FC00000 ∧ ((t.core 0).accRow 0 2)[(6 : Fin 64)] = 0) | _ => false) = true := by
  decide +kernel
theorem witness_moduleEvents :
    let r := cold
    let d := r.modDie 1 fun x => { x with domains := x.domains.set (domIx 2) ⟨true, false, some 5, 1⟩ }
    let tr := { mapped base 0 true with trace := ⟨0x40000000, 65536, 1024, 8, 0, 0⟩, sfc := 2048 }
    let h := { r with hashOn := true, hashEvery := 4, sfc := 2048 }
    (r.stage = .dwell ∧ r.recovery = false ∧ coreExists 511 = false ∧ coreExists 487 = true) ∧ { r with stage := .train }.stage ≠ .ramp ∧ { r with stage := .ramp }.stage = .ramp
    ∧ (((d.die 1).domains[domIx 2]).lastDroop = some 5 ∧ d.sfc < 5 + 4096) ∧ (((r.die 1).domains[domIx 2]).lastDroop = none ∧ r.trace.size = 0 ∧ r.trace.period = 0)
    ∧ (tr.trace.period ≠ 0 ∧ tr.sfc % tr.trace.period = 0 ∧ 32 * tr.trace.index < tr.trace.size ∧ bitAt tr.trace.mask 3 = true ∧ Machine.translate tr 0 (tr.trace.base + 32 * tr.trace.index) = some { pa := 0x200000, attr := 0, wr := true, size := 2 ^ 21 })
    ∧ ((2 : Nat) ^ 47 - 1 < 2 ^ 47 ∧ (2 : Nat) ^ 60 - 1 < 2 ^ 60 ∧ (64 * 16383 + 63 : Nat) = 64 * 16383 + 63) ∧ r.hashOn = false
    ∧ (h.hashOn = true ∧ h.sfc % (256 * h.hashEvery) = 0 ∧ h.hashReads = [] ∧ h.trees = []) ∧ (∀ t ∈ r.trees, t.formed = true) ∧ ([tree false] = [tree false] ∧ (tree false).formed = false)
    ∧ ((105 : Nat) < 106 ∧ (11 : Nat) < 12 ∧ 12 ≤ AMap.getD (r.die 0).ageing 105 0xFFFF ∧ (12 : Nat) ≤ 12) := by decide +kernel

/-- A sector in every last-level cache, and in none; a word of an array of core 3. -/
theorem witness_moduleEvents_scrub :
    let c : State := { State.reset with dies := State.reset.dies.map fun d => { d with llc := [1] } }
    c.llcHit 64 = true ∧ State.reset.llcHit 64 = false ∧ (64 : Nat) < 2 ^ 47 ∧ (2 ^ 61 ≤ stenWord 3 1 511 ∧ arrayCore (stenWord 3 1 511) = 3) ∧ arrayCore (bookWord 3 255) = 3 ∧ arrayCore (l1Word 3 64) = 3 := by
  intro c
  have d : ∀ i : Fin 4, (c.dies[i]).llc = [1] := by decide +kernel
  have e : ∀ i : Fin 4, (State.reset.dies[i]).llc = [] := by decide +kernel
  exact ⟨(congrArg (fun l => List.contains l (64 / 64)) (d (dieIx _))).trans rfl, (congrArg (fun l => List.contains l (64 / 64)) (e (dieIx _))).trans rfl, by decide +kernel⟩

/-! ### Encoding and invariants (spec/05) -/

/-- R83: the widest fields of a slot survive their encoding. -/
theorem witness_decodeEncodedSlots :
    let i : Instr := .vfma ⟨7, true⟩ 1 31 31 31 31 3 true
    i.wf = true ∧ slotOf i = some .v ∧ encode i < 2 ^ Slot.v.width ∧ i ≠ .nop ∧ ∃ j, decodeSlot .v (encode i) = .ok j ∧ j ≠ .nop :=
  ⟨by decide +kernel, by decide +kernel, by decide +kernel, by decide +kernel, .vfma ⟨7, true⟩ 1 31 31 31 31 3 true, by decide +kernel, by decide +kernel⟩
theorem witness_stepKeepsMemory : State.reset.mem.wf = true ∧ ∃ t, step State.reset = .next t := ⟨by decide +kernel, _, rfl⟩
theorem witness_stepKeepsMaps : MapsSorted State.reset ∧ ∃ t, step State.reset = .next t :=
  ⟨⟨by decide +kernel, by decide +kernel, fun k => by simp [State.core, State.reset, AMap.getD, AMap.get?, Core.reset, AMap.sortedFrom]⟩, _, rfl⟩

/-- R276, R282. An unmapped page's entry serves the die that still holds it, and no other. -/
theorem test_unmapped_entry :
    let s : State := { (State.reset.modDie 0 fun d => { d with xlroot := 1 }).modDie 1 fun d => { d with xlroot := 1 } with
      unmaps := [⟨1, 2 ^ 30, 0x200000, 65536, 0, true, [1]⟩] }
    Machine.translate s 1 (2 ^ 30 + 5) = some { pa := 0x200005, attr := 0, wr := true, size := 65536 } ∧ Machine.translate s 0 (2 ^ 30 + 5) = none
      ∧ Machine.translate s 1 (2 ^ 30 + 65536) = none := by decide +kernel

end Sys2Proof.Tests
end

section
/-! PROOFS. The scalar register operations of slots A and B (spec/06 R98, R99, R102, R104): their values, their words in form AB-R (spec/05 R87),
and their issue. -/
namespace Sys2Proof.Machine

/-! ### Issue of an operation that writes a scalar register -/

/-- R32, R97. An operation of slot A or B whose meaning is an `aluSpec` issues on every core, and its one result is pending for its latency. -/
theorem issuesAs_of_aluSpec {s : State} {c : Nat} {i : Instr} {sl : Lane2} {opcode lat : Nat} {xd : Fin 32} {f : View → Word64} {v : Word64}
    (h : MayIssue s c) (meaning : exec i s = issueOne (laneSlot sl) opcode none (aluSpec lat xd f) s) (value : f (s.slotView c) = v) :
    IssuesAs i s c (laneSlot sl) { res := [(lat, .x xd v)] } := by
  have legal : scalarSubset (laneSlot sl) opcode = true := by cases sl <;> rfl
  unfold IssuesAs
  rw [meaning, ← value]
  exact issueOne_issues _ _ _ _ h (encTrap_none (.inr legal) rfl) rfl rfl rfl rfl rfl

/-! ### Words in form AB-R -/

/-- R87. The word of form AB-R with the given fields. -/
def abWord (op : Nat) (xd xa xb : Fin 32) (func : Fin 128) : Nat :=
  op * 2 ^ 22 + xd.val * 2 ^ 17 + xa.val * 2 ^ 12 + xb.val * 2 ^ 7 + func.val

theorem decodeSlot_laneSlot (sl : Lane2) (w : Nat) : decodeSlot (laneSlot sl) w = decodeAB sl w := by
  cases sl <;> rfl

theorem bits_abWord_opcode {op : Nat} (small : op < 64) (xd xa xb : Fin 32) (func : Fin 128) : bits (abWord op xd xa xb func) 27 22 = op := by
  simp only [bits, abWord]
  omega
@[simp] theorem fin32_abWord_xd (op : Nat) (xd xa xb : Fin 32) (func : Fin 128) : fin32 (bits (abWord op xd xa xb func) 21 17) = xd := by
  ext
  simp only [fin32, bits, abWord]
  omega
@[simp] theorem fin32_abWord_xa (op : Nat) (xd xa xb : Fin 32) (func : Fin 128) : fin32 (bits (abWord op xd xa xb func) 16 12) = xa := by
  ext
  simp only [fin32, bits, abWord]
  omega
@[simp] theorem fin32_abWord_xb (op : Nat) (xd xa xb : Fin 32) (func : Fin 128) : fin32 (bits (abWord op xd xa xb func) 11 7) = xb := by
  ext
  simp only [fin32, bits, abWord]
  omega

theorem resv_singleton (w hi lo : Nat) : resv w [(hi, lo)] = true ↔ bits w hi lo ≠ 0 := by
  simp [resv]
/-- R85. The func field of form AB-R is reserved. -/
@[simp] theorem resv_abWord_func (op : Nat) (xd xa xb : Fin 32) (func : Fin 128) :
    resv (abWord op xd xa xb func) [(6, 0)] = true ↔ func ≠ 0 := by
  simp only [resv_singleton, ne_eq, Fin.ext_iff, Fin.val_zero, bits, abWord]
  omega
/-- R85, R102. The xb and func fields of an operation with one source are reserved. -/
@[simp] theorem resv_abWord_xb_func (op : Nat) (xd xa xb : Fin 32) (func : Fin 128) :
    resv (abWord op xd xa xb func) [(11, 0)] = true ↔ ¬ (xb = 0 ∧ func = 0) := by
  simp only [resv_singleton, ne_eq, Fin.ext_iff, Fin.val_zero, bits, abWord]
  omega

/-- R98. The operations on two scalar registers with their opcodes. -/
def registerOps : List (Nat × (Lane2 → Fin 32 → Fin 32 → Fin 32 → Instr)) :=
  [(0x01, .add), (0x02, .sub), (0x03, .and), (0x04, .or), (0x05, .xor), (0x06, .shl), (0x07, .shr), (0x08, .sra), (0x09, .mul),
   (0x0A, .mulh), (0x0B, .mulhn), (0x0C, .min), (0x0D, .max), (0x0E, .minn), (0x0F, .maxn)]

theorem registerOps_opcode_lt : ∀ p ∈ registerOps, p.1 < 64 := by decide
/-- R87, R98. What the decoder answers to a word with the opcode of an operation on two registers. -/
theorem decodeAB_registerOps (sl : Lane2) (w : Nat) : ∀ p ∈ registerOps, bits w 27 22 = p.1 →
    decodeAB sl w = if resv w [(6, 0)] then .error .resField
      else .ok (p.2 sl (fin32 (bits w 21 17)) (fin32 (bits w 16 12)) (fin32 (bits w 11 7))) := by
  simp only [registerOps, List.forall_mem_cons, List.not_mem_nil, false_implies, implies_true, and_true]
  and_intros <;> intro opcode <;> simp only [decodeAB, opcode]

theorem decodeAB_clz (sl : Lane2) {w : Nat} (opcode : bits w 27 22 = 0x12) :
    decodeAB sl w = if resv w [(11, 0)] then .error .resField else .ok (.clz sl (fin32 (bits w 21 17)) (fin32 (bits w 16 12))) := by
  simp only [decodeAB, opcode]
theorem decodeAB_popc (sl : Lane2) {w : Nat} (opcode : bits w 27 22 = 0x13) :
    decodeAB sl w = if resv w [(11, 0)] then .error .resField else .ok (.popc sl (fin32 (bits w 21 17)) (fin32 (bits w 16 12))) := by
  simp only [decodeAB, opcode]

/-! ### Values of the shifts, the choices and the division -/

theorem ite_lt_eq_ite_le {α β : Type} [LinearOrder α] (p q : α) (x y : β) : (if q < p then y else x) = if p ≤ q then x else y := by
  simp only [← not_le, ite_not]

/-- R98. An arithmetic right shift by 64 or more leaves the sign alone. -/
theorem sra64_eq (a : Word64) (n : Nat) : sra64 a n = if 64 ≤ n then (if a.toInt < 0 then -1 else 0) else a.sshiftRight n := by
  have lower := a.le_toInt
  have upper := a.toInt_lt
  unfold sra64 wrap64
  split
  · next wide =>
    rw [Nat.min_eq_right wide]
    split
    · next negative =>
      rw [show a.toInt / 2 ^ 64 = -1 by omega]
      rfl
    · next nonnegative =>
      rw [show a.toInt / 2 ^ 64 = 0 by omega]
      rfl
  · next narrow =>
    rw [Nat.min_eq_left (by omega), BitVec.sshiftRight_eq, Int.shiftRight_eq_div_pow]
    norm_cast

theorem sel_eq (a b : Word64) (p inv : Bool) :
    (if (p != inv) = true then a else b) = if (p = true ∧ inv = false) ∨ (p = false ∧ inv = true) then a else b := by
  cases p <;> cases inv <;> rfl

/-- R99. Away from the overflow the machine's quotient is the one truncated toward zero. -/
theorem div64_toInt {a b : Word64} (nonzero : b ≠ 0) (fits : ¬ (a.toInt = -2 ^ 63 ∧ b.toInt = -1)) :
    (div64 a b).toInt = Int.tdiv a.toInt b.toInt := by
  have quotient : (a.sdiv b).toInt = Int.tdiv a.toInt b.toInt := by
    refine BitVec.toInt_sdiv_of_ne_or_ne a b (not_and_or.1 fun ⟨least, minusOne⟩ => fits ?_)
    subst least minusOne
    exact ⟨rfl, rfl⟩
  rw [div64, if_neg nonzero, if_neg fits, ← quotient, wrap64, BitVec.ofInt_toInt]
/-- R99. The remainder goes with that quotient. -/
theorem rem64_toInt {a b : Word64} (nonzero : b ≠ 0) (fits : ¬ (a.toInt = -2 ^ 63 ∧ b.toInt = -1)) :
    (rem64 a b).toInt = Int.tmod a.toInt b.toInt := by
  have remainder : a.toInt - Int.tdiv a.toInt b.toInt * b.toInt = (a.srem b).toInt := by
    rw [BitVec.toInt_srem, Int.tmod_def, Int.mul_comm]
  rw [rem64, if_neg nonzero, if_neg fits, remainder, wrap64, BitVec.ofInt_toInt, BitVec.toInt_srem]
theorem div64_zero (a : Word64) : div64 a 0 = BitVec.allOnes 64 := rfl
theorem rem64_zero (a : Word64) : rem64 a 0 = a := rfl
theorem divisor_ne_zero {b : Word64} (h : b.toInt = -1) : b ≠ 0 := by
  rintro rfl
  exact absurd h (by decide)
theorem div64_overflow {a b : Word64} (ha : a.toInt = -2 ^ 63) (hb : b.toInt = -1) : div64 a b = a := by
  rw [div64, if_neg (divisor_ne_zero hb), if_pos ⟨ha, hb⟩]
theorem rem64_overflow {a b : Word64} (ha : a.toInt = -2 ^ 63) (hb : b.toInt = -1) : rem64 a b = 0 := by
  rw [rem64, if_neg (divisor_ne_zero hb), if_pos ⟨ha, hb⟩]

/-! ### Counts of bits -/

theorem log2_toNat_lt {a : Word64} (h : a ≠ 0) : Nat.log2 a.toNat < 64 := (Nat.log2_lt (BitVec.toNat_ne.1 h)).2 a.isLt
/-- R102. The count of leading zeros names the highest one bit. -/
theorem clz64_toNat {a : Word64} (h : a ≠ 0) : (clz64 a).toNat = 63 - Nat.log2 a.toNat := by
  rw [clz64, if_neg h, BitVec.toNat_ofNat]
  omega
theorem clz64_highest {a : Word64} (h : a ≠ 0) : 63 - (clz64 a).toNat = Nat.log2 a.toNat := by
  have := log2_toNat_lt h
  rw [clz64_toNat h]
  omega
theorem getLsbD_log2 {a : Word64} (h : a ≠ 0) : a.getLsbD (Nat.log2 a.toNat) = true := by
  rw [← BitVec.testBit_toNat]
  exact Nat.testBit_log2 (BitVec.toNat_ne.1 h)
theorem getLsbD_of_log2_lt (a : Word64) {i : Nat} (h : Nat.log2 a.toNat < i) : a.getLsbD i = false := by
  rw [← BitVec.testBit_toNat]
  exact Nat.testBit_lt_two_pow (Nat.lt_log2_self.trans_le (Nat.pow_le_pow_right two_pos h))

/-- The places of the one bits of a word. -/
def oneBits (a : Word64) : Finset Nat := (Finset.range 64).filter fun i => a.getLsbD i = true
theorem mem_oneBits (a : Word64) (i : Nat) : i ∈ oneBits a ↔ a.getLsbD i = true := by
  simp only [oneBits, Finset.mem_filter, Finset.mem_range, and_iff_right_iff_imp]
  exact BitVec.lt_of_getLsbD
/-- R102. POPC's result is the number of one bits. -/
theorem popc64_toNat (a : Word64) : (popc64 a).toNat = (oneBits a).card := by
  have list : (oneBits a).card = ((List.range 64).filter fun i => a.getLsbD i).length := by
    simp [oneBits, Finset.card, Finset.filter, Multiset.range]
  have bound : (oneBits a).card ≤ 64 := (Finset.card_filter_le _ _).trans (Finset.card_range 64).le
  rw [popc64, BitVec.toNat_ofNat, ← list]
  omega
theorem oneBits_or_shift (a : Word64) {i : Nat} (h : i < 64) : oneBits (a ||| (1#64 <<< i)) = insert i (oneBits a) := by
  ext j
  rw [Finset.mem_insert, mem_oneBits, mem_oneBits, ← BitVec.twoPow_eq, BitVec.getLsbD_or, BitVec.getLsbD_twoPow, or_comm, eq_comm (a := j)]
  simp [h]

/-! ### The obligations -/

/-- Settles O1: the decoder's answer on a word of form AB-R, and the issue of each operation with the value of its result. -/
theorem scalarOperations : Obligations.ScalarOperations := by
  unfold Obligations.ScalarOperations
  refine ⟨fun p hp sl xd xa xb func => ?_, fun s c h sl xd xa xb ps inv => ?_⟩
  · change decodeSlot _ (abWord p.1 xd xa xb func) = _
    rw [decodeSlot_laneSlot, decodeAB_registerOps sl _ p hp (bits_abWord_opcode (registerOps_opcode_lt p hp) ..)]
    by_cases zero : func = 0 <;> simp [zero]
  · intro a b writes
    refine ⟨?add, ?sub, ?and, ?or, ?xor, ?shl, ?shr, ?sra, ?mul, ?mulh, ?mulhn, ?min, ?max, ?minn, ?maxn, ?sel, ?clz, ?popc⟩
    case sra => exact issuesAs_of_aluSpec h rfl (sra64_eq _ _)
    case min | max | minn | maxn => exact issuesAs_of_aluSpec h rfl (ite_lt_eq_ite_le _ _ _ _)
    case sel => exact issuesAs_of_aluSpec h rfl (sel_eq _ _ _ _)
    all_goals exact issuesAs_of_aluSpec h rfl rfl

/-- Settles O2: the properties of the two counts, the decoder's answer on their words, and the issue of all four operations. -/
theorem scalarCountsAndDivision : Obligations.ScalarCountsAndDivision := by
  unfold Obligations.ScalarCountsAndDivision
  refine ⟨⟨rfl, by decide, fun a nonzero => ?_, fun a i small zero => ?_⟩, fun sl xd xa xb func => ?_, fun s c h sl xd xa xb => ?_⟩
  · rw [clz64_highest nonzero, clz64_toNat nonzero]
    exact ⟨by omega, getLsbD_log2 nonzero, fun i => getLsbD_of_log2_lt a⟩
  · have fresh : i ∉ oneBits a := by simp [mem_oneBits, zero]
    rw [popc64_toNat, popc64_toNat, oneBits_or_shift a small, Finset.card_insert_of_notMem fresh]
  · change decodeSlot _ (abWord 0x12 xd xa xb func) = _ ∧ decodeSlot _ (abWord 0x13 xd xa xb func) = _
    rw [decodeSlot_laneSlot, decodeSlot_laneSlot, decodeAB_clz sl (bits_abWord_opcode (by decide) ..),
      decodeAB_popc sl (bits_abWord_opcode (by decide) ..)]
    by_cases zero : xb = 0 ∧ func = 0 <;> simp [zero]
  · refine ⟨issuesAs_of_aluSpec h rfl rfl, issuesAs_of_aluSpec h rfl rfl, div64 (s.xr c xa) (s.xr c xb), rem64 (s.xr c xa) (s.xr c xb),
      issuesAs_of_aluSpec h rfl rfl, issuesAs_of_aluSpec h rfl rfl, fun zero => ?_, fun least minusOne => ?_, fun nonzero fits => ?_⟩
    · rw [zero]
      exact ⟨div64_zero _, rem64_zero _⟩
    · exact ⟨div64_overflow least minusOne, rem64_overflow least minusOne⟩
    · exact ⟨div64_toInt nonzero fits, rem64_toInt nonzero fits⟩

end Sys2Proof.Machine
end

section
/-! PROOFS. The vector slot's functions, scale, comparisons, selection, conversion and integer operations (spec/07 R120 to R128, R133): their
values on one lane, and their issue. -/
namespace Sys2Proof.Machine

/-! ### Issue of an operation of the vector slot -/

/-- R15, R32. On a worker core a vector operation that neither traps, blocks nor takes a semaphore issues with all that its meaning answers. -/
theorem issuesAs_of_vectorOut {s : State} {c : Nat} {i : Instr} {opcode : Nat} {out : View → SlotOut} (h : MayIssue s c)
    (worker : isWorker s.focus = true) (meaning : exec i s = issueOne .v opcode none { out := out } s)
    (takesNone : (out (s.slotView c)).takes = []) : IssuesAs i s c .v (out (s.slotView c)) := by
  unfold IssuesAs
  rw [meaning]
  exact issueOne_issues _ _ _ _ h (encTrap_none (.inl worker) rfl) rfl rfl rfl rfl (by rw [takesNone]; rfl)
/-- R114. An operation whose meaning is a `vecSpec` writes the masked lanes with its value of each source lane. -/
theorem writesLanes_of_vecSpec {s : State} {c : Nat} {i : Instr} {opcode lat : Nat} {g : Guard} {vd : Fin 32} {f : View → Nat → Word32}
    {value : Nat → Word32} (h : MayIssue s c) (worker : isWorker s.focus = true)
    (meaning : exec i s = issueOne .v opcode none (vecSpec lat g vd f) s) (lane : ∀ j, f (s.slotView c) j = value j) :
    WritesLanes i s c lat g vd value := by
  obtain rfl : f (s.slotView c) = value := funext lane
  exact issuesAs_of_vectorOut h worker meaning rfl
/-- R114. An operation whose meaning is a `vpredSpec` writes the masked predicate bits likewise. -/
theorem writesPreds_of_vpredSpec {s : State} {c : Nat} {i : Instr} {opcode lat : Nat} {g : Guard} {pd : Fin 8} {f : View → Nat → Bool}
    {value : Nat → Bool} (h : MayIssue s c) (worker : isWorker s.focus = true)
    (meaning : exec i s = issueOne .v opcode none (vpredSpec lat g pd f) s) (lane : ∀ j, f (s.slotView c) j = value j) :
    WritesPreds i s c lat g pd value := by
  obtain rfl : f (s.slotView c) = value := funext lane
  exact issuesAs_of_vectorOut h worker meaning rfl

/-! ### Values of the scale, the selection and the conversion -/

/-- R58, R124. The scale code 0xFF gives NaN. -/
theorem FVal.scale_nanCode (x : FVal) : x.scale 0xFF = .nan := if_pos rfl
/-- R58, R124. Any other scale code moves the exponent of a finite value, exactly. -/
theorem FVal.scale_fin (neg : Bool) (mag : Nat) (e : Int) {code : Nat} (h : code ≠ 0xFF) :
    (FVal.fin neg mag e).scale code = .fin neg mag (e + code - 127) := if_neg h

/-- R122. The selecting bit and its inversion choose va's lane when they differ. -/
theorem ite_bne_eq {α : Type} (x y : α) (p inv : Bool) :
    (if (p != inv) = true then x else y) = if (p = true ∧ inv = false) ∨ (p = false ∧ inv = true) then x else y := by
  cases p <;> cases inv <;> rfl

/-- R123. The three kinds of conversion, element by element: between formats of as many elements per lane, narrowing, and widening. -/
theorem convertLane_eq (src dst : Nat) (rm : RMode) (sat : Bool) (part : Nat) (a c : Word32) :
    convertLane src dst rm sat part a c = mapElements dst fun i =>
      if lanesOf src = lanesOf dst then convert src dst rm sat (element src a i)
      else if lanesOf src < lanesOf dst then
        (if part * lanesOf src ≤ i ∧ i < part * lanesOf src + lanesOf src
          then convert src dst rm sat (element src a (i - part * lanesOf src)) else element dst c i)
      else convert src dst rm sat (element src a (part * lanesOf dst + i)) := by
  unfold convertLane
  rcases lt_trichotomy (lanesOf src) (lanesOf dst) with narrowing | same | widening
  · simp only [narrowing.ne, narrowing, if_true, if_false]
  · simp only [same, if_true]
  · simp only [widening.ne', widening.not_gt, if_false]

/-! ### Values of the integer operations -/

/-- R61, R125. Saturation, where asked for, comes before the wrap. -/
theorem intInto_eq (fmt : Nat) (sat : Bool) (y : Int) :
    intInto fmt sat y = wrapNat (fmtBits fmt) (if sat then max (intLow fmt) (min (intHigh fmt) y) else y) :=
  (apply_ite (wrapNat (fmtBits fmt)) _ _ _).symm
/-- R125. An integer operation on each element of a lane. -/
theorem intLane_eq (fmt : Nat) (sat : Bool) (f : Int → Int → Int) (a b : Word32) :
    intLane fmt sat f a b = mapElements fmt fun i => wrapNat (fmtBits fmt)
      (if sat then max (intLow fmt) (min (intHigh fmt) (f (intOf fmt (element fmt a i)) (intOf fmt (element fmt b i))))
        else f (intOf fmt (element fmt a i)) (intOf fmt (element fmt b i))) := by
  simp only [intLane, intInto_eq]
/-- R128. The lesser and the greater element. -/
theorem intLane_lesser (fmt : Nat) (a b : Word32) :
    intLane fmt false (fun x y => if y < x then y else x) a b = mapElements fmt fun i =>
      wrapNat (fmtBits fmt) (min (intOf fmt (element fmt a i)) (intOf fmt (element fmt b i))) := by
  simp only [intLane_eq, ite_lt_eq_ite_le, min_def, Bool.false_eq_true, if_false]
theorem intLane_greater (fmt : Nat) (a b : Word32) :
    intLane fmt false (fun x y => if x < y then y else x) a b = mapElements fmt fun i =>
      wrapNat (fmtBits fmt) (max (intOf fmt (element fmt a i)) (intOf fmt (element fmt b i))) := by
  simp only [intLane_eq, max_def_lt, Bool.false_eq_true, if_false]

/-! ### The obligations -/

/-- Settles O7: each function's meaning is its value on every element of a source lane, and the two cases of a scale code. -/
theorem vectorFunctions : Obligations.VectorFunctions := by
  unfold Obligations.VectorFunctions
  intro s c h worker g fmt vd va vb rm sat ks m a b round each
  refine ⟨?div, ?sqrt, ?rcp, ?rsq, ?exp2, ?log2, ?rint, ?sclReg, ?sclEntry, FVal.scale_nanCode, fun neg mag e code => FVal.scale_fin neg mag e⟩
  case div | sqrt | rcp | rsq | exp2 | log2 | rint | sclReg | sclEntry => exact writesLanes_of_vecSpec h worker rfl fun _ => rfl

/-- Settles O8: comparisons and VPLOG by `writesPreds_of_vpredSpec`; VSEL and VCVT by the value of a lane. -/
theorem vectorSelection : Obligations.VectorSelection := by
  unfold Obligations.VectorSelection
  intro s c h worker g fmt src pd pa pb cond ps vd va vb vc rm part sat high inv table a b
  refine ⟨?cmp, ?icmp, ?sel, ?plog, ?cvt⟩
  case cmp | icmp | plog => exact writesPreds_of_vpredSpec h worker rfl fun _ => rfl
  case sel => exact writesLanes_of_vecSpec h worker rfl fun _ => ite_bne_eq _ _ _ _
  case cvt => exact writesLanes_of_vecSpec h worker rfl fun _ => convertLane_eq _ _ _ _ _ _ _

/-- Settles O9: each operation's meaning is its value on every element of a source lane. -/
theorem vectorIntegers : Obligations.VectorIntegers := by
  unfold Obligations.VectorIntegers
  intro s c h worker g fmt vd va vb sat byImm n w a b x y count into each
  refine ⟨?add, ?sub, ?mul, ?and, ?or, ?xor, ?shl, ?shr, ?sra, ?min, ?max, ?pcnt⟩
  case add | sub | mul => exact writesLanes_of_vecSpec h worker rfl fun _ => intLane_eq _ _ _ _ _
  case min => exact writesLanes_of_vecSpec h worker rfl fun _ => intLane_lesser _ _ _
  case max => exact writesLanes_of_vecSpec h worker rfl fun _ => intLane_greater _ _ _
  case pcnt => exact writesLanes_of_vecSpec h worker rfl fun _ => congrArg _ List.countP_eq_length_filter.symm
  case and | or | xor | shl | shr | sra => exact writesLanes_of_vecSpec h worker rfl fun _ => rfl

end Sys2Proof.Machine
end

section
/-! PROOFS. Semaphores (spec/15 R249, R250): what retires, waits and counts of semaphores leave in the context, and the issue of WAITS and SIGS. -/
namespace Sys2Proof.Machine

/-! ### What the binding of loads leaves unchanged in a context -/

/-- The context has changed in its pending results alone. -/
def State.PendOnly (k c : Nat) (s t : State) : Prop := ∃ p, t.ctx k c = { s.ctx k c with pend := p }

theorem State.PendOnly.refl (k c : Nat) (s : State) : State.PendOnly k c s s := ⟨_, rfl⟩
theorem State.PendOnly.trans {k c : Nat} {s t u : State} (first : State.PendOnly k c s t) (second : State.PendOnly k c t u) :
    State.PendOnly k c s u := by
  obtain ⟨p, hp⟩ := first
  obtain ⟨q, hq⟩ := second
  exact ⟨q, by rw [hq, hp]⟩
theorem State.pendOnly_modCtx (s : State) (k c : Nat) (f : List Pend → List Pend) :
    State.PendOnly k c s (s.modCtx k c fun x => { x with pend := f x.pend }) := ⟨_, State.ctx_modCtx_self _ _ _ _⟩
theorem State.pendOnly_foldl {α : Type} {k c : Nat} {f : State → α → State} (each : ∀ s a, State.PendOnly k c s (f s a)) (l : List α) (s : State) :
    State.PendOnly k c s (l.foldl f s) := by
  induction l generalizing s with
  | nil => exact .refl k c s
  | cons a l ih => exact (each s a).trans (ih _)

theorem State.pendOnly_bindBefore (s : State) (k c bid : Nat) : State.PendOnly k c s (s.bindBefore k c bid) := by
  unfold State.bindBefore
  dsimp only
  split
  · exact s.pendOnly_modCtx k c _
  · exact .refl k c s
theorem State.pendOnly_bindLoad (s : State) (k c bid : Nat) (slot : Slot) (off pa : Nat) (data : List Byte) (readyAt : Nat) :
    State.PendOnly k c s (s.bindLoad k c bid slot off pa data readyAt) := by
  refine (s.pendOnly_bindBefore k c bid).trans ?_
  unfold State.bindLoad
  dsimp only
  split
  · exact State.pendOnly_modCtx _ k c _
  · exact State.pendOnly_modCtx _ k c _
theorem State.pendOnly_returnLoad (s : State) (k c bid : Nat) (slot : Slot) (off pa : Nat) (data : List Byte) (readyAt : Nat) :
    State.PendOnly k c s (s.returnLoad k c bid slot off pa data readyAt) := by
  unfold State.returnLoad
  split
  · exact s.pendOnly_bindLoad k c bid slot off pa data readyAt
  · exact s.pendOnly_modCtx k c _
theorem State.pendOnly_bindReady (s : State) (k c : Nat) : State.PendOnly k c s (s.bindReady k c) :=
  State.pendOnly_foldl (fun s _ => s.pendOnly_returnLoad k c _ _ _ _ _ _) _ s
/-- R350. With no access held back nothing is sent, and values are bound at most. -/
theorem State.pendOnly_sendReady {s : State} {k c : Nat} (noneHeld : (s.ctx k c).held = []) : State.PendOnly k c s (s.sendReady k c) := by
  have bound := s.pendOnly_bindReady k c
  have held : ((s.bindReady k c).ctx k c).held = [] := by
    obtain ⟨p, hp⟩ := bound
    rw [hp]
    exact noneHeld
  have same : s.sendReady k c = s.bindReady k c := by
    unfold State.sendReady
    simp only [held]
  rwa [same]

/-! ### Retire of a bundle that waits for nothing -/

/-- R196. The context after its oldest bundle has retired, before the effects: SIGS counts are kept for the next cycle (R250). -/
def Ctx.retiredOldest (x : Ctx) (b : Issued) : Ctx :=
  { x with inflight := x.inflight.drop 1, retired := x.retired + 1, raised := x.raised ++ b.eff.filterMap Effect.count }

/-- R196. The oldest bundle, with no fault, no retire condition and no effect that can trap or is ordered behind loads, retires. -/
theorem State.retireOldest_unconditional {s : State} {k c : Nat} {b : Issued} {l : List Issued} (oldest : (s.ctx k c).inflight = b :: l)
    (fault : b.fault = none) (conds : b.conds = []) (unordered : b.eff.any Effect.ordered = false)
    (quiet : (b.eff.flatMap fun e => s.effectTraps k c e) = []) :
    s.retireOldest k c = ((s.modCtx k c fun x => x.retiredOldest b).applyEffects k c b.addr
      (b.eff.filter fun e => e.count.isNone)).sendReady k c := by
  have ready : b.ordered = false := by simp [Issued.ordered, Issued.gates, conds, unordered]
  unfold State.retireOldest
  simp [oldest, fault, conds, ready, quiet, firstFailure, Ctx.retiredOldest]

/-- R250. A bundle whose one effect is a count retires: the count waits for the next cycle. -/
theorem State.retireOldest_count {s : State} {k c : Nat} {b : Issued} {l : List Issued} {sm : Fin 16} {n : Nat}
    (oldest : (s.ctx k c).inflight = b :: l) (fault : b.fault = none) (conds : b.conds = []) (eff : b.eff = [.sem sm n]) :
    s.retireOldest k c = (s.modCtx k c fun x => x.retiredOldest b).sendReady k c := by
  rw [State.retireOldest_unconditional oldest fault conds (by rw [eff]; rfl) (by rw [eff]; rfl), eff]
  rfl

/-! ### Counts that reach a semaphore -/

theorem State.ctx_raise_of_not_saved {s : State} {k c : Nat} (i : Fin 16) (n : Nat) (here : (s.ctx k c).status ≠ .saved) :
    (s.raise k c i n).ctx k c = (s.ctx k c).signal i n := by
  unfold State.raise
  simp only [if_neg here]
  exact State.ctx_modCtx_self _ _ _ _
/-- R250. One count that waits is delivered as a cycle begins. -/
theorem State.ctx_deliver_one {s : State} {k c : Nat} {i : Fin 16} {n : Nat} (waits : (s.ctx k c).raised = [(i, n)])
    (here : (s.ctx k c).status ≠ .saved) : (s.deliver k c).ctx k c = (s.ctx k c).delivered.signal i n := by
  have cleared : (s.modCtx k c Ctx.delivered).ctx k c = (s.ctx k c).delivered := State.ctx_modCtx_self _ _ _ _
  have once : s.deliver k c = (s.modCtx k c Ctx.delivered).raise k c i n := by
    simp [State.deliver, waits]
  rw [once, State.ctx_raise_of_not_saved i n (by rw [cleared]; exact here), cleared]

/-! ### Semaphores at issue -/

/-- R85. A guard whose predicate holds lets the C slot act. -/
theorem State.slotView_on {s : State} {c : Nat} {g : Guard} (holds : (s.regsOf c).rp g.p ≠ g.neg) : (s.slotView c).on g = true :=
  bne_iff_ne.2 holds

theorem State.startTask_sm (s : State) (k c : Nat) : ((s.startTask k c).ctx k c).sm = (s.ctx k c).sm := by
  unfold State.startTask
  split
  · rfl
  · split
    · rfl
    · exact (congrArg Ctx.sm (State.ctx_modCtx_self s k c _)).trans rfl
/-- R249. What a bundle takes changes the semaphores one after the other. -/
theorem Ctx.take_sm (x : Ctx) (l : List (Fin 16 × Nat)) :
    (x.take l).sm = l.foldl (fun v t => v.set t.1 (BitVec.ofNat 8 (v[t.1].toNat - t.2))) x.sm :=
  (List.foldl_hom Ctx.sm fun _ _ => rfl).symm
/-- R249. The semaphores after the issue of a bundle. -/
theorem State.issuedCtx_sm (s : State) (c : Nat) (slot : Slot) (o : SlotOut) :
    (s.issuedCtx c slot o).sm = ((s.ctx s.focus c).take o.takes).sm := by
  rw [Ctx.take_sm, ← State.startTask_sm, ← Ctx.take_sm]
  rfl
theorem Ctx.canTake_one (x : Ctx) (i : Fin 16) (n : Nat) : x.canTake [(i, n)] = true ↔ n ≤ x.sm[i].toNat := by
  simp [Ctx.canTake]

/-- R28, R249. A slot instruction that raises nothing blocks its context while a semaphore does not hold what it takes. -/
theorem issueOne_waits {s : State} {c : Nat} (slot : Slot) (opcode : Nat) (spec : SlotSpec) (h : MayIssue s c)
    (enc : (s.slotView c).encTrap ⟨slot, opcode, spec⟩ = none) (short : (s.ctx s.focus c).canTake (spec.out (s.slotView c)).takes = false) :
    issueOne slot opcode none spec s = .next (s.heldUp c) := by
  have notLate : (s.slotView c).ctx.late = none := h.notLate
  have unstamped : (s.slotView c).stamped = false := by
    simp [View.stamped, State.slotView, State.viewAt, plainHeader]
  have blocked : (s.slotView c).blocks [⟨slot, opcode, spec⟩] [(slot, spec.out (s.slotView c))] = true := by
    have short' : (s.slotView c).ctx.canTake (spec.out (s.slotView c)).takes = false := short
    simp [View.blocks, takesOf_plain, short']
  have key : issueBundle (s.slotView c) [⟨slot, opcode, spec⟩] = s.heldUp c := by
    unfold issueBundle
    simp only [State.slotView_headerIllegal, Option.orElse, enc, List.findSome?_cons, List.findSome?_nil, notLate, Option.isSome_none, h.started,
      List.map_cons, List.map_nil, blocked, unstamped, Bool.false_eq_true, if_false, if_true]
    rfl
  unfold issueOne
  rw [h.cool, if_neg (by decide), h.issuer]
  exact congrArg Host.Outcome.next key

theorem waitsSpec_out {v : View} {g : Guard} (on : v.on g = true) (sm : Fin 16) (cnt : Fin 8) :
    (waitsSpec g sm cnt).out v = { takes := [(sm, cnt.val + 1)] } := if_pos on
theorem sigsSpec_out {v : View} {g : Guard} (on : v.on g = true) (sm : Fin 16) (cnt : Fin 8) :
    (sigsSpec g sm cnt).out v = { eff := [.sem sm (cnt.val + 1)] } := if_pos on

/-- A slot that only takes from semaphores changes nothing after its issue. -/
theorem State.finishSlot_takes (s u : State) (c : Nat) (slot : Slot) (l : List (Fin 16 × Nat)) : s.finishSlot u c slot { takes := l } = u :=
  ite_self _
/-- R250. A slot whose one effect is a count adds it now, if its bundle retires at issue. -/
theorem State.finishSlot_sem {s : State} {c : Nat} (u : State) (slot : Slot) (i : Fin 16) (n : Nat) (atOnce : s.retiresAtOnce c {} = true) :
    s.finishSlot u c slot { eff := [.sem i n] } = u.modCtx s.focus c fun x => x.signal i n :=
  if_pos atOnce

/-! ### WAITS and SIGS -/

section
variable {s : State} {c : Nat} (h : MayIssue s c) {g : Guard} (holds : (s.regsOf c).rp g.p ≠ g.neg) (sm : Fin 16) (cnt : Fin 8)
include h holds

theorem issuesAs_waits (enough : cnt.val + 1 ≤ ((s.ctx s.focus c).sm[sm]).toNat) :
    IssuesAs (.waits g sm cnt) s c .c { takes := [(sm, cnt.val + 1)] } :=
  issueOne_issues .c 0x07 (waitsSpec g sm cnt) _ h (encTrap_none (.inr rfl) rfl) (waitsSpec_out (State.slotView_on holds) sm cnt) rfl rfl rfl
    ((Ctx.canTake_one _ _ _).2 enough)
theorem blocksAs_waits (short : ((s.ctx s.focus c).sm[sm]).toNat < cnt.val + 1) : BlocksAs (.waits g sm cnt) s c := by
  refine issueOne_waits .c 0x07 (waitsSpec g sm cnt) h (encTrap_none (.inr rfl) rfl) ?_
  rw [waitsSpec_out (State.slotView_on holds), Bool.eq_false_iff, ne_eq, Ctx.canTake_one]
  exact short.not_ge
theorem issuesAs_sigs : IssuesAs (.sigs g sm cnt) s c .c { eff := [.sem sm (cnt.val + 1)] } :=
  issueOne_issues .c 0x08 (sigsSpec g sm cnt) _ h (encTrap_none (.inr rfl) rfl) (sigsSpec_out (State.slotView_on holds) sm cnt) rfl rfl rfl rfl

/-- R249. WAITS leaves the difference. -/
theorem sm_of_waits (enough : cnt.val + 1 ≤ ((s.ctx s.focus c).sm[sm]).toNat) : ∃ t, exec (.waits g sm cnt) s = .next t
    ∧ (t.ctx s.focus c).sm = (s.ctx s.focus c).sm.set sm (BitVec.ofNat 8 (((s.ctx s.focus c).sm[sm]).toNat - (cnt.val + 1))) := by
  obtain ⟨u, quiet, next⟩ := issuesAs_waits h holds sm cnt enough
  refine ⟨u, by rw [next, State.finishSlot_takes], ?_⟩
  rw [quiet.ctx, State.issuedCtx_sm, Ctx.take_sm]
  rfl
/-- R250. SIGS whose bundle retires at issue leaves the sum, saturated at 255. -/
theorem sm_of_sigs (atOnce : s.retiresAtOnce c {} = true) : ∃ t, exec (.sigs g sm cnt) s = .next t
    ∧ (t.ctx s.focus c).sm = (s.ctx s.focus c).sm.set sm (BitVec.ofNat 8 (Nat.min 255 (((s.ctx s.focus c).sm[sm]).toNat + (cnt.val + 1)))) := by
  obtain ⟨u, quiet, next⟩ := issuesAs_sigs h holds sm cnt
  have unchanged : (u.ctx s.focus c).sm = (s.ctx s.focus c).sm := by
    rw [quiet.ctx, State.issuedCtx_sm]
    rfl
  refine ⟨_, by rw [next, State.finishSlot_sem u .c sm _ atOnce], ?_⟩
  rw [State.ctx_modCtx_self, Ctx.signal, unchanged]

end

/-- R250. The retire of a SIGS bundle after its issue leaves the semaphores as they are and keeps the count for the next cycle. -/
theorem bundleRetire_count {s : State} {k c : Nat} {b : Issued} {l : List Issued} {sm : Fin 16} {n : Nat} (present : coreExists k = true)
    (oldest : (s.ctx k c).inflight = b :: l) (fault : b.fault = none) (conds : b.conds = []) (eff : b.eff = [.sem sm n])
    (noneHeld : (s.ctx k c).held = []) :
    ∃ t, exec (.bundleRetire k c) s = .next t ∧ (t.ctx k c).sm = (s.ctx k c).sm ∧ (t.ctx k c).raised = (s.ctx k c).raised ++ [(sm, n)]
      ∧ (t.ctx k c).inflight = l := by
  have retired : (s.modCtx k c fun x => x.retiredOldest b).ctx k c = (s.ctx k c).retiredOldest b := State.ctx_modCtx_self _ _ _ _
  obtain ⟨p, hp⟩ := State.pendOnly_sendReady (s := s.modCtx k c fun x => x.retiredOldest b) (k := k) (c := c) (by rw [retired]; exact noneHeld)
  have run : exec (.bundleRetire k c) s = .next ((s.modCtx k c fun x => x.retiredOldest b).sendReady k c) := by
    rw [← State.retireOldest_count oldest fault conds eff]
    exact if_neg (by simp [present])
  refine ⟨_, run, ?_⟩
  rw [hp, retired]
  exact ⟨rfl, by simp [Ctx.retiredOldest, eff, Effect.count], by simp [Ctx.retiredOldest, oldest]⟩

/-- Settles O30: the retire after issue, the delivery in the next cycle, and the issue of WAITS and SIGS, each by its own lemma above. -/
theorem semaphores : Obligations.Semaphores := by
  unfold Obligations.Semaphores
  refine ⟨?retire, ?deliver, ?issue⟩
  case retire =>
    intro s k c b l sm n present oldest fault conds eff noneHeld
    exact bundleRetire_count present oldest fault conds eff noneHeld
  case deliver =>
    intro s k c sm n waits here
    rw [State.ctx_deliver_one waits here]
    exact ⟨rfl, rfl⟩
  case issue =>
    intro s c h g holds sm cnt _
    exact ⟨fun enough => ⟨issuesAs_waits h holds sm cnt enough, sm_of_waits h holds sm cnt enough⟩, blocksAs_waits h holds sm cnt,
      issuesAs_sigs h holds sm cnt, sm_of_sigs h holds sm cnt⟩

end Sys2Proof.Machine
end
